-- ==== Sys2Proof/Word.lean ====
section
/-! DEFINITION. The word types of the hub: management registers and descriptor words are 64 bits (R6), memory is bytes (R5),
node IDs are 10 bits (R26). -/
namespace Sys2Proof

/-- A 64-bit word: a management register, a descriptor word, an Auger register. -/
abbrev Word := BitVec 64

/-- One byte of memory, of a payload or of a descriptor. -/
abbrev Byte := BitVec 8

/-- A node ID (R26). -/
abbrev Node := BitVec 10

end Sys2Proof
end

