-- ==== Sys2Proof/Machine/Types.lean ====
section
/-! DEFINITION. The data a command can carry and the hub can hold: packets, planks, agents, accesses. -/
namespace Sys2Proof.Machine

/-- A fabric packet: the header fields of Tables 2.1 to 2.3, its payload (LEN is its length), CHK and RCHK (R36, R39).
`loc` is Q1[51:0], the fabric address or collective locator. -/
structure Packet where
  flow    : BitVec 8 := 0
  part    : BitVec 4 := 0
  kslot   : BitVec 6 := 0
  kep     : Bool := false
  rep     : Bool := false
  ph      : Bool := false
  cls     : BitVec 3 := 0
  src     : Node := 0
  dst     : Node := 0
  md      : BitVec 4 := 0
  opc     : BitVec 4 := 0
  tag     : BitVec 12 := 0
  mc      : Bool := false
  loc     : BitVec 52 := 0
  stat    : BitVec 8 := 0
  peg     : BitVec 12 := 0
  pgm     : BitVec 2 := 0
  gh      : Bool := false
  rck     : Bool := false
  aux40   : BitVec 40 := 0
  aux64   : BitVec 64 := 0
  payload : List Byte := []
  chk     : Word := 0
  rchk    : Word := 0
  deriving DecidableEq, Repr, Inhabited

/-- Where a packet enters this hub (R108): a fabric port by its output index (Table 4.3), an agent of a function of a host
port (ingress index 86 or 87), or another local source, which has no ingress index. -/
inductive Ingress where
  | port (p : Fin 86)
  | host (n : Fin 2)
  | inner
  deriving DecidableEq, Repr, Inhabited

/-- Where an open of a collective comes from (R160). -/
inductive Opener where
  | queue (bay q : Nat)
  | ring (op : Nat)
  | wright (desc : Nat)
  deriving DecidableEq, Repr, Inhabited

/-- The agents that issue accesses (R72, R73, R78). The status-word writer acts for a function, the commit for a collective, the
sill's member behaviour for the queue or operation whose member it is. -/
inductive Agent where
  | thread (bay th : Nat)
  | queue (bay eng q : Nat)
  | wright
  | aperture (f : Nat)
  | ring (f : Nat)
  | statusWriter (f : Nat)
  | sampler
  | trigger (peg : Nat)
  | raiseCommit (cid : Nat)
  | unseal
  | member (o : Opener)
  | longCmd
  | combined
  | detour (joist : Nat)
  deriving DecidableEq, Repr, Inhabited

/-- The half of a register that an access names (R6): the whole word, one half, or a width or alignment that R6 refuses. -/
inductive Half where
  | full | low | high | other
  deriving DecidableEq, Repr, Inhabited

/-- A register write: the value on its byte lanes. -/
structure Access where
  value : Word
  half  : Half := .full
  deriving DecidableEq, Repr, Inhabited

/-- Who writes a register (R315, R454). -/
inductive Writer where
  | wright
  | func (f : Fin 32)
  deriving DecidableEq, Repr, Inhabited

/-- The straps of Table 16.1. -/
structure Straps where
  settle : BitVec 3
  bank   : Bool
  plane  : BitVec 3
  slot   : BitVec 2
  deriving DecidableEq, Repr, Inhabited

/-- The outcome of memory training (R308): the stacks that trained, and the LPDDR5X rate code (`none`: some channel failed at every
rate). -/
structure Training where
  trained : BitVec 4
  lpRate  : Option (Fin 3)
  deriving DecidableEq, Repr, Inhabited

/-- A place where a packet waits and its age is checked (R109): the head of a receive buffer or of a queue. -/
inductive Place where
  | rx (ing : Ingress) (vc : Fin 10)
  | queue (out : Fin 88) (cls : Fin 5)
  deriving DecidableEq, Repr, Inhabited

/-- How a PCIe transaction toward a host ends (R319). -/
inductive PcieResult where
  | ok (data : List Byte)
  | unsupported
  | abort
  | poisoned
  deriving DecidableEq, Repr, Inhabited

/-- A host's read of COMMIT of a mortise page, and a write of RELEASE (R318, Table 12.11). -/
structure PageRead where
  n    : Fin 256
  half : Half := .full
  deriving DecidableEq, Repr, Inhabited
structure PageWrite where
  n   : Fin 256
  acc : Access
  deriving DecidableEq, Repr

/-- An entry of the MSI-X table (R318, PCIe): the vector, its message address, and its data with the vector control, whose bit 32 masks
it. -/
structure VectorEntry where
  v    : Fin 32
  addr : Word
  ctl  : Word
  deriving DecidableEq, Repr, Inhabited

/-- Memory Space Enable and Bus Master Enable of a function's Command register (R313, PCIe). -/
structure CmdBits where
  mem    : Bool := false
  master : Bool := false
  deriving DecidableEq, Repr, Inhabited

/-- The other bits of a function's configuration space that the hub acts on (R312, R313, PCIe): the VF MSE of a PF, MSI-X Enable and the
MSI-X Function Mask. -/
structure FuncBits where
  vfs    : Bool := false
  msix   : Bool := false
  mask   : Bool := false
  deriving DecidableEq, Repr, Inhabited

/-- The four fault classes of Table 14.4, by FLT_FIRST.CLASS. -/
inductive FaultClass where
  | corrected | contained | planeFatal | deviceFatal
  deriving DecidableEq, Repr, Inhabited

/-- A sealed packet that ends in a plank (R406, R407): its GCM tag's verdict, its packet counter, how many planks before this one its
first byte came, and the packet. Before the HELLO exchange completes packets travel in the clear, and `sealed` is false. -/
structure SealedPacket where
  sealed  : Bool
  tagOk   : Bool
  counter : Nat
  back    : Nat := 0
  pkt     : Packet
  deriving DecidableEq, Repr, Inhabited

/-- What a plank carries besides its control block (Table 15.1, R410, R419, R420). NARROW planks have commands of their own. -/
inductive PlankBody where
  | data (packets : List SealedPacket)
  | init (credits : List Nat)
  | doze (deep deepAck : Bool)
  | fill
  | reserved
  deriving DecidableEq, Repr, Inhabited

/-- A received plank: whether its codeword decoded and how many symbols were corrected (R401), the lane, and the control
block of Table 15.1. -/
structure Plank where
  decoded  : Bool
  lane     : Fin 8
  symbols  : Nat
  rpl      : Bool
  ack      : BitVec 12
  pseq     : BitVec 12
  crVc     : BitVec 4
  crCells  : BitVec 7
  body     : PlankBody
  deriving DecidableEq, Repr, Inhabited

/-- A training word (Table 15.3). -/
structure TrainingWord where
  magic   : BitVec 16
  lane    : BitVec 3
  ready   : Bool
  widths  : BitVec 3
  preset  : BitVec 4
  coefReq : BitVec 8
  coefStat : BitVec 8
  fom     : BitVec 10
  deriving DecidableEq, Repr, Inhabited

/-- What reading an optical module gives (R423): received powers of the lanes in 0.1 µW, temperature, state, alarm. -/
structure ModuleRead where
  powers : List (BitVec 16)
  temp   : BitVec 8
  state  : BitVec 8
  alarm  : Bool
  deriving DecidableEq, Repr, Inhabited

/-- The measurements a sounding evaluation reads from sensors (R384): the lowest critical-path slack in 1/1,024 period and
the highest junction temperature. -/
structure Measures where
  slack : Nat
  tj    : Int
  deriving DecidableEq, Repr, Inhabited

/-- The sensor figures of an hourly wear record (Table 14.18) that no register holds. -/
structure WearInputs where
  tjMax       : BitVec 8
  tjMin       : BitVec 8
  avsBands    : List Byte
  slackMin    : BitVec 8
  deriving DecidableEq, Repr, Inhabited

end Sys2Proof.Machine
end

