-- ==== Sys2Proof/Syntax.lean ====
section
/-! DEFINITION. The commands of the hub: one constructor for each row of the table of operations and events. An operand is
what the environment supplies: the object that the event concerns, the value written, or what a sensor, a far end or a host
contributes. Everything else a command uses is in the state. -/
namespace Sys2Proof

open Machine

/-- A command or event of the hub. The docstring of each names the row of the table. -/
inductive Instr where
  -- Start-up and pins (chapters 16 and 18)
  /-- AON_POWER_ON_RESET_END (R425). -/
  | aonPowerOnResetEnd (slot : BitVec 2)
  /-- RESET_N_ASSERT (R425). -/
  | resetNAssert
  /-- RESET_N_DEASSERT (R426). -/
  | resetNDeassert (straps : Straps)
  /-- SETTLE_DELAY_EXPIRY (R427). -/
  | settleDelayExpiry (refclkCore : Bool) (badSlots : List (Fin 64)) (secOk : Bool)
  /-- DOMAIN_POWER_GOOD (R444). -/
  | domainPowerGood (d : Fin 20)
  /-- DOMAIN_POWER_GOOD_TIMEOUT (R439). -/
  | domainPowerGoodTimeout (d : Fin 20)
  /-- MEMORY_TRAINING_DONE (R308). -/
  | memoryTrainingDone (r : Training)
  /-- WIPE_WRITE_PASS_DONE (R309). -/
  | wipeWritePassDone (fail : Option (Fin 17))
  /-- WIPE_VERIFY_PASS_DONE (R310). -/
  | wipeVerifyPassDone (fail : Option (Fin 17))
  /-- LINK_TRAINING_WINDOW_EXPIRY (R440). -/
  | linkTrainingWindowExpiry
  /-- READY_EDGE (R440). -/
  | readyEdge
  /-- RCV_ERASE (R438). -/
  | rcvErase (port : Fin 2) (area : BitVec 2)
  /-- RCV_PROGRAM (R438). -/
  | rcvProgram (port : Fin 2) (area : BitVec 2) (page : BitVec 12)
  /-- RCV_VERIFY (R438). -/
  | rcvVerify (port : Fin 2) (area : BitVec 2)
  /-- RCV_ATTEST (R438). -/
  | rcvAttest (port : Fin 2)
  /-- RCV_RESET (R438). -/
  | rcvReset (port : Fin 2)
  /-- RECOVERY_CMD_DONE (R438). -/
  | recoveryCmdDone (deviceOk : Bool)
  /-- PWR_DOM_WRITE (R445). -/
  | pwrDomWrite (a : Access)
  /-- CLK_EN_BAY_WRITE (R448). -/
  | clkEnBayWrite (a : Access)
  /-- CLK_EN_BLK_WRITE (R448). -/
  | clkEnBlkWrite (a : Access)
  /-- POWER_ESTIMATE_TICK (R451). -/
  | powerEstimateTick (watts : Nat) (engines : Nat) (tj : Int)
  /-- THERMAL_THROTTLE_TICK (R452). -/
  | thermalThrottleTick (tj : Int)
  /-- REFCLK_LOSS (R446). -/
  | refclkLoss (serdes : Bool)
  /-- RAIL_EXCURSION (R471). -/
  | railExcursion
  /-- AVS_COMMAND (R469). -/
  | avsCommand (vReq : Nat) (ack : Bool)
  /-- THERMTRIP (R476). -/
  | thermtrip
  /-- SMB_SET_PTR (R478). -/
  | smbSetPtr (count : BitVec 8) (pointer : BitVec 32)
  /-- SMB_READ (R478). -/
  | smbRead
  /-- SMB_ALERT_RESPONSE (R477). -/
  | smbAlertResponse
  /-- JTAG_IDCODE (R479). -/
  | jtagIdcode
  /-- JTAG_BYPASS (R479). -/
  | jtagBypass
  /-- JTAG_SAMPLE_PRELOAD (R479). -/
  | jtagSamplePreload (scan : List Bool)
  /-- JTAG_EXTEST (R479). -/
  | jtagExtest
  -- Registers without a row of their own (R7)
  /-- REGISTER_WRITE (R7). -/
  | registerWrite (w : Writer) (off : BitVec 26) (a : Access)
  -- Switch core (chapter 4)
  /-- INGRESS_ROUTE (R118). -/
  | ingressRoute (ing : Ingress) (vc : Fin 10)
  /-- QUEUE_ADMIT (R111). -/
  | queueAdmit (ing : Ingress) (vc : Fin 10)
  /-- PACKET_TRANSMIT (R115). -/
  | packetTransmit (out : Fin 86) (cls : Fin 5)
  /-- MULTICAST_REPLICATE (R123). -/
  | multicastReplicate (girt : Bool) (cls : Fin 5)
  /-- LOCAL_DELIVERY (R107). -/
  | localDelivery (ing : Ingress) (vc : Fin 10)
  /-- PACKET_AGE_DISCARD (R109). -/
  | packetAgeDiscard (place : Place)
  /-- LOSS_RECORD_EXPIRY (R100). -/
  | lossRecordExpiry (pair : Option (Node × Node))
  /-- DRAIN_RATE_WINDOW (R113). -/
  | drainRateWindow (out : Fin 88) (cls : Fin 5)
  /-- HOT_WINDOW_END (R127). -/
  | hotWindowEnd (j : Fin 72)
  /-- COMBINED_AT_RESPONSE (R129). -/
  | combinedAtResponse
  /-- COMBINED_AT_TIMEOUT (R129). -/
  | combinedAtTimeout (tag : BitVec 12)
  -- The sill as target and as source (chapters 2 and 3)
  /-- RD_READ (R52). -/
  | rdRead (src dst : Node)
  /-- RD_FLUSH (R99). -/
  | rdFlush (src dst : Node)
  /-- WR (R75). -/
  | wr (src dst : Node)
  /-- WRA (R75). -/
  | wra (src dst : Node)
  /-- AT_ADD (R46). -/
  | atAdd (src dst : Node)
  /-- AT_AND (R46). -/
  | atAnd (src dst : Node)
  /-- AT_OR (R46). -/
  | atOr (src dst : Node)
  /-- AT_XOR (R46). -/
  | atXor (src dst : Node)
  /-- AT_SWAP (R46). -/
  | atSwap (src dst : Node)
  /-- AT_CAS (R46). -/
  | atCas (src dst : Node)
  /-- AT_MAX (R46). -/
  | atMax (src dst : Node)
  /-- AT_MIN (R46). -/
  | atMin (src dst : Node)
  /-- SEND (R48). -/
  | send (src dst : Node)
  /-- HOST_PCIE_COMPLETION (R319). -/
  | hostPcieCompletion (id : Nat) (r : PcieResult)
  /-- HOST_COMPLETION_TIMEOUT (R319). -/
  | hostCompletionTimeout (id : Nat)
  /-- RSP_DATA (R52). -/
  | rspData
  /-- RSP_ACK (R52). -/
  | rspAck
  /-- NAK (R65). -/
  | nak
  /-- REQ_TIMEOUT_EXPIRY (R54). -/
  | reqTimeoutExpiry (node : Node) (tag : BitVec 12)
  /-- FENCE_COMPLETE (R95). -/
  | fenceComplete (a : Agent)
  /-- FENCE_TIMEOUT (R101). -/
  | fenceTimeout (a : Agent)
  /-- PEG_WAIT_TIMEOUT (R87). -/
  | pegWaitTimeout (a : Agent)
  -- Link-local and management packets (chapters 1, 2, 4, 13, 14)
  /-- MGT_SOUND (R381). -/
  | mgtSound (p : Fin 86)
  /-- MGT_HELLO (R351). -/
  | mgtHello (p : Fin 86)
  /-- MGT_CAP (R70). -/
  | mgtCap (p : Fin 86)
  /-- MGT_PING (R125). -/
  | mgtPing (p : Option (Fin 86))
  /-- MGT_PONG (R125). -/
  | mgtPong (p : Option (Fin 86))
  /-- HELLO_TIMEOUT (R351). -/
  | helloTimeout (p : Fin 86)
  /-- PORT_DOWN (R411). -/
  | portDown (p : Fin 86)
  /-- JOIST_PORT_RETURN (R32). -/
  | joistPortReturn (j : Fin 72)
  /-- DETOUR_DRAIN_ACKED (R32). -/
  | detourDrainAcked (j : Fin 72)
  /-- DETOUR_LIFETIME_EXPIRY (R32). -/
  | detourLifetimeExpiry (j : Fin 72)
  /-- GIRT_RETURN_RELEASE (R120). -/
  | girtReturnRelease (p : Fin 86)
  /-- SWC_RT_ENTRY_WRITE (R132). -/
  | swcRtEntryWrite (n : Fin 1024) (a : Access)
  /-- SCARF_COMMIT (R132). -/
  | scarfCommit
  /-- SCARF_FLIP (R133). -/
  | scarfFlip
  /-- BANK_FREE (R135). -/
  | bankFree
  /-- SWC_PKT_LIFETIME_WRITE (R459). -/
  | swcPktLifetimeWrite (a : Access)
  /-- SAMPLER_ENABLE (R138). -/
  | samplerEnable (a : Access)
  /-- SWC_SMP_IDX_WRITE (R461). -/
  | swcSmpIdxWrite (a : Access)
  -- Collectives and RAISE (chapters 5 to 7)
  /-- SAW_SR_SEED_WRITE (R150). -/
  | sawSrSeedWrite (a : Access)
  /-- COLLECTIVE_OPEN (R163): of the descriptor at the address `desc` that the opener names. -/
  | collectiveOpen (o : Opener) (desc : Word)
  /-- KERF_ADMIT (R167). -/
  | kerfAdmit
  /-- ADMISSION_WAIT_EXPIRY (R168). -/
  | admissionWaitExpiry (id : Nat)
  /-- COLC_COUNT (R175). -/
  | colcCount
  /-- COLC_SCALE (R156). -/
  | colcScale
  /-- COLC_DATA (R178). -/
  | colcData
  /-- COLC_CONFIRM (R182). -/
  | colcConfirm
  /-- COLR_COUNT (R176). -/
  | colrCount
  /-- COLR_SCALE (R157). -/
  | colrScale
  /-- COLR_DATA (R174). -/
  | colrData
  /-- COLR_FINAL (R183). -/
  | colrFinal
  /-- STALL_TIMER_EXPIRY (R185). -/
  | stallTimerExpiry (cid : Fin 512)
  /-- MEMBER_LOCAL_TIMEOUT (R187). -/
  | memberLocalTimeout (id : Nat)
  /-- SLOT_DONE_EXPIRY (R169). -/
  | slotDoneExpiry (cid : Fin 512)
  /-- RAISE_U3_CONVERT (R203). -/
  | raiseU3Convert (cid : Fin 512) (chunk : Nat)
  /-- SAW_SEG_DIR_WRITE (R194). -/
  | sawSegDirWrite (n : Fin 256) (a : Access)
  -- Bays and their engines (chapter 8)
  /-- BAY_QCFG_ENABLE (R220). -/
  | bayQcfgEnable (b : Fin 64) (e : Fin 4) (q : Fin 4) (a : Access)
  /-- BAY_QCFG_DISABLE (R223). -/
  | bayQcfgDisable (b : Fin 64) (e : Fin 4) (q : Fin 4) (a : Access)
  /-- DESCRIPTOR_START (R221). -/
  | descriptorStart (b : Fin 64) (e : Fin 4) (q : Fin 4)
  /-- DESC_WAIT_TIMEOUT (R225). -/
  | descWaitTimeout (b : Fin 64) (e : Fin 4) (q : Fin 4)
  /-- DESCRIPTOR_COMPLETE (R225). -/
  | descriptorComplete (b : Fin 64) (e : Fin 4) (q : Fin 4)
  /-- ME_MMUL (R228): of descriptor `n` of a queue (R220), as in the rows of the other engines. -/
  | meMmul (b : Fin 64) (q : Fin 4) (n : Word)
  /-- VE_COPY (R231). -/
  | veCopy (b : Fin 64) (q : Fin 4) (n : Word)
  /-- VE_ADD (R231). -/
  | veAdd (b : Fin 64) (q : Fin 4) (n : Word)
  /-- VE_SUB (R231). -/
  | veSub (b : Fin 64) (q : Fin 4) (n : Word)
  /-- VE_MUL (R231). -/
  | veMul (b : Fin 64) (q : Fin 4) (n : Word)
  /-- VE_MAC (R231). -/
  | veMac (b : Fin 64) (q : Fin 4) (n : Word)
  /-- VE_MAX (R231). -/
  | veMax (b : Fin 64) (q : Fin 4) (n : Word)
  /-- VE_MIN (R231). -/
  | veMin (b : Fin 64) (q : Fin 4) (n : Word)
  /-- VE_AFFINE (R231). -/
  | veAffine (b : Fin 64) (q : Fin 4) (n : Word)
  /-- VE_RSQ (R231). -/
  | veRsq (b : Fin 64) (q : Fin 4) (n : Word)
  /-- VE_SUMRED (R231). -/
  | veSumred (b : Fin 64) (q : Fin 4) (n : Word)
  /-- VE_UPD_SCALED (R204). -/
  | veUpdScaled (cid : Fin 512) (chunk : Nat)
  /-- VE_UPD_MOM (R204). -/
  | veUpdMom (cid : Fin 512) (chunk : Nat)
  /-- VE_UPD_ADAPT2 (R204). -/
  | veUpdAdapt2 (cid : Fin 512) (chunk : Nat)
  /-- DE_COPY (R233). -/
  | deCopy (b : Fin 64) (q : Fin 4) (n : Word)
  /-- DE_FILL (R233). -/
  | deFill (b : Fin 64) (q : Fin 4) (n : Word)
  /-- DE_TSTREAM (R235). -/
  | deTstream (b : Fin 64) (q : Fin 4) (n : Word)
  /-- DE_COLL_OPEN (R237). -/
  | deCollOpen (b : Fin 64) (q : Fin 4) (n : Word)
  /-- DE_COLL_MEMBER (R238). -/
  | deCollMember (b : Fin 64) (q : Fin 4) (n : Word)
  /-- BAY_MODE_WRITE (R241). -/
  | bayModeWrite (b : Fin 64) (a : Access)
  /-- BAY_TCTL_START (R242). -/
  | bayTctlStart (b : Fin 64) (t : Fin 16) (a : Access)
  /-- BAY_TCTL_STOP (R275). -/
  | bayTctlStop (b : Fin 64) (t : Fin 16)
  -- Auger instructions (chapter 9): the thread runs the word at its PC
  /-- ALU (R251). -/
  | alu (b : Fin 64) (t : Fin 16)
  /-- ADDI (R252). -/
  | addi (b : Fin 64) (t : Fin 16)
  /-- ANDI (R252). -/
  | andi (b : Fin 64) (t : Fin 16)
  /-- ORI (R252). -/
  | ori (b : Fin 64) (t : Fin 16)
  /-- XORI (R252). -/
  | xori (b : Fin 64) (t : Fin 16)
  /-- SHI (R252). -/
  | shi (b : Fin 64) (t : Fin 16)
  /-- MOVZ (R252). -/
  | movz (b : Fin 64) (t : Fin 16)
  /-- MOVK (R252). -/
  | movk (b : Fin 64) (t : Fin 16)
  /-- CMP (R253). -/
  | cmp (b : Fin 64) (t : Fin 16)
  /-- CMPI (R253). -/
  | cmpi (b : Fin 64) (t : Fin 16)
  /-- PLOG (R253). -/
  | plog (b : Fin 64) (t : Fin 16)
  /-- LB (R254). -/
  | lb (b : Fin 64) (t : Fin 16)
  /-- LBU (R254). -/
  | lbu (b : Fin 64) (t : Fin 16)
  /-- LH (R254). -/
  | lh (b : Fin 64) (t : Fin 16)
  /-- LHU (R254). -/
  | lhu (b : Fin 64) (t : Fin 16)
  /-- LW (R254). -/
  | lw (b : Fin 64) (t : Fin 16)
  /-- LWU (R254). -/
  | lwu (b : Fin 64) (t : Fin 16)
  /-- LD (R254). -/
  | ld (b : Fin 64) (t : Fin 16)
  /-- SB (R254). -/
  | sb (b : Fin 64) (t : Fin 16)
  /-- SH (R254). -/
  | sh (b : Fin 64) (t : Fin 16)
  /-- SW (R254). -/
  | sw (b : Fin 64) (t : Fin 16)
  /-- SD (R254). -/
  | sd (b : Fin 64) (t : Fin 16)
  /-- BR (R255). -/
  | br (b : Fin 64) (t : Fin 16)
  /-- CALL (R255). -/
  | call (b : Fin 64) (t : Fin 16)
  /-- JMPR (R255). -/
  | jmpr (b : Fin 64) (t : Fin 16)
  /-- RLD (R257). -/
  | rld (b : Fin 64) (t : Fin 16)
  /-- RST (R258). -/
  | rst (b : Fin 64) (t : Fin 16)
  /-- RAT (R259). -/
  | rat (b : Fin 64) (t : Fin 16)
  /-- FENCE_LOFT (R261). -/
  | fenceLoft (b : Fin 64) (t : Fin 16)
  /-- FENCE_NODE (R261). -/
  | fenceNode (b : Fin 64) (t : Fin 16)
  /-- FENCE_ALL (R261). -/
  | fenceAll (b : Fin 64) (t : Fin 16)
  /-- CINV_TAG (R262). -/
  | cinvTag (b : Fin 64) (t : Fin 16)
  /-- CINV_LINE (R262). -/
  | cinvLine (b : Fin 64) (t : Fin 16)
  /-- PADV (R264). -/
  | padv (b : Fin 64) (t : Fin 16)
  /-- PWAIT (R265). -/
  | pwait (b : Fin 64) (t : Fin 16)
  /-- PRD (R266). -/
  | prd (b : Fin 64) (t : Fin 16)
  /-- MPUT (R267). -/
  | mput (b : Fin 64) (t : Fin 16)
  /-- MGET (R268). -/
  | mget (b : Fin 64) (t : Fin 16)
  /-- ECMD (R269). -/
  | ecmd (b : Fin 64) (t : Fin 16)
  /-- ECMD_RESUME (R269). -/
  | ecmdResume (b : Fin 64) (t : Fin 16)
  /-- SYS_NOP (R271). -/
  | sysNop (b : Fin 64) (t : Fin 16)
  /-- HALT (R271). -/
  | halt (b : Fin 64) (t : Fin 16)
  /-- TRAP (R271). -/
  | trap (b : Fin 64) (t : Fin 16)
  /-- ERET (R271). -/
  | eret (b : Fin 64) (t : Fin 16)
  /-- MFS (R272). -/
  | mfs (b : Fin 64) (t : Fin 16)
  /-- MTS (R272). -/
  | mts (b : Fin 64) (t : Fin 16)
  /-- TSTART (R271). -/
  | tstart (b : Fin 64) (t : Fin 16)
  -- Scribe and memory (chapters 10 and 11)
  /-- SCR_CTX_CFG_WRITE (R278). -/
  | scrCtxCfgWrite (n : Fin 256) (a : Access)
  /-- SCR_INV_GO (R294). -/
  | scrInvGo (w : Writer) (a : Access)
  /-- SCR_INV_DONE (R294). -/
  | scrInvDone
  /-- WALK_START (R290). -/
  | walkStart
  /-- WALK_TABLE_READ_RETURN (R280). -/
  | walkTableReadReturn (w : Fin 16) (words : Option (List Word))
  /-- PREFETCH_WALK (R290). -/
  | prefetchWalk (b : Fin 64) (e : Fin 4) (q : Fin 4)
  /-- SCRUB_READ (R307). -/
  | scrubRead (lp : Bool)
  /-- MEMORY_RETRAIN (R308). -/
  | memoryRetrain (lp : Bool) (ctl : Fin 64)
  -- Host ports (chapters 12, 13 and 14)
  /-- BAR2_WRITE (R316). -/
  | bar2Write (f : Fin 32) (addr : BitVec 36) (data : List Byte)
  /-- BAR2_READ (R316). -/
  | bar2Read (f : Fin 32) (addr : BitVec 36) (len : Nat)
  /-- BAR2_ATOMICOP (R316). -/
  | bar2AtomicOp (f : Fin 32) (addr : BitVec 36) (op : BitVec 4) (wide : Bool) (operand compare : Word)
  /-- BAR4_DB_WRITE (R320). -/
  | bar4DbWrite (f : Fin 32) (r : Fin 16) (a : Access)
  /-- BAR4_FENCE_READ (R318). -/
  | bar4FenceRead (f : Fin 32) (half : Half)
  /-- MORTISE_STAGE_WRITE (R333). -/
  | mortiseStageWrite (f : Fin 32) (n : Fin 256) (off : Nat) (data : List Byte)
  /-- MORTISE_COMMIT_READ (R333). -/
  | mortiseCommitRead (f : Fin 32) (a : PageRead)
  /-- MORTISE_RELEASE_WRITE (R334). -/
  | mortiseReleaseWrite (f : Fin 32) (a : PageWrite)
  /-- RING_ENTRY_FETCH (R321): entry `n` of a ring (R320), as the host returns it. -/
  | ringEntryFetch (f : Fin 32) (r : Fin 16) (entry : List Byte) (n : BitVec 32)
  /-- RING_COLL_OPEN (R322): of an operation of function `f`, as in the next two rows. -/
  | ringCollOpen (op : Nat) (f : Fin 32)
  /-- RING_COLL_MEMBER (R322). -/
  | ringCollMember (op : Nat) (f : Fin 32)
  /-- RING_XFER (R322). -/
  | ringXfer (op : Nat) (f : Fin 32)
  /-- RING_ABORT (R323). -/
  | ringAbort (op : Nat)
  /-- STATUS_PROGRESS_UPDATE (R325). -/
  | statusProgressUpdate (op : Nat)
  /-- STATUS_WRITE_RETRY (R325). -/
  | statusWriteRetry (op : Nat)
  /-- COMMAND_TAKE (R337). -/
  | commandTake (f : Fin 32) (block : Option (List Byte))
  /-- RING_BIND (R338). -/
  | ringBind (f : Fin 32)
  /-- RING_UNBIND (R338). -/
  | ringUnbind (f : Fin 32)
  /-- RING_UNBIND_DONE (R338). -/
  | ringUnbindDone (f : Fin 32)
  /-- REG_WRITE (R339). -/
  | regWrite (f : Fin 32)
  /-- PART_ADD (R363). -/
  | partAdd (f : Fin 32)
  /-- PART_REMOVE (R364). -/
  | partRemove (f : Fin 32)
  /-- KEY_SLOT_DESTROY (R364). -/
  | keySlotDestroy (p : Fin 16)
  /-- SEC_DRAIN_TIMEOUT (R364). -/
  | secDrainTimeout (p : Fin 16)
  /-- PARTITION_WIPE_DONE (R365). -/
  | partitionWipeDone (p : Fin 16)
  /-- REKEY_ROTATE (R356). -/
  | rekeyRotate (f : Fin 32)
  /-- REKEY_RETIRE (R356). -/
  | rekeyRetire (p : Fin 16)
  /-- REKEY_RELEASE (R358). -/
  | rekeyRelease (f : Fin 32)
  /-- REKEY_UNSEAL (R359). -/
  | rekeyUnseal (f : Fin 32)
  /-- WIPE_REGION (R366). -/
  | wipeRegion (f : Fin 32)
  /-- WIPE_REGION_DONE (R366). -/
  | wipeRegionDone (f : Fin 32)
  /-- ATTEST (R361). -/
  | attest (f : Fin 32)
  /-- IMAGE_UPDATE (R443). -/
  | imageUpdate (f : Fin 32) (copy : Option (List Byte))
  /-- IMAGE_UPDATE_DONE (R443). -/
  | imageUpdateDone (f : Fin 32) (deviceOk : Bool)
  /-- OVR_EXPEL (R393). -/
  | ovrExpel (f : Fin 32)
  /-- OVR_RESTORE (R393). -/
  | ovrRestore (f : Fin 32)
  /-- OVR_MARK_ABSENT (R393). -/
  | ovrMarkAbsent (f : Fin 32)
  /-- OVR_CLEAR_ABSENT (R393). -/
  | ovrClearAbsent (f : Fin 32)
  /-- OVR_WIDEN (R393). -/
  | ovrWiden (f : Fin 32)
  /-- OVR_HOLD (R393). -/
  | ovrHold (f : Fin 32)
  /-- OVR_HOLD_EXPIRY (R393). -/
  | ovrHoldExpiry
  /-- HOST_PORT_RESET (R341). -/
  | hostPortReset (port : Fin 2)
  /-- FLR (R341). -/
  | flr (f : Fin 32)
  /-- VF_ENABLE_CLEAR (R341). -/
  | vfEnableClear (port : Fin 2)
  /-- FUNCTION_ENABLE (R313). -/
  | functionEnable (f : Fin 32) (mem master : Bool) (on : FuncBits)
  -- Faults, sounding and the wear log (chapter 14)
  /-- FAULT_EVENT (R372). -/
  | faultEvent (src : Fin 47) (cls : FaultClass) (checker : BitVec 16) (d0 d1 d2 d3 : Word)
  /-- FAULT_PULSE_END (R377). -/
  | faultPulseEnd
  /-- FLT_FIRST_CLEAR (R373). -/
  | fltFirstClear (a : Access)
  /-- FLT_LOG_CONS_WRITE (R380). -/
  | fltLogConsWrite (a : Access)
  /-- FLT_ERR_INJ_WRITE (R379). -/
  | fltErrInjWrite (a : Access)
  /-- SOUND_TOKEN_SEND (R381). -/
  | soundTokenSend
  /-- LINK_SILENT (R382). -/
  | linkSilent (p : Fin 86)
  /-- SOUNDING_EVALUATE (R385). -/
  | soundingEvaluate (m : Measures)
  /-- WEAR_RECORD_HOURLY (R395). -/
  | wearRecordHourly (m : WearInputs)
  /-- WEAR_SUMMARY (R396). -/
  | wearSummary
  -- Lanes and links (chapter 15)
  /-- PLANK_RECEIVE (R408). -/
  | plankReceive (p : Fin 86) (k : Plank)
  /-- REPLAY_RESEND (R409). -/
  | replayResend (p : Fin 86)
  /-- REPLAY_TIMER_EXPIRY (R409). -/
  | replayTimerExpiry (p : Fin 86)
  /-- SIGNAL_DETECT (R412). -/
  | signalDetect (p : Fin 86) (lanes : BitVec 8)
  /-- CDR_LOCK (R412). -/
  | cdrLock (p : Fin 86)
  /-- BLOCK_LOCK (R404). -/
  | blockLock (lane : Fin 688)
  /-- POLARITY_HUNT_TIMEOUT (R404). -/
  | polarityHuntTimeout (lane : Fin 688)
  /-- BLOCK_LOCK_LOSS (R404). -/
  | blockLockLoss (lane : Fin 688)
  /-- GROUP_LOCK (R404). -/
  | groupLock (lane : Fin 688)
  /-- GROUP_LOCK_LOSS (R404). -/
  | groupLockLoss (lane : Fin 688)
  /-- TRAINING_WORD_RECEIVE (R413). -/
  | trainingWordReceive (lane : Fin 688) (w : TrainingWord)
  /-- ADAPT_DONE (R415). -/
  | adaptDone (p : Fin 86)
  /-- TRAINING_TIMEOUT (R412). -/
  | trainingTimeout (p : Fin 86)
  /-- DOWN_RETRY_EXPIRY (R412). -/
  | downRetryExpiry (p : Fin 86)
  /-- FOM_MEASURE (R414). -/
  | fomMeasure (lane : Fin 688) (height amplitude : Nat)
  /-- NARROW_REQ_RECEIVE (R417). -/
  | narrowReqReceive (p : Fin 86) (half : Bool)
  /-- NARROW_ACK_RECEIVE (R417). -/
  | narrowAckReceive (p : Fin 86) (half : Bool)
  /-- NARROW_COMMIT_RECEIVE (R417). -/
  | narrowCommitReceive (p : Fin 86) (half : Bool)
  /-- NARROW_ACK_TIMEOUT (R417). -/
  | narrowAckTimeout (p : Fin 86)
  /-- DOZE_ENTER (R419). -/
  | dozeEnter (p : Fin 86)
  /-- DOZE_WAKE (R419). -/
  | dozeWake (p : Fin 86)
  /-- DEEP_REQUEST (R420). -/
  | deepRequest (p : Fin 86)
  /-- DEEP_REQUEST_TIMEOUT (R420). -/
  | deepRequestTimeout (p : Fin 86)
  /-- DEEP_EXIT (R420). -/
  | deepExit (p : Fin 86)
  /-- LINK_REKEY_START (R353). -/
  | linkRekeyStart (p : Fin 86)
  /-- LINK_COUNTER_EXHAUSTED (R353). -/
  | linkCounterExhausted (p : Fin 86)
  /-- LNK_PCTL_ENABLE (R412). -/
  | lnkPctlEnable (p : Fin 86) (a : Access)
  /-- LNK_PCTL_RETRAIN (R412). -/
  | lnkPctlRetrain (p : Fin 86) (a : Access)
  /-- LNK_PRBS_WRITE (R421). -/
  | lnkPrbsWrite (lane : Fin 688) (a : Access)
  /-- PRBS_INJECT (R421). -/
  | prbsInject (lane : Fin 688)
  /-- MARGIN_SAMPLE (R422). -/
  | marginSample (lane : Fin 688) (vmarg hmarg : Nat)
  /-- MODULE_POLL (R423). -/
  | modulePoll (x : Fin 8) (r : Option ModuleRead)
  /-- MODULE_INSERTION (R423). -/
  | moduleInsertion (x : Fin 8) (alarm : BitVec 16)
  -- Rows the table lists at its end
  /-- TAG_QUARANTINE_EXPIRY (R55). -/
  | tagQuarantineExpiry (node : Node) (tag : BitVec 12)
  /-- WRIGHT_RC_READ (R455). -/
  | wrightRcRead (off : BitVec 26) (half : Half)
  /-- RESERVED_OPCODE (R250). -/
  | reservedOpcode (b : Fin 64) (t : Fin 16)
  /-- PERST_DEASSERT (R441). -/
  | perstDeassert (port : Fin 2)
  /-- FUNCTION_ENABLE_CLEAR (R313). -/
  | functionEnableClear (f : Fin 32) (cmd : CmdBits) (off : FuncBits)
  /-- MSIX_VECTOR_UNMASK (R378). -/
  | msixVectorUnmask (f : Fin 32) (v : VectorEntry)
  /-- AON_SUPPLY_IN_RANGE (R475). -/
  | aonSupplyInRange
  /-- AON_SUPPLY_LOSS (R470). -/
  | aonSupplyLoss
  /-- PRBS_CHECKER_SYNC (R421). -/
  | prbsCheckerSync (lane : Fin 688)
  /-- DEBUG_ACCESS_OPEN (R479). -/
  | debugAccessOpen (jtag scan wrightDbg : Bool)
  deriving DecidableEq, Repr

end Sys2Proof
end

