-- ==== Sys2Proof/Decode.lean ====
section
/-! DEFINITION. No row of the table of operations and events gives bits: a command is not a word, so no word spells one. -/
namespace Sys2Proof

/-- The command that a word spells by the table's bits: none, since no row of the table has any. -/
def decodeTableWord (_nbits _w : Nat) : Option Instr := none

end Sys2Proof
end

