-- ==== Sys2Proof/Machine/Bits.lean ====
section
/-! DEFINITION. Bit fields, bytes, modular arithmetic, saturation (R5, R14), sparse tables in one canonical form, and the
CRC-64 of R60. -/
namespace Sys2Proof.Machine

/-! ### Bit fields of a 64-bit word -/

/-- Field [lo+n-1 : lo] of a word, as a number. -/
def bitsGet (w : Word) (lo n : Nat) : Nat := (w.toNat >>> lo) % 2 ^ n

/-- The word whose set bits are [lo+n-1 : lo]. -/
def bitsMask (lo n : Nat) : Word := BitVec.ofNat 64 ((2 ^ n - 1) <<< lo)

/-- The word with field [lo+n-1 : lo] holding `v` modulo 2^n. -/
def bitsPut (w : Word) (lo n v : Nat) : Word := (w &&& ~~~ (bitsMask lo n)) ||| BitVec.ofNat 64 ((v % 2 ^ n) <<< lo)

/-- Bit `i` of a word. -/
def bitAt (w : Word) (i : Nat) : Bool := w.getLsbD i

/-- A Bool as a bit. -/
def bit01 (b : Bool) : Nat := if b then 1 else 0

/-- The low 32 bits of a word. -/
def loHalf (w : Word) : Word := w &&& 0xFFFFFFFF#64
/-- The high 32 bits of a word, moved down. -/
def hiHalf (w : Word) : Word := w >>> 32

/-! ### Little-endian bytes (R5) -/

/-- The low `n` bytes of a number, least significant first. -/
def leBytes : Nat → Nat → List Byte
  | 0, _ => []
  | n + 1, v => BitVec.ofNat 8 v :: leBytes n (v / 256)

/-- The number that bytes spell, least significant first. -/
def leNat : List Byte → Nat
  | [] => 0
  | b :: bs => b.toNat + 256 * leNat bs

/-- The word that up to eight bytes spell. -/
def leWord (bs : List Byte) : Word := BitVec.ofNat 64 (leNat (bs.take 8))

/-- A byte string cut into words of eight bytes; the last is filled with zeros. -/
def leWords : Nat → List Byte → List Word
  | 0, _ => []
  | n + 1, bs => leWord bs :: leWords n (bs.drop 8)

/-- The bytes of a list of words. -/
def wordsBytes : List Word → List Byte
  | [] => []
  | w :: ws => leBytes 8 w.toNat ++ wordsBytes ws

/-- `n` zero bytes. -/
def zeros (n : Nat) : List Byte := List.replicate n 0

/-- A byte string cut or filled with zeros to `n` bytes. -/
def fit (n : Nat) (bs : List Byte) : List Byte := (bs ++ zeros (n - bs.length)).take n

/-- `len` bytes of a byte string from `off`. -/
def slice (bs : List Byte) (off len : Nat) : List Byte := (bs.drop off).take len

/-! ### Numbers (R14) -/

/-- sat(x, lo, hi). -/
def sat (x lo hi : Int) : Int := if x < lo then lo else if hi < x then hi else x

/-- A number held between two bounds. -/
def clampNat (x lo hi : Nat) : Nat := if x < lo then lo else if hi < x then hi else x

/-- The number of bits of a number; 0 for 0. -/
def bitlen (n : Nat) : Nat := if n = 0 then 0 else Nat.log2 n + 1

/-- The value of a word as a signed number. -/
def signed (n : Nat) (v : Nat) : Int := if v % 2 ^ n < 2 ^ (n - 1) then (v % 2 ^ n : Nat) else (v % 2 ^ n : Nat) - (2 ^ n : Nat)

/-- The word of a signed number. -/
def ofInt (n : Nat) (v : Int) : Nat := (v % (2 ^ n : Nat)).toNat

/-- Rounded up division. -/
def ceilDiv (a b : Nat) : Nat := (a + b - 1) / b

/-- The wait rule of R86: `value` has reached or passed `t` in the forward half of the 64-bit circle. -/
def reached (value t : Word) : Bool := decide ((value - t).toNat < 2 ^ 63)

/-! ### Sparse tables: keys strictly rising, no entry equal to the default -/

/-- A sparse table. -/
abbrev Table (α : Type) := List (Nat × α)

/-- The entry of key `k`; `d` where the table lists none. -/
def tget {α : Type} (d : α) : Table α → Nat → α
  | [], _ => d
  | (a, v) :: r, k => if a = k then v else tget d r k

/-- The table without the entry of key `k`. -/
def tdel {α : Type} : Table α → Nat → Table α
  | [], _ => []
  | (a, v) :: r, k => if a = k then tdel r k else (a, v) :: tdel r k

/-- The table with `v` at key `k`, in key order. -/
def tput {α : Type} : Table α → Nat → α → Table α
  | [], k, v => [(k, v)]
  | (a, u) :: r, k, v => if a = k then (k, v) :: r else if k < a then (k, v) :: (a, u) :: r else (a, u) :: tput r k v

/-- The table with entry `k` set to `v`; a default value removes the entry. -/
def tset {α : Type} [DecidableEq α] (d : α) (t : Table α) (k : Nat) (v : α) : Table α :=
  if v = d then tdel t k else tput t k v

/-- The canonical form: keys strictly rising, no entry equal to the default. -/
def twf {α : Type} [DecidableEq α] (d : α) : Table α → Bool
  | [] => true
  | [(_, v)] => !decide (v = d)
  | (a, v) :: (b, u) :: r => !decide (v = d) && decide (a < b) && twf d ((b, u) :: r)

/-- `len` consecutive entries from key `k`. -/
def tgetRun {α : Type} (d : α) (t : Table α) (k : Nat) : Nat → List α
  | 0 => []
  | n + 1 => tget d t k :: tgetRun d t (k + 1) n

/-- The table with consecutive entries from key `k` set to a list of values. -/
def tsetRun {α : Type} [DecidableEq α] (d : α) (t : Table α) (k : Nat) : List α → Table α
  | [] => t
  | v :: vs => tsetRun d (tset d t k v) (k + 1) vs

/-! ### The end-to-end check (R60) -/

/-- One bit of the CRC-64. -/
def crcBit (c : Word) : Word := if c.getLsbD 0 then (c >>> 1) ^^^ 0xC96C5795D7870F42#64 else c >>> 1

/-- `n` bits of the CRC-64. -/
def crcBits : Nat → Word → Word
  | 0, c => c
  | n + 1, c => crcBits n (crcBit c)

/-- The CRC register after the bytes of a list. -/
def crcRun (c : Word) : List Byte → Word
  | [] => c
  | b :: bs => crcRun (crcBits 8 (c ^^^ BitVec.ofNat 64 b.toNat)) bs

/-- CRC-64 of R60 over a byte string. -/
def crc64 (bs : List Byte) : Word := crcRun 0xFFFFFFFFFFFFFFFF#64 bs ^^^ 0xFFFFFFFFFFFFFFFF#64

end Sys2Proof.Machine
end

