-- ==== Sys2Proof/Machine/Formats.lean ====
section
/-! DEFINITION. Number formats, rounding, saturation and conversion (chapter 5), and exact binary numbers m x 2^e for the
engines and the RAISE kernels (R204, R232). -/
namespace Sys2Proof.Machine

/-! ### Rounding (R149, R150) -/

/-- A rounding unit at work: its generator, its taint count, and whether RMODE is stochastic. -/
structure Rnd where
  gen   : Word
  taint : Nat := 0
  stoch : Bool := false
  deriving DecidableEq, Repr

/-- The state that SAW_SR_SEED gives the generator of unit `u` (R150). -/
def genSeed (seed : Word) (u : Nat) : Word :=
  let s := if seed = 0 then 0x9E3779B97F4A7C15#64 else seed
  let x := s ^^^ (BitVec.ofNat 64 u * 0x9E3779B97F4A7C15#64)
  if x = 0 then 1 else x

/-- One advance of a generator. -/
def genStep (x : Word) : Word :=
  let x := x ^^^ (x <<< 13)
  let x := x ^^^ (x >>> 7)
  x ^^^ (x <<< 17)

/-- A unit that counts `k` more taints; the count stops at 2^32 - 1. -/
def Rnd.blot (r : Rnd) (k : Nat) : Rnd := { r with taint := min (r.taint + k) (2 ^ 32 - 1) }

/-- rshift_round (R149). -/
def rshiftRound (v : Int) (k : Nat) (r : Rnd) : Int × Rnd :=
  if k = 0 then (v, r)
  else
    let q := v / (2 ^ k : Nat)
    let rem := (v % (2 ^ k : Nat)).toNat
    if r.stoch then
      let t := min k 32
      let x := genStep r.gen
      (if x.toNat >>> (64 - t) < rem >>> (k - t) then q + 1 else q, { r with gen := x })
    else
      let half := 2 ^ (k - 1)
      (if half < rem ∨ (rem = half ∧ q % 2 = 1) then q + 1 else q, r)

/-- A value saturated between two limits, one taint if it was beyond them (R152). -/
def satTaint (v lo hi : Int) (r : Rnd) : Int × Rnd := (sat v lo hi, if sat v lo hi = v then r else r.blot 1)

/-- The A48 limits (R148). -/
def a48Lo : Int := -(2 ^ 47 : Nat)
def a48Hi : Int := (2 ^ 47 : Nat) - 1

/-- A48 addition (R148). -/
def a48Add (a b : Int) (r : Rnd) : Int × Rnd := satTaint (a + b) a48Lo a48Hi r

/-! ### The formats (R139) -/

def fT2 : Nat := 0
def fK8 : Nat := 2
def fK16 : Nat := 3
def fK32 : Nat := 4
def fA48 : Nat := 8
def fH16 : Nat := 9
def fB16 : Nat := 10

/-- The element width in bits as stored (Table 5.1); 0 for a reserved code. -/
def fmtWidth (f : Nat) : Nat := [2, 4, 8, 16, 32, 8, 16, 32, 64, 16, 16].getD f 0
/-- A code of Table 5.1. -/
def fmtOk (f : Nat) : Bool := decide (f ≤ 10)
/-- A block-scaled format. -/
def fmtBlock (f : Nat) : Bool := decide (f ≤ 4) || decide (f = fA48)
/-- T2 or a K format. -/
def fmtK (f : Nat) : Bool := decide (f ≤ 4)
/-- I8, I16 or I32. -/
def fmtI (f : Nat) : Bool := decide (5 ≤ f) && decide (f ≤ 7)
/-- H16 or B16. -/
def fmtFloat (f : Nat) : Bool := decide (f = fH16) || decide (f = fB16)
/-- A format that COLC DATA may carry (R140). -/
def fmtIn (f : Nat) : Bool := decide (f ≤ 7)
/-- Bytes of 32 elements. -/
def blockBytes (f : Nat) : Nat := 4 * fmtWidth f
/-- The alignment of an element array (R145). -/
def elAlign (f : Nat) : Nat := if fmtBlock f then min (blockBytes f) 64 else 64
/-- Blocks per 1,024-byte payload (Table 5.2). -/
def blocksPer (f : Nat) : Nat := if fmtOk f then 1024 / blockBytes f else 1
/-- The upper limit of a format (Table 5.4); of T2 and K formats and A48 the integer limit. -/
def fmtMax (f : Nat) : Int := if f = fA48 then a48Hi else (2 ^ (fmtWidth f - 1) : Nat) - 1
/-- The lower limit of a format (Table 5.4). -/
def fmtMin (f : Nat) : Int :=
  if f = fA48 then a48Lo else if fmtK f then -((2 ^ (fmtWidth f - 1) : Nat) - 1) else -(2 ^ (fmtWidth f - 1) : Nat)

/-! ### Blocks as stored (R141 to R146, R148) -/

/-- The element codes of 32 stored elements: each a number of the element width. -/
def unpackN (w : Nat) (v : Nat) : Nat → List Nat
  | 0 => []
  | n + 1 => v % 2 ^ w :: unpackN w (v / 2 ^ w) n

/-- The number that element codes spell. -/
def packN (w : Nat) : List Nat → Nat
  | [] => 0
  | x :: r => x % 2 ^ w + 2 ^ w * packN w r

/-- The integer of one stored element, with the taint of a bad T2 code or A48 element (Table 5.5). -/
def readElem (f c : Nat) (r : Rnd) : Int × Rnd :=
  if f = fT2 then (if c = 2 then (0, r.blot 1) else (signed 2 c, r))
  else if f = fA48 then satTaint (signed 64 c) a48Lo a48Hi r
  else (signed (fmtWidth f) c, r)

/-- The integers of a list of stored elements. -/
def readElems (f : Nat) : List Nat → Rnd → List Int × Rnd
  | [], r => ([], r)
  | c :: cs, r => let (x, r) := readElem f c r; let (xs, r) := readElems f cs r; (x :: xs, r)

/-- Values filled to 32 with zeros. -/
def fill32 (l : List Int) : List Int := (l ++ List.replicate (32 - l.length) 0).take 32

/-- A block read: its scale and 32 integers, of which those from `n` on count as zero (R141, R146). -/
def readBlock (f e n : Nat) (bytes : List Byte) (r : Rnd) : Nat × List Int × Rnd :=
  let cs := (unpackN (fmtWidth f) (leNat (fit (blockBytes f) bytes)) 32).take n
  if fmtBlock f then
    if e = 0 then (0, List.replicate 32 0, r)
    else
      let r := if e = 255 then r.blot 1 else r
      let (xs, r) := readElems f cs r
      (min e 254, fill32 xs, r)
  else let (xs, r) := readElems f cs r; (127, fill32 xs, r)

/-- The bytes of 32 integers in a format (R144, R148). -/
def packBlock (f : Nat) (xs : List Int) : List Byte :=
  leBytes (blockBytes f) (packN (fmtWidth f) ((fill32 xs).map (ofInt (fmtWidth f))))

/-! ### H16 and B16 (R153 to R155) -/

/-- The fraction bits of a float format. -/
def fBits (f : Nat) : Nat := if f = fH16 then 10 else 7
/-- The bias. -/
def fBias (f : Nat) : Nat := if f = fH16 then 15 else 127
/-- The greatest exponent field. -/
def fTop (f : Nat) : Nat := if f = fH16 then 31 else 255
/-- The sign bit of a pattern. -/
def patNeg (c : Nat) : Bool := decide (32768 ≤ c % 65536)
/-- The exponent field of a pattern. -/
def patExp (f c : Nat) : Nat := (c % 32768) / 2 ^ fBits f
/-- A pattern is a NaN or an infinity. -/
def patOdd (f c : Nat) : Bool := decide (patExp f c = fTop f)
/-- The significand of a pattern (Table 5.6). -/
def patSig (f c : Nat) : Nat := c % 2 ^ fBits f + (if patExp f c = 0 then 0 else 2 ^ fBits f)
/-- The exponent of a pattern (Table 5.6). -/
def patE (f c : Nat) : Int := (max 1 (patExp f c) : Nat) - (fBias f + fBits f : Nat)

/-- The elements of to_block from its scale on (R153). -/
def toBlockElems (f w : Nat) (u : Int) : List Nat → Rnd → List Int × Rnd
  | [], r => ([], r)
  | c :: cs, r =>
    let qmax : Int := (2 ^ (w - 1) : Nat) - 1
    let (q, r) : Int × Rnd :=
      if patOdd f c then (if patNeg c then -qmax else qmax, r.blot 1)
      else
        let v : Int := if patNeg c then -(patSig f c : Int) else patSig f c
        if u ≤ patE f c then (sat (v * (2 ^ (patE f c - u).toNat : Nat)) (-qmax) qmax, r)
        else let (q, r) := rshiftRound v (u - patE f c).toNat r; (sat q (-qmax) qmax, r)
    let (qs, r) := toBlockElems f w u cs r
    (q :: qs, r)

/-- to_block (R153): 32 patterns to a block-scaled format of width `w`. -/
def toBlock (f w : Nat) (pats : List Nat) (r : Rnd) : Nat × List Int × Rnd :=
  let leads := (pats.filter fun c => !patOdd f c && decide (patSig f c ≠ 0)).map fun c => patE f c + bitlen (patSig f c) - 1
  match leads with
  | [] =>
    if pats.any (patOdd f) then let (qs, r) := toBlockElems f w 0 pats r; (127, qs, r)
    else (0, pats.map fun _ => 0, r)
  | a :: l =>
    let e := max 1 (l.foldl max a - (w - 2 : Nat) + 127)
    let (qs, r) := toBlockElems f w (e - 127) pats r
    (e.toNat, qs, r)

/-- to_float (R154) of q x 2^u: the 16-bit pattern. -/
def toFloat (f : Nat) (q u : Int) (r : Rnd) : Nat × Rnd :=
  if q = 0 then (0, r)
  else
    let p := fBits f + 1
    let emin : Int := 1 - (fBias f : Int)
    let x : Int := bitlen q.natAbs - 1 + u
    let qe := max x emin - (p - 1 : Nat)
    let (m, r) : Int × Rnd := if qe ≤ u then (q * (2 ^ (u - qe).toNat : Nat), r) else rshiftRound q (qe - u).toNat r
    let m := m.natAbs
    if m = 0 then (0, r)
    else
      let (m, qe) := if m = 2 ^ p then (2 ^ (p - 1), qe + 1) else (m, qe)
      let be : Int := if 2 ^ (p - 1) ≤ m then qe + (p - 1 : Nat) + fBias f else 0
      let fr := if 2 ^ (p - 1) ≤ m then m - 2 ^ (p - 1) else m
      let s := if q < 0 then 32768 else 0
      if (2 * fBias f : Nat) < be then (s + 2 * fBias f * 2 ^ fBits f + (2 ^ (p - 1) - 1), r.blot 1)
      else (s + be.toNat * 2 ^ fBits f + fr, r)

/-! ### Quantisation and requantisation (R157, R158) -/

/-- A list of integers shifted right and rounded in order. -/
def shiftAll (k : Nat) : List Int → Rnd → List Int × Rnd
  | [], r => ([], r)
  | v :: vs, r => let (q, r) := rshiftRound v k r; let (qs, r) := shiftAll k vs r; (q :: qs, r)

/-- A list of integers saturated in order. -/
def satAll (lo hi : Int) : List Int → Rnd → List Int × Rnd
  | [], r => ([], r)
  | v :: vs, r => let (q, r) := satTaint v lo hi r; let (qs, r) := satAll lo hi vs r; (q :: qs, r)

/-- Quantisation to the agreed scale (R157); an element beyond a limit of the format is saturated (Table 5.5). -/
def quantise (f em ea : Nat) (qs : List Int) (r : Rnd) : List Int × Rnd :=
  if em = 0 then (qs.map fun _ => 0, r)
  else let (qs, r) := shiftAll (ea - em) qs r; satAll (fmtMin f) (fmtMax f) qs r

/-- The search loop of requant (R158). -/
def requantLoop (ea w : Nat) (sums : List Int) : Nat → Nat → Rnd → Nat × List Int × Rnd
  | 0, _, r => (ea, sums, r)
  | fuel + 1, k, r =>
    let qmax : Int := (2 ^ (w - 1) : Nat) - 1
    if 254 < ea + k then
      let (qs, r) := shiftAll (254 - ea) sums r
      let (qs, r) := satAll (-qmax) qmax qs r
      (254, qs, r)
    else
      let (qs, r) := shiftAll k sums r
      if qs.all fun q => decide (-qmax ≤ q) && decide (q ≤ qmax) then (ea + k, qs, r)
      else requantLoop ea w sums fuel (k + 1) r

/-- requant (R158): sums at scale Ea to a block of width `w`. -/
def requant (ea w : Nat) (sums : List Int) (r : Rnd) : Nat × List Int × Rnd :=
  if ea = 0 ∨ sums.all (fun s => decide (s = 0)) then (0, sums.map fun _ => 0, r)
  else
    let top := (sums.map Int.natAbs).foldl max 0
    requantLoop ea w sums 300 (bitlen top - (w - 1)) r

/-- The patterns of a list of integers at scale 2^u. -/
def floatAll (f : Nat) (u : Int) : List Int → Rnd → List Nat × Rnd
  | [], r => ([], r)
  | v :: vs, r => let (c, r) := toFloat f v u r; let (cs, r) := floatAll f u vs r; (c :: cs, r)

/-- A result block from A48 sums at scale Ea (R158): its scale and bytes. `n` elements of it are real (R146). -/
def writeSums (f ea n : Nat) (sums : List Int) (r : Rnd) : Nat × List Byte × Rnd :=
  let sums := sums.take n
  if fmtK f then let (e, qs, r) := requant ea (fmtWidth f) sums r; (e, packBlock f qs, r)
  else if f = fA48 then (ea, packBlock f (if ea = 0 then [] else sums), r)
  else if fmtFloat f then
    let (cs, r) := if ea = 0 then (sums.map fun _ => 0, r) else floatAll f ((ea : Int) - 127) sums r
    (0, packBlock f (cs.map (Int.ofNat ·)), r)
  else
    let (qs, r) : List Int × Rnd :=
      if ea = 0 then (sums.map fun _ => 0, r)
      else if ea < 127 then shiftAll (127 - ea) sums r
      else (sums.map fun s => s * (2 ^ (ea - 127) : Nat), r)
    let (qs, r) := satAll (fmtMin f) (fmtMax f) qs r
    (0, packBlock f qs, r)

/-- A result block of a kind that only distributes (R161): the contributed elements at the contributor's scale, within the limits
of Table 5.4 (R142, R152); an OUT_FMT of H16 or B16 is converted from them. -/
def writePassed (f e n : Nat) (qs : List Int) (r : Rnd) : Nat × List Byte × Rnd :=
  if fmtK f then
    let (qs, r) := satAll (fmtMin f) (fmtMax f) (qs.take n) r
    (e, packBlock f (if e = 0 then [] else qs), r)
  else writeSums f e n qs r

/-! ### Exact numbers m x 2^e (R204, R232) -/

/-- An exact binary number. -/
structure Dy where
  m : Int
  e : Int
  deriving DecidableEq, Repr

/-- Exact sum. -/
def Dy.add (a b : Dy) : Dy :=
  let e := min a.e b.e
  { m := a.m * (2 ^ (a.e - e).toNat : Nat) + b.m * (2 ^ (b.e - e).toNat : Nat), e := e }
/-- Exact product. -/
def Dy.mul (a b : Dy) : Dy := { m := a.m * b.m, e := a.e + b.e }
/-- Exact negative. -/
def Dy.neg (a : Dy) : Dy := { m := -a.m, e := a.e }
/-- Exact difference. -/
def Dy.sub (a b : Dy) : Dy := a.add b.neg
/-- The number 1. -/
def Dy.one : Dy := { m := 1, e := 0 }
/-- The value q x 2^(E - 127) of R141. -/
def Dy.ofScaled (q : Int) (e : Nat) : Dy := if e = 0 then { m := 0, e := 0 } else { m := q, e := (e : Int) - 127 }
/-- A scaled constant (R197). -/
def Dy.ofConst (w : Word) : Dy := Dy.ofScaled (signed 32 (bitsGet w 0 32)) (bitsGet w 32 8)

/-- rsq (R204): 1/sqrt(x), x > 0, to nearest, ties to even, at 24 significant bits. -/
def Dy.rsq (a : Dy) : Dy :=
  let odd := a.e % 2 = 1
  let m := if odd then a.m.natAbs * 2 else a.m.natAbs
  let e := if odd then a.e - 1 else a.e
  let k := bitlen m / 2 + 40
  let root := Nat.sqrt (2 ^ (2 * k) / m)
  let sticky := if root * root * m = 2 ^ (2 * k) then 0 else 1
  let v := 2 * root + sticky
  let cut := bitlen v - 24
  let (q, _) := rshiftRound v cut { gen := 1 }
  { m := q, e := (cut : Int) - 1 - k - e / 2 }

/-- A multiple of 2^u nearest to an exact number under RMODE. -/
def Dy.round (a : Dy) (u : Int) (r : Rnd) : Int × Rnd :=
  if u ≤ a.e then (a.m * (2 ^ (a.e - u).toNat : Nat), r) else rshiftRound a.m (u - a.e).toNat r

/-- Whether |v| <= qmax x 2^u. -/
def Dy.fits (a : Dy) (qmax : Nat) (u : Int) : Bool :=
  if u ≤ a.e then decide (a.m.natAbs * 2 ^ (a.e - u).toNat ≤ qmax) else decide (a.m.natAbs ≤ qmax * 2 ^ (u - a.e).toNat)

/-- The smallest scale from `e` on that holds every value of a block (R205), of `fuel` scales. -/
def blockScale (qmax : Nat) (vs : List Dy) : Nat → Nat → Nat
  | 0, e => e
  | fuel + 1, e => if vs.all fun v => v.fits qmax ((e : Int) - 127) then e else blockScale qmax vs fuel (e + 1)

/-- A list of exact numbers rounded in order and saturated. -/
def roundAll (lo hi u : Int) : List Dy → Rnd → List Int × Rnd
  | [], r => ([], r)
  | v :: vs, r =>
    let (q, r) := v.round u r
    let (q, r) := satTaint q lo hi r
    let (qs, r) := roundAll lo hi u vs r
    (q :: qs, r)

/-- An exact number within a limit rounded; one beyond it is saturated with one taint, and draws nothing (R205, log entry 16). -/
def Dy.limit (v : Dy) (qmax : Nat) (u : Int) (r : Rnd) : Int × Rnd :=
  if v.fits qmax u then v.round u r else (if v.m < 0 then -(qmax : Int) else qmax, r.blot 1)

/-- A list of exact numbers rounded in order, each within the limit. -/
def limitAll (qmax : Nat) (u : Int) : List Dy → Rnd → List Int × Rnd
  | [], r => ([], r)
  | v :: vs, r =>
    let (q, r) := v.limit qmax u r
    let (qs, r) := limitAll qmax u vs r
    (q :: qs, r)

/-- The block rule of R205: an output block of exact values in a block-scaled format. -/
def writeBlock (f : Nat) (vs : List Dy) (r : Rnd) : Nat × List Byte × Rnd :=
  if vs.all fun v => decide (v.m = 0) then (0, packBlock f [], r)
  else
    let qmax := (fmtMax f).toNat
    let e := blockScale qmax vs 253 1
    let (qs, r) := limitAll qmax ((e : Int) - 127) vs r
    (e, packBlock f qs, r)

/-- Exact values to H16 or B16 patterns. -/
def floatDys (f : Nat) : List Dy → Rnd → List Nat × Rnd
  | [], r => ([], r)
  | v :: vs, r => let (c, r) := toFloat f v.m v.e r; let (cs, r) := floatDys f vs r; (c :: cs, r)

/-- A vector engine's output block (R232): scale (0 for an unscaled format) and bytes. -/
def writeDys (f : Nat) (vs : List Dy) (r : Rnd) : Nat × List Byte × Rnd :=
  if fmtBlock f then writeBlock f vs r
  else if fmtFloat f then let (cs, r) := floatDys f vs r; (0, packBlock f (cs.map (Int.ofNat ·)), r)
  else let (qs, r) := roundAll (fmtMin f) (fmtMax f) 0 vs r; (0, packBlock f qs, r)

/-- Two addends brought to the larger of their scales (R232). A zero block takes no part in the choice. -/
def alignPair (a b : Dy) (za zb : Bool) (r : Rnd) : Int × Int × Int × Rnd :=
  let u := if za then b.e else if zb then a.e else max a.e b.e
  let (x, r) := if za then (0, r) else a.round u r
  let (y, r) := if zb then (0, r) else b.round u r
  (x, y, u, r)

end Sys2Proof.Machine
end

