-- ==== Sys2Proof/Machine/Code.lean ====
section
/-! DEFINITION. The two-symbol code of every guarded memory (R300, R301): check bytes and decoder. -/
namespace Sys2Proof.Machine

/-- Multiplication by x in GF(2^8) with x^8 + x^4 + x^3 + x^2 + 1. -/
def gfX (a : Byte) : Byte := if a.getLsbD 7 then (a <<< 1) ^^^ 0x1D#8 else a <<< 1

/-- Product in GF(2^8), by the bits of the second factor from bit `n - 1` down. -/
def gfMulN : Nat → Byte → Byte → Byte
  | 0, _, _ => 0
  | n + 1, a, b => let r := gfX (gfMulN n a (b >>> 1)); if b.getLsbD 0 then r ^^^ a else r

/-- Product in GF(2^8). -/
def gfMul (a b : Byte) : Byte := gfMulN 8 a b

/-- The power x^k in GF(2^8). -/
def gfPow : Nat → Byte
  | 0 => 1
  | k + 1 => gfX (gfPow k)

/-- The inverse of a non-zero element: its 254th power, by squaring and multiplying seven times. -/
def gfInv (a : Byte) : Byte :=
  gfMul ((List.range 6).foldl (fun r _ => gfMul (gfMul r r) a) a) ((List.range 6).foldl (fun r _ => gfMul (gfMul r r) a) a)

/-- One symbol into the division by the generator (x - 1)(x - 2)(x - 4)(x - 8) (R300): the four check symbols so far, highest
power first. The generator's lower coefficients are 15, 54, 120 and 64. -/
def rsStep (r : List Byte) (s : Byte) : List Byte :=
  let f := s ^^^ r.getD 0 0
  [r.getD 1 0 ^^^ gfMul f 0x0F, r.getD 2 0 ^^^ gfMul f 0x36, r.getD 3 0 ^^^ gfMul f 0x78, gfMul f 0x40]

/-- The four check bytes of a word with address index A (R300). -/
def rsCheck (a : Nat) (data : List Byte) : List Byte := (leBytes 4 a ++ data).foldl rsStep [0, 0, 0, 0]

/-- The `j`th syndrome of 40 symbols, the first of them the highest power. -/
def rsSyndrome (c : List Byte) (j : Nat) : Byte := c.foldl (fun s x => gfMul s (gfPow j) ^^^ x) 0

/-- A word with an error of value `e` taken out of the symbol of power `i`. -/
def rsFix (c : List Byte) (i : Nat) (e : Byte) : List Byte := c.set (39 - i) (c.getD (39 - i) 0 ^^^ e)

/-- The decoder's correction of 40 symbols (R301): no error, one symbol, or two; `none` where no error of two symbols fits. -/
def rsCorrect (c : List Byte) : Option (List Byte) :=
  let s0 := rsSyndrome c 0
  let s1 := rsSyndrome c 1
  let s2 := rsSyndrome c 2
  let s3 := rsSyndrome c 3
  let det := gfMul s1 s1 ^^^ gfMul s0 s2
  if s0 = 0 ∧ s1 = 0 ∧ s2 = 0 ∧ s3 = 0 then some c
  else if det = 0 then
    (if gfMul s1 s2 ^^^ gfMul s0 s3 = 0 then
      ((List.range 40).find? fun i => decide (s0 ≠ 0) && decide (gfMul s0 (gfPow i) = s1)).map fun i => rsFix c i s0
     else none)
  else
    let a := gfMul s1 s2 ^^^ gfMul s0 s3
    let b := gfMul s2 s2 ^^^ gfMul s1 s3
    match (List.range 40).filter fun i => let x := gfPow i; decide (gfMul (gfMul det x ^^^ a) x ^^^ b = 0) with
    | [i, j] =>
      let e := gfMul (s1 ^^^ gfMul s0 (gfPow j)) (gfInv (gfPow i ^^^ gfPow j))
      some (rsFix (rsFix c i e) j (s0 ^^^ e))
    | _ => none

/-- A read of a stored word, 32 data bytes and 4 check bytes, at address index A (R301): the word corrected; none where it is
uncorrectable, a correction in a symbol of A among them. -/
def rsDecode (a : Nat) (stored : List Byte) : Option (List Byte) :=
  match rsCorrect (leBytes 4 a ++ stored) with
  | none => none
  | some c => if c.take 4 = leBytes 4 a then some (c.drop 4) else none

/-- The error that FLT_ERR_INJ stores (R379): bit `j` of the mask inverts check byte `j`. -/
def maskError (mask : Nat) : List Byte :=
  List.replicate 32 0 ++ (List.range 4).map fun j => if mask.testBit j then 0xFF else 0

/-- Whether the decoder brings back a word stored with the check bytes of a mask inverted. The code is linear: what it makes of an error
does not depend on the word. -/
@[irreducible] def codeMends (mask : Nat) : Bool := decide (rsDecode 0 (maskError mask) = some (List.replicate 36 0))

end Sys2Proof.Machine
end

