-- ==== Sys2Proof/Config.lean ====
section
/-! DEFINITION. What the spec leaves to an implementation, to a named standard or to chance. Every constant here is opaque:
it has no body, so a claim holds whatever its value. -/
namespace Sys2Proof.Config

/-! ### Free values: drawn once per use with the counter of the state -/

/-- The value drawn at each use of a free value: the start bank (R112), the sampler's phase (R138), the
command nonce (R336), contents the spec calls undefined (R210, R226, R327). -/
opaque freeWord : Nat → BitVec 64

/-- Free bytes: random keys (R347), nonces and sessions (R351). -/
opaque freeBytes (draw n : Nat) : List Byte

/-! ### Constants of the part -/

/-- The choices by which a stepping, and the fuses of the part, place the attachments on the stations that Table 4.1 allows (R103). -/
opaque stationChoice : Nat → Nat

/-- How many steps below and above a preset a transmitter's tap can go (R413, Table 15.3). -/
opaque tapSpan (preset tap : Nat) : Nat × Nat

/-- What the hub asks of the far transmitter's taps while it adapts a lane (R413), by lane and time. -/
opaque tapRequest (lane now : Nat) : BitVec 8

/-- Hardware stepping of the attestation report (Table 13.9). -/
opaque stepping : BitVec 16

/-- The cycles of a bay's clock within a nanosecond of the hub's own timer: the two have no fixed ratio (R272). -/
opaque bayCycles (bay now : Nat) : Nat

/-- Whether a supplied kernel posts to a queue of its update bays' vector and DMA engines, by 4 x engine + queue: no rule says which
(R201, R276). -/
opaque kernelQueue : Nat → Bool

/-- Which slow kerf a ring slot of a collective has (R166, R167). -/
opaque kerfPlace (cid ring : Nat) : Nat

/-- Words that a thread fetches ahead: 0 to 4 (R246). -/
opaque fetchAhead : Nat

/-- Cells of a local target's receive buffer beyond the eight of R107. -/
opaque extraLocalCells : Nat

/-- The checker number of a fault within its block (R379): the spec does not list them. -/
opaque checker : Nat → BitVec 16

/-- The four detail words a block adds to a log entry (Table 14.7). -/
opaque detail : Nat → Nat → BitVec 64

/-- The entry that gives way in a full look-aside buffer or cache (R92, R287), by draw and size. -/
opaque victim (draw size : Nat) : Nat

/-! ### Named standards -/

/-- AES-256-XTS of a data unit under a tweak, with the key that a key slot holds (R354). -/
opaque xts (slot tweak : Nat) (word : List Byte) : List Byte

/-- SHAKE256 with an output of n bytes. -/
opaque shake256 (n : Nat) (input : List Byte) : List Byte

/-- Ed448 (RFC 8032, pure, empty context): the public key of a private key. -/
opaque ed448Public (key : List Byte) : List Byte
/-- Ed448: the signature of a message. -/
opaque ed448Sign (key message : List Byte) : List Byte
/-- Ed448: whether a signature is that of a message. -/
opaque ed448Verify (publicKey message signature : List Byte) : Bool

/-- X448: the public key of a private key. -/
opaque x448Public (key : List Byte) : List Byte
/-- X448: the shared secret. -/
opaque x448 (key publicKey : List Byte) : List Byte

/-- AES-256-GCM: the plaintext, if the tag verifies. -/
opaque gcmOpen (key iv aad ciphertext tag : List Byte) : Option (List Byte)

/-- The public key of the certificate chain's device certificate, and the digest of its root's key, if the chain verifies
(X.509 v3 DER, R351). -/
opaque chainCheck (chain : List Byte) : Option (List Byte × List Byte)

/-- A Broef public key: 0 the manufacturing key, 1 the recertification key, 2 the firmware key (R431, R432, R479). -/
opaque broefKey : Nat → List Byte
/-- The Ed448 public key with a SHAKE256 digest: the spec does not say where the hub finds an owner's key, of which fuses hold
the digest (R368, R432). -/
opaque keyOfDigest (digest : List Byte) : List Byte
/-- The device identity key, derived from the root secret at each reset (Table 13.5). -/
opaque identityKey : List Byte
/-- The device's certificate chain in DER (Table 13.9). -/
opaque deviceChain : List Byte
/-- The 256 security fuse bits (Table 13.9). -/
opaque securityFuses : List Byte
/-- The digest of the boot ROM (Table 13.9). -/
opaque romDigest : List Byte

/-- The credits that this hub's receivers advertise for a virtual channel (R57), before the bounds of that rule. -/
opaque advertised (vc : Nat) : Nat

/-! ### Records whose layout the spec does not give (R434) -/

/-- The fault code of a firmware or table section that the wright refuses to load, if it refuses one. -/
opaque sectionRejected (content : List Byte) : Bool
/-- The words of the NODES record by key: the node expected on joist j (key j), the plane count (key 72), the hub's node
(key 73), the node of function f (key 74 + f); none where the record names none. -/
opaque nodesRecord (content : List Byte) (key : Nat) : Option (BitVec 64)
/-- Bytes 0 to 141 of a wear summary (R396), from its first and last hour, the records of its span and of the whole life, and
the last CHAIN. -/
opaque summaryBody (first last : Nat) (recent all : List (List Byte)) (chain : List Byte) : List Byte
/-- IN_FMT of the collective of a ticket at another hub (R170): a code of Table 5.1, which neither the ticket nor the member block
gives. -/
opaque formatAt (ticket : BitVec 64) : Nat
/-- The status of an override that the arbiter does not apply within 2 ms (R393): the spec names none. -/
opaque overrideUnapplied (draw : Nat) : BitVec 8
/-- The status of an IMAGE_UPDATE whose bank cannot be written or does not read back as written (R443): the spec names none. -/
opaque updateFailed (draw : Nat) : BitVec 8
/-- The 32-bit device identification code of the test access port (R479): the spec gives none. -/
opaque idcode : BitVec 32

end Sys2Proof.Config
end

