-- ==== Sys2Proof/Machine/UnitsFabric.lean ====
section
/-! DEFINITION. What the switch core, the sill, the peg unit and the mortise unit hold (chapters 2, 3, 4 and 12). Registers
of Table 17.3 and 17.8 are in the register table of the state; these structures hold the rest. -/
namespace Sys2Proof.Machine

/-- Where a routed packet goes (R118): the queue of an output, or its local target. -/
inductive Route where
  | queue (out : Nat)
  | target
  deriving DecidableEq, Repr, Inhabited

/-- A member of a combine group (R128): the identity of the AT here, where and when it arrived, its bank, whether a bank read of it
will find an uncorrectable error (R116), and the AT. -/
structure Joined where
  pid   : Nat := 0
  ing   : Ingress := .inner
  at_   : Nat := 0
  bank  : Nat := 0
  upset : Option Bool := none
  pkt   : Packet := {}
  deriving DecidableEq, Repr, Inhabited

/-- A packet in the hub: its identity here, where and when it arrived, its virtual channel, its route once decided, whether the
sampler has counted it (R138), its bank once admitted, the members of its combine group, itself among them (R128), for a multicast
packet the girt copies (port, mask) that its sawpit chose (R121, R122), the ingress that counts
a discard of it where that is not its own (R65), and whether a bank read of it will find an uncorrectable error
(R116: `some true` in the header). -/
structure Held where
  pid   : Nat := 0
  ing   : Ingress := .inner
  vc    : Nat := 0
  at_   : Nat := 0
  pkt   : Packet := {}
  route : Option Route := none
  seen  : Bool := false
  bank  : Nat := 0
  group : List Joined := []
  via   : List (Nat × Nat) := []
  blame : Option Ingress := none
  upset : Option Bool := none
  deriving DecidableEq, Repr, Inhabited

/-- Drain-rate measure of a queue (R113): when the present window began, the cells sent in it, whether the queue was never empty in
it, and the cells of the last complete window in which it was never empty (4,660 before any). -/
structure Rate where
  since : Nat := 0
  sent  : Nat := 0
  busy  : Bool := false
  last  : Nat := 4660
  deriving DecidableEq, Repr, Inhabited

/-- How far the return of a detoured joist has come (R32). -/
inductive DetourPhase where
  | down | draining | flushing | lifetime
  deriving DecidableEq, Repr, Inhabited

/-- The detour of a joist that went down: its girt pair, the phase of the return, and when step 1 of R32 ended. -/
structure Detour where
  pair  : Nat := 0
  phase : DetourPhase := .down
  step1 : Nat := 0
  deriving DecidableEq, Repr, Inhabited

/-- A tracked line of a joist's REQ queue (R127). -/
structure HotLine where
  line  : Nat
  count : Nat
  hot   : Bool
  deriving DecidableEq, Repr, Inhabited

/-- The trackers of a joist's REQ queue, when the present window began, and the most recent untracked line. -/
structure HotTrack where
  since : Nat := 0
  lines : List HotLine := []
  other : Option Nat := none
  deriving DecidableEq, Repr, Inhabited

/-- An entry of the loss record (R100). -/
structure Loss where
  src   : Node
  dst   : Node
  until_ : Nat
  deriving DecidableEq, Repr, Inhabited

/-- The switch core (chapter 4). `resv` holds, for the head of a queue of MCO or MCG, the outputs whose staging slots it has
reserved, 88 standing for credit at the local target (R123). -/
structure Swc where
  routes0  : Table (BitVec 32) := []
  routes1  : Table (BitVec 32) := []
  rx       : List Held := []
  queues   : Table (List Held) := []
  rates    : Table Rate := []
  detours  : Table (Option Detour) := []
  returning : List Nat := []
  hot      : Table HotTrack := []
  losses   : List Loss := []
  resv     : Table (List Nat) := []
  overflow : Nat := 0
  smpCount : Table Nat := []
  nextPid  : Nat := 0
  deriving DecidableEq, Repr, Inhabited

/-- For whom bytes are fetched or pages translated: the head descriptor of a queue, a thread, a host operation, a local member, an
open of a collective, or a ring by its key. -/
inductive Reader where
  | thread (bay th : Nat)
  | queue (bay eng q : Nat)
  | op (id : Nat)
  | member (id : Nat)
  | opening (o : Opener)
  | ring (k : Nat)
  deriving DecidableEq, Repr, Inhabited

/-- What the issuer of a tagged request does with its answer; `posted` marks a posted write that waits behind tagged ones,
`wrote` and `xfer` an acknowledged write of a descriptor or transfer with the bytes that it writes before it. -/
inductive Cont where
  | quiet
  | posted
  | fetch (r : Reader) (fa len : Nat)
  | wrote (before : Nat)
  | flush
  | thread
  | status (op : Nat)
  | sampler
  | trigger (peg : Nat)
  | xfer (op before : Nat)
  | combined (members : List Joined)
  | commit (cid : Nat)
  | detour (j : Nat)
  | bar2 (id : Nat)
  deriving DecidableEq, Repr, Inhabited

/-- The outcome of a translation: the FA and attributes, a fault with its cause and level, or a miss of the buffers. -/
inductive Xlate where
  | ok (fa attrs : Nat)
  | fault (cause level : Nat)
  | miss
  deriving DecidableEq, Repr, Inhabited

/-- A read of remote bytes for an operation: where, how many, under which address-space tag the line goes into the read cache if it
still may (R92, R94), and its answer once in: the bytes, or the status and node of its failure. -/
structure Fetch where
  fa   : Nat
  len  : Nat
  fill : Option Nat := none
  got  : Option (List Byte ⊕ (Nat × Nat)) := none
  deriving DecidableEq, Repr, Inhabited

/-- What an operation under way has gathered: the translations of pages, by virtual page and needed rights, and the reads it has
issued. -/
structure Work where
  key : Reader
  xl  : List ((Nat × Nat) × Xlate) := []
  got : List Fetch := []
  deriving DecidableEq, Repr, Inhabited

/-- A tagged request in flight (R49, R54). -/
structure Outstanding where
  node     : Node
  tag      : Nat
  agent    : Agent
  pkt      : Packet
  deadline : Nat
  epoch    : Bool
  cont     : Cont
  deriving DecidableEq, Repr, Inhabited

/-- A tag held unused (R55). -/
structure Quarantine where
  node   : Node
  tag    : Nat
  dst    : Node
  until_ : Nat
  deriving DecidableEq, Repr, Inhabited

/-- A dirty bit: posted writes of an agent toward a node since its last FLUSH there (R95), and the epoch of the oldest. -/
structure Dirty where
  agent : Agent
  dst   : Node
  epoch : Bool
  deriving DecidableEq, Repr, Inhabited

/-- A failure recorded for an agent (R53, R101): the code and the node. -/
structure Recorded where
  agent  : Agent
  dst    : Node
  status : Nat
  node   : Node
  deriving DecidableEq, Repr, Inhabited

/-- What a completed remote fence lets happen. -/
inductive FenceThen where
  | thread
  | descriptor
  | aperture
  | xfer (op : Nat)
  deriving DecidableEq, Repr, Inhabited

/-- A remote fence in progress (R95): the nodes it covers (`none`: every node), when it times out, the epoch of its oldest
operation, and what follows. -/
structure Fence where
  agent    : Agent
  dst      : Option Node
  deadline : Nat
  epoch    : Option Bool
  next     : FenceThen
  deriving DecidableEq, Repr, Inhabited

/-- The last completed fence of an agent (R102). -/
structure LastFence where
  agent  : Agent
  node   : Node
  status : Nat
  time   : Nat
  deriving DecidableEq, Repr, Inhabited

/-- A SEND message being received (R48): its buffer and the bytes received so far as (start, end) spans. -/
structure Inbound where
  src  : Node
  msn  : Nat
  rq   : Nat
  addr : Nat
  room : Nat
  got  : List (Nat × Nat)
  deriving DecidableEq, Repr, Inhabited

/-- The sill (chapters 2 and 3). `posted` holds the receive buffers (offset, length) of each receive queue, `inbound` the
messages bound to one, and `delivered` the complete messages (queue, source, message number, offset, length). `firstNak` holds the code of the first NAKed posted write of each source node since its
last FLUSH (R99); `entered` is the ingress at which the request now served entered (R65); `backlog` holds requests that wait for a
free tag, and posted writes behind them (R72); `works` holds what the operations under way have gathered; `caps` holds the capability bits of each joist once its CAP has arrived (bit 4 set, R70). -/
structure Sill where
  out      : List Outstanding := []
  quar     : List Quarantine := []
  dirty    : List Dirty := []
  recorded : List Recorded := []
  fences   : List Fence := []
  last     : List LastFence := []
  firstNak : Table Nat := []
  caps     : Table Nat := []
  reqs     : List Held := []
  rsps     : List Held := []
  colr     : List Held := []
  colc     : List Held := []
  mgt      : List Held := []
  entered  : Ingress := .inner
  backlog  : List (Agent × Packet × Cont) := []
  works    : List Work := []
  posted   : Table (List (Nat × Nat)) := []
  inbound  : List Inbound := []
  delivered : List (Nat × Node × Nat × Nat × Nat) := []
  pcie     : List (Nat × Held) := []
  nextPcie : Nat := 0
  deriving DecidableEq, Repr, Inhabited

/-- A peg's words (Table 3.3); INFO follows from the partition records. -/
structure Peg where
  value   : Word := 0
  thresh  : Word := 0
  trigCtl : Word := 0
  trigFa  : Word := 0
  deriving DecidableEq, Repr, Inhabited

/-- A wait on a peg (R86, R87). -/
structure PegWait where
  agent    : Agent
  peg      : Nat
  thresh   : Word
  deadline : Option Nat
  deriving DecidableEq, Repr, Inhabited

/-- The peg unit. -/
structure Pegs where
  words : Table Peg := []
  waits : List PegWait := []
  deriving DecidableEq, Repr, Inhabited

end Sys2Proof.Machine
end

