-- ==== Sys2Proof/Machine/UnitsBay.lean ====
section
/-! DEFINITION. What the bays hold besides their registers: threads (chapter 9), command queues (chapter 8), accumulators and
remote read caches (R92). -/
namespace Sys2Proof.Machine

/-- The state of a thread (R242, Table 9.2). -/
inductive TState where
  | idle | run | halted | faulted | stopped
  deriving DecidableEq, Repr, Inhabited

/-- What a thread in a remote fence does when it completes (R261, R264, R258, R269, R271). -/
inductive FenceUse where
  | instr (rd : Nat) (q : Bool)
  | padv (peg : Nat) (add : Word) (q : Bool)
  | release (pkt : Packet) (ack q loft : Bool)
  | ecmd (rd peg : Nat) (p : Word) (q : Bool)
  | halt
  deriving DecidableEq, Repr, Inhabited

/-- What a thread in RUN waits for (R239); `ready` waits for nothing. -/
inductive TWait where
  | ready
  | load (rd size : Nat) (sx acq q : Bool) (fa tag : Nat) (install : Bool)
  | store (q : Bool)
  | atomic (rd : Nat) (wide fetch q : Bool)
  | fence (u : FenceUse)
  | peg (rd : Nat)
  | room (rd ra rb : Nat) (q : Bool)
  | walk
  | walked (va fa attrs : Nat)
  deriving DecidableEq, Repr, Inhabited

/-- A thread (R242, R244). `preds` holds p1 to p7 at bits 1 to 7; `regs` holds g1 to g31; `ahead` holds the word
at the PC and the words fetched ahead, none for one with an uncorrectable error (R245, R246); `stop` is a STOP not yet taken (R275). -/
structure Thread where
  state : TState := .idle
  pc    : Nat := 0
  hmode : Bool := false
  cause : Nat := 0
  epc   : Nat := 0
  info  : Word := 0
  regs  : Table Word := []
  preds : Nat := 0
  rstat : Word := 0
  wait  : TWait := .ready
  ahead : List (Nat × Option Word) := []
  stop  : Bool := false
  deriving DecidableEq, Repr, Inhabited

/-- How far the head descriptor of a queue has come (R225); `held` waits for an open or a member to end (R237, R238),
`recording` for the write of its record. -/
inductive DPhase where
  | none | waiting | running | held | fencing | done | recording
  deriving DecidableEq, Repr, Inhabited

/-- A command queue (R220 to R226): its consumer count and its head descriptor with its results so far. `okTo` bounds DONE after a write
has failed; `ran` says that the operation has begun; `tile`, `carry`, `moved` and `wrote` say how far it has come where it waits for
answers: tiles done, the bytes of a VE block that lie in the next tile, and the stretches (FA, length) that a DMA has read and
written. -/
structure EQueue where
  count  : Word := 0
  desc   : List Byte := []
  phase  : DPhase := .none
  status : Nat := 0
  node   : Nat := 0
  done   : Nat := 0
  faddr  : Word := 0
  taint  : Nat := 0
  extra  : List Word := []
  okTo   : Option Nat := none
  ran    : Bool := false
  tile   : Nat := 0
  carry  : List Byte := []
  moved  : List (Nat × Nat) := []
  wrote  : List (Nat × Nat) := []
  deriving DecidableEq, Repr, Inhabited

/-- A line of a bay's remote read cache (R92), keyed by its FA and the address-space tag that fetched it; `bad` names the
check bytes that it was stored with inverted (R379). -/
structure CacheLine where
  fa   : Nat
  tag  : Nat
  data : List Byte
  bad  : Nat := 0
  deriving DecidableEq, Repr, Inhabited

/-- A look-aside entry (R287), keyed by tag and VA: the bytes it covers, its output base, and its attributes: 1 read, 2 write,
4 atomic, 8 NC. A non-leaf entry covers the span of the table whose address `fa` gives, at `level`; `bad` as of a
cache line. -/
structure Lookaside where
  tag   : Nat
  va    : Nat
  size  : Nat
  fa    : Nat
  attrs : Nat
  level : Nat := 0
  bad   : Nat := 0
  deriving DecidableEq, Repr, Inhabited

/-- The bays: threads by 16 x bay + thread, queues by 16 x bay + 4 x engine + queue, A48 accumulators of both sets by
(8192 x bay + 4096 x set + element), the read caches by bay, for each ME and VE, by 4 x bay + engine, the queue that it served
last (R222), and the cycles of each bay's clock since reset (R272). -/
structure Bays where
  threads : Table Thread := []
  queues  : Table EQueue := []
  accs    : Table Int := []
  caches  : Table (List CacheLine) := []
  turns   : Table Nat := []
  cycles  : Table Nat := []
  deriving DecidableEq, Repr, Inhabited

end Sys2Proof.Machine
end

