-- ==== Sys2Proof/Machine/UnitsSystem.lean ====
section
/-! DEFINITION. What the plumb, the security island, sounding, the wear log and the board side hold besides their registers
(chapters 13, 14, 16 and 18), and what lies in NVM and fuses. -/
namespace Sys2Proof.Machine

/-- The plumb: the fault log by index (R380), of an entry stored with inverted check bytes in its first word which they are (R305), the
time of the last logged CORRECTED event of each source bit plus 1 (R374),
the fatal level reached (0 none, 1 PLANE_FATAL, 2 DEVICE_FATAL), the end of the FAULT_N pulse (R377), and the times of recent
internal CONTAINED events (R384). -/
structure Plumb where
  log      : Table (List Word) := []
  logBad   : Table Nat := []
  lastCorr : Table Nat := []
  fatal    : Nat := 0
  pulse    : Option Nat := none
  internal : List Nat := []
  deriving DecidableEq, Repr, Inhabited

/-- How far the removal of a partition has come (R364, R365), and the function whose command it is. -/
structure Removal where
  func     : Nat
  deadline : Nat
  wiping   : Bool := false
  deriving DecidableEq, Repr, Inhabited

/-- The security island (chapter 13). A partition record is its 32 words; the page map holds 1 for EPOCH0 and 2 for EPOCH1; `release`
holds the release private key of each partition and `rdig` RDIG, the digest of the last signed report issued for it (R357), empty where
there is none. -/
structure Sec where
  parts    : Table (List Word) := []
  keys     : Table (List Byte) := []
  release  : Table (List Byte) := []
  rdig     : Table (List Byte) := []
  spares   : Table Nat := []
  pages    : Table Nat := []
  removals : Table (Option Removal) := []
  rekeys   : Table (Option Nat) := []
  drops    : Table Nat := []
  gone     : List Nat := []
  wipes    : List (Nat × Nat × Nat) := []
  identity : List Byte := []
  deriving DecidableEq, Repr, Inhabited

/-- The last token of a link (R381, R382): its bytes and when it arrived. -/
structure Token where
  bytes : List Byte
  time  : Nat
  deriving DecidableEq, Repr, Inhabited

/-- An override that waits for the arbiter's token (R393): the function whose command it is, ACTION, slot and the end of its
2 ms. -/
structure OvrWait where
  func   : Nat
  action : Nat
  slot   : Nat
  until_ : Nat
  deriving DecidableEq, Repr, Inhabited

/-- Sounding (R381 to R393): tokens received by port, token counters sent by port, silent links, consecutive evaluations at
which a rule's condition held (key 256 x rule + object), since when an undoing condition holds, de-weighted ports, joists that
DETOUR has declared down, joists and board slots whose nodes ABSENT and PEER_ABSENT have marked, the order and the ORDER_SEQ
seen of each slot (plus 1), the expulsion times of the board, when the arbiter's token last gave them, whether this hub is the
arbiter and which slot is, the hold,
overrides, corrected codewords (0) and replays (1) of each port with their times, and the measured inputs. -/
structure Sound where
  tokens   : Table (Option Token) := []
  sent     : Table Nat := []
  silent   : List Nat := []
  counts   : Table Nat := []
  since    : Table Nat := []
  dewt     : List Nat := []
  low      : List Nat := []
  absJ     : List Nat := []
  absP     : List Nat := []
  order    : Option Nat := none
  orderSeq : Nat := 0
  seenSeq  : Table Nat := []
  expelled : Bool := false
  suspect  : Bool := false
  expels   : List Nat := []
  budgetAt : Option Nat := none
  lost     : List Nat := []
  hold     : Option Nat := none
  ovr      : BitVec 16 := 0
  ovrSeq   : Nat := 0
  seenOvr  : Table Nat := []
  ovrCmd   : Option OvrWait := none
  isArb    : Bool := false
  arbSlot  : Option Nat := none
  slack    : Nat := 1023
  tj       : Int := 25
  errs     : Table (List (Nat × Nat)) := []
  deriving DecidableEq, Repr, Inhabited

/-- The board side: supplies, resets, start-up and the management buses (chapters 16 and 18). `joists` holds 1,024 + the node that
the image names for a joist; `passed`, `digA` and `digB` which banks verified at this boot and their digests; `compat` the
COMPAT record of R436; `upd` an IMAGE_UPDATE under way: its function, whether it is a token, and the bytes; `todo` the domains
still to switch on, the first under way since `stepAt`; `step` what the present phase waits for beside; `rcv` the recovery command
that runs; `wipeFail` the first unit whose write pass failed; `vReq` the core voltage commanded in mV; `dutyPower` and `dutyTherm`
the two limits of DUTY; `smbOut` and `wrightOut` what the last SMBus read and the wright's last register read returned. -/
structure Board where
  supplies : Bool := false
  aonReset : Bool := true
  supplyAt : Nat := 0
  resetN   : Bool := false
  slot     : BitVec 2 := 0
  straps   : Straps := { settle := 0, bank := false, plane := 0, slot := 0 }
  strapAt  : Nat := 0
  step     : Nat := 0
  stepAt   : Nat := 0
  todo     : List Nat := []
  bank     : Bool := false
  image    : List Byte := []
  wipeFail : Option Nat := none
  rcv      : Option Nat := none
  thermtrip : Bool := false
  vReq     : Nat := 750
  avsMiss  : Nat := 0
  avsAt    : Nat := 0
  perst    : List Bool := [true, true]
  pcieAt   : List Bool := [false, false]
  dutyPower : Nat := 64
  dutyTherm : Nat := 64
  overAt   : Nat := 0
  smbPtr   : Nat := 0
  smbOut   : List Byte := []
  wrightOut : Word := 0
  jtag     : Nat := 1
  scan     : List Bool := []
  debug    : Word := 0
  joists   : Table Nat := []
  wipeAt   : Nat := 0
  wipeTwice : Bool := false
  wipeCause : Nat := 0
  passed   : List Bool := [false, false]
  digA     : List Byte := []
  digB     : List Byte := []
  compat   : List Byte := []
  upd      : Option (Nat × Bool × List Byte) := none
  deriving DecidableEq, Repr, Inhabited

/-- The wear log (R394 to R396): powered hours, records and summaries by index, the chain, the last sensor figures, event
counts (CONTAINED, PLANE_FATAL, DEVICE_FATAL, expulsions), FLT_FIRST and FLT_STATUS of the last fatal event, the totals at
the last record, and the lowest one-minute figure of merit, its port and the ports at x4 since then. It lies in NVM, so no reset
touches it. -/
structure Wear where
  hours   : Nat := 0
  records : Table (List Byte) := []
  count   : Nat := 0
  sums    : Table (List Byte) := []
  sumCount : Nat := 0
  chain   : List Byte := []
  last    : WearInputs := { tjMax := 0, tjMin := 0, avsBands := [], slackMin := 0 }
  events  : List Nat := [0, 0, 0, 0]
  fatal   : List Word := [0, 0]
  corr    : List Int := [0, 0, 0, 0]
  sumHour : Nat := 0
  transSeen : Nat := 0
  fomMin  : Nat := 1023
  fomPort : Nat := 0
  narrowed : List Nat := []
  deriving DecidableEq, Repr, Inhabited

/-- Non-volatile memory and fuses: the two image banks and the token area by byte (erased bytes read 0xFF), the sealed
life-cycle state with the count of transitions it was sealed with (R368), LCY_WIPE_COUNT, and the fuses: the counter of
transitions, the floor, the owner rows, the serial number and the grade. -/
structure Vault where
  bankA    : List (Nat × Byte) := []
  bankB    : List (Nat × Byte) := []
  token    : List (Nat × Byte) := []
  state    : Nat := 0
  suffix   : Nat := 0
  sealed   : Nat := 0
  trans    : Nat := 0
  wipes    : Nat := 0
  floor    : Nat := 0
  owners   : List (List Byte) := []
  serial   : Nat := 0
  gradeB   : Bool := false
  deriving DecidableEq, Repr, Inhabited

end Sys2Proof.Machine
end

