-- ==== Sys2Proof/Machine/UnitsHost.lean ====
section
/-! DEFINITION. What pool memory, the Scribe, the mortises and the host ports hold besides their registers (chapters 10, 11
and 12). -/
namespace Sys2Proof.Machine

/-- Memory of the hub by the OFFSET of its own node (Table 1.5): both pool windows and the lofts. `marks` holds, of 32-byte
words stored with inverted check bytes, which bytes are inverted (the MASK of R379), keyed by OFFSET / 32; `scrub` the scrub position of each tier. -/
structure Mem where
  cells : List (Nat × Byte) := []
  marks : Table Nat := []
  scrub : Table Nat := []
  deriving DecidableEq, Repr, Inhabited

/-- A mortise (R330 to R334): its notice while full, the stage of TX_FUNC, takes since reset, and LAST_REJ. -/
structure Mortise where
  full   : Bool := false
  notice : List Byte := []
  stage  : List Byte := []
  takes  : Nat := 0
  rej    : Nat := 0
  deriving DecidableEq, Repr, Inhabited

/-- For whom a walk is: a thread, an operation that reads or writes, or prefetching for a descriptor (queue key, count). -/
inductive MissFor where
  | thread (t : Nat)
  | reader (r : Reader)
  | ahead (q : Nat) (count : Word)
  deriving DecidableEq, Repr, Inhabited

/-- A pending miss (R290): the bay, for whom, the context, the virtual address and the rights needed. -/
structure Miss where
  bay  : Nat
  who  : MissFor
  ctx  : Nat
  va   : Nat
  need : Nat
  deriving DecidableEq, Repr, Inhabited

/-- A walk in progress (R280): its misses, the level it reads next, the address of the table there, the rights so far, and
whether an invalidation has overtaken it (R294). -/
structure Walk where
  misses : List Miss
  level  : Nat
  table  : Nat
  rights : Nat
  stale  : Bool := false
  deriving DecidableEq, Repr, Inhabited

/-- The Scribe (chapter 10): the buffers, least recently used first (0 to 63 the bays', 64 and 65 the dies' second level, 66
and 67 the dies' non-leaf caches), pending misses in arrival order, the sixteen walkers, and what an invalidation waits for:
requests by tag and deadline, queues by key, count and tile, threads by key and PC, members and packets by identity; `noAhead` the descriptors (queue key, count) whose prefetching a
fault has stopped. -/
structure Scr where
  buffers : Table (List Lookaside) := []
  misses  : List Miss := []
  walks   : Table (Option Walk) := []
  busyReq : List (Nat × Nat) := []
  busyQ   : List (Nat × Word × Nat) := []
  busyTh  : List (Nat × Nat) := []
  busyPid : List Nat := []
  busyMem : List Nat := []
  noAhead : List (Nat × Word) := []
  deriving DecidableEq, Repr, Inhabited

/-- A work ring of a function (R320). `held` is a fetched COLL_OPEN entry whose descriptor is being read (R321). -/
structure Ring where
  bound   : Bool := false
  base    : Nat := 0
  log2n   : Nat := 0
  maxf    : Nat := 0
  opmask  : Nat := 0
  db      : Nat := 0
  head    : Nat := 0
  err     : Nat := 0
  stopped : Bool := false
  unbind  : Bool := false
  held    : Option (List Word) := none
  deriving DecidableEq, Repr, Inhabited

/-- An operation in flight with a status word (R321 to R327): its entry, the fields of Table 12.7, and the update in
progress: `step` 1 to 3 names the write under way (0 none), `body` the words 0 to 6 it writes, `again` a change of STATE since,
`dirty` a change not yet reported, `cut` that a failing update of DONE is not reissued. `phase` belongs to the operation, `okTo` is how
far it has come without a failed write. -/
structure Op where
  id       : Nat
  func     : Nat
  ring     : Option Nat
  opc      : Nat
  sw       : Nat
  user     : Word := 0
  args     : List Word := []
  seq      : Nat
  state    : Nat := 1
  status   : Nat := 0
  memb     : Nat := 0
  chunk    : Nat := 0
  node     : Nat := 0
  taint    : Nat := 0
  detail   : Word := 0
  progress : Nat := 0
  total    : Nat := 0
  final    : Nat := 0
  upd      : Nat := 0
  step     : Nat := 0
  body     : List Word := []
  okTo     : Option Nat := none
  again    : Bool := false
  dirty    : Bool := false
  dirtyAt  : Nat := 0
  tries    : Nat := 0
  retryAt  : Option Nat := none
  phase    : Nat := 0
  cut      : Bool := false
  deriving DecidableEq, Repr, Inhabited

/-- A command accepted by the wright (R337). -/
structure Cmd where
  func  : Nat
  code  : Nat
  key   : Nat
  words : List Word
  op    : Nat
  deriving DecidableEq, Repr, Inhabited

/-- A BAR2 read or AtomicOp in progress (R316, R317). -/
structure ApRead where
  id    : Nat
  func  : Nat
  left  : Nat
  parts : List (Nat × List Byte) := []
  fail  : Option (Nat × Nat) := none
  deriving DecidableEq, Repr, Inhabited

/-- A PCIe transaction or message that the hub has sent toward a host, or a completion it has returned (observations). -/
inductive HostMsg where
  | msix (f v : Nat)
  | read (id f addr len : Nat)
  | write (id f addr : Nat) (data : List Byte)
  | completion (f : Nat) (data : List Byte)
  | abort (f : Nat)
  | unsupported (f : Nat)
  | retry (f : Nat)
  deriving DecidableEq, Repr, Inhabited

/-- A PCI function (R312, R313): its enables, its MSI-X table (key 2v the message address of vector v, 2v + 1 its data and vector
control, whose bit 32 is the mask) and the pending bits by vector. -/
structure Func where
  mem     : Bool := false
  master  : Bool := false
  msixOn  : Bool := false
  maskAll : Bool := false
  vectors : Table Word := []
  pending : Nat := 0
  deriving DecidableEq, Repr, Inhabited

/-- The host ports (chapter 12). Rings are keyed by 16 x function + ring; `turns` holds
the ring of a function whose entry was fetched last (R321). -/
structure HostUnit where
  funcs   : Table Func := []
  vfs     : List Bool := [false, false]
  rings   : Table Ring := []
  turns   : Table Nat := []
  ops     : List Op := []
  nextOp  : Nat := 1
  cmd     : List Cmd := []
  lastSeq : Table Nat := []
  reads   : List ApRead := []
  nextRead : Nat := 0
  sentMsgs : List HostMsg := []
  deriving DecidableEq, Repr, Inhabited

end Sys2Proof.Machine
end

