-- ==== Sys2Proof/Machine/UnitsLink.lean ====
section
/-! DEFINITION. What a port and a lane hold besides their registers (chapter 15). -/
namespace Sys2Proof.Machine

/-- A plank sent and not yet acknowledged (R408): its sequence number, when it was sent, the packets whose last byte it carries, and of an
INIT plank the credits by channel (R410); `bad`: its code was sent inverted by an injected error (R379). -/
structure SentPlank where
  pseq : Nat
  at_  : Nat := 0
  pkts : List Held := []
  init : List Nat := []
  bad  : Bool := false
  deriving DecidableEq, Repr, Inhabited

/-- Link keys of one direction (R352): key, salt and the packet counter. -/
structure LinkKey where
  key   : List Byte := []
  salt  : List Byte := []
  count : Nat := 0
  deriving DecidableEq, Repr, Inhabited

/-- The HELLO exchange of a port (R351, R353): this end's private key and OFFER, the far end's OFFER, session and certificate
fragments, its verified key, and which steps are done. -/
structure Hello where
  priv    : List Byte := []
  offer   : List Byte := []
  session : List Byte := []
  peerOffer : List Byte := []
  peerSession : List Byte := []
  frags   : Table (List Byte) := []
  nfrag   : Nat := 0
  peerKey : List Byte := []
  sentProof : Bool := false
  gotProof : Bool := false
  rekey   : Bool := false
  nextTx  : LinkKey := {}
  nextRx  : LinkKey := {}
  deriving DecidableEq, Repr, Inhabited

/-- How far a narrowing has come at this end (R417, R418). -/
inductive Narrow where
  | none | requested | responding
  deriving DecidableEq, Repr, Inhabited

/-- A port (R405 to R420). Credits are per virtual channel; `waiting` holds link-local packets that wait for credit; `wantReplay`
a replay that the far end has asked for, `resentAt` the last one and `rtt` the measured round trip (R409); `owedAt` and `ackAt`
since when a dozing transmitter owes credit or an ACK (R419). -/
structure Port where
  credits : List Nat := [0, 0, 0, 0, 0, 0, 0, 0, 0, 0]
  owed    : List Nat := [0, 0, 0, 0, 0, 0, 0, 0, 0, 0]
  nextSeq : Nat := 0
  unacked : List SentPlank := []
  expect  : Nat := 0
  rplSent : Bool := false
  replays : Nat := 0
  progressAt : Nat := 0
  tagFails : List Nat := []
  rxCount : Nat := 0
  initSent : Option Nat := none
  initSeen : Bool := false
  stateAt : Nat := 0
  tx      : LinkKey := {}
  rx      : LinkKey := {}
  hello   : Hello := {}
  peer    : Option Node := none
  chain   : List Byte := []
  sealing : Bool := false
  narrow  : Narrow := .none
  half    : Bool := false
  narrowAt : Nat := 0
  deferred : Option Bool := none
  bad     : Table Nat := []
  deepReq : Option Nat := none
  fineAdapt : Bool := false
  idleAt  : Nat := 0
  offers  : Nat := 0
  waiting : List Packet := []
  wantReplay : Bool := false
  resentAt : Nat := 0
  rtt     : Nat := 0
  owedAt  : Option Nat := none
  ackAt   : Option Nat := none
  deriving DecidableEq, Repr, Inhabited

/-- A lane: since when it has had signal and since when it hunts for block lock, the far end's last training word (READY,
widths, lane number), uncorrectable codewords in succession, and the sum and number of its figures of merit; `taps` the steps of its
transmitter's four taps from the preset, and `coefStat` what the last requests for them came to (R413). -/
structure Lane where
  signalAt : Option Nat := none
  huntAt : Nat := 0
  ready  : Bool := false
  widths : Nat := 0
  number : Option Nat := none
  uncorr : Nat := 0
  fomSum : Nat := 0
  fomN   : Nat := 0
  fomAt  : Nat := 0
  taps   : List Int := [0, 0, 0, 0]
  coefStat : Nat := 0
  deriving DecidableEq, Repr, Inhabited

/-- The links: ports by output index and lanes by global number. -/
structure Links where
  ports   : Table Port := []
  lanes   : Table Lane := []
  deriving DecidableEq, Repr, Inhabited

end Sys2Proof.Machine
end

