-- ==== Sys2Proof/Machine/UnitsCollective.lean ====
section
/-! DEFINITION. What the sawpits, the kerf allocator and the member behaviour of the sill hold (chapters 5 to 7). -/
namespace Sys2Proof.Machine

/-- The state of a collective slot (Table 6.7). -/
inductive SlotState where
  | free | joining | running | done
  deriving DecidableEq, Repr, Inhabited

/-- What a RAISE adds to an open (Table 7.3): directory entry, kernel, update bays in ascending order, the two headers and
their words, the scaled constants (words 4 to 11), TKCTL and ARG0 to ARG2. -/
structure RaiseDesc where
  seg    : Nat := 0
  kernel : Nat := 0
  ubays  : List Nat := []
  cur    : Nat := 0
  shd    : Nat := 0
  hdr    : List Word := []
  shdr   : List Word := []
  consts : List Word := []
  tkctl  : Word := 0
  args   : List Word := []
  deriving DecidableEq, Repr, Inhabited

/-- A collective as its descriptor and member list define it (Table 6.2), after the substitutions of R162. -/
structure CollDesc where
  part    : Nat := 0
  root    : Nat := 0
  planes  : Nat := 0
  fast    : Bool := false
  wait    : Bool := false
  rmode   : Nat := 0
  outF    : Nat := 0
  inF     : Nat := 0
  op      : Nat := 0
  kind    : Nat := 0
  n       : Nat := 0
  sawpits : Nat := 8
  kerfs   : Nat := 0
  tmo     : Nat := 0
  waitUs  : Nat := 0
  members : List Node := []
  status  : Nat := 0
  raise   : Option RaiseDesc := none
  deriving DecidableEq, Repr, Inhabited

/-- An open in the admission queue (R168). -/
structure Waiting where
  id     : Nat
  opener : Opener
  desc   : CollDesc
  at_    : Nat
  until_ : Option Nat
  deriving DecidableEq, Repr, Inhabited

/-- A chunk in a kerf: scales by member (PKT 62 and PKT 63), the agreed scales once fixed, the payloads by
64 x member + PKT, the sums of a reduction so far by block (R178), whether it is corrupt, the block
of a fast kerf whose first word was stored with inverted check bytes and which they are (R305, R379); for a RAISE its posted item and the new weight blocks; once its results are sent the
packets that carry them. -/
structure Chunk where
  own     : Table (List Byte) := []
  agreed  : Option (List Nat) := none
  res     : Table (List Byte) := []
  data    : Table (Option (List Byte)) := []
  acc     : Table (List Int) := []
  corrupt : Bool := false
  bad     : Option (Nat × Nat) := none
  sums    : Option (List (Nat × List Int)) := none
  item    : Option Nat := none
  weights : Option (List (Nat × List Byte)) := none
  sent    : Bool := false
  pids    : List Nat := []
  deriving DecidableEq, Repr, Inhabited

/-- A collective slot (R166 to R186). `ring` holds for each ring slot the chunks finished in it; `chunks` the chunk in each
ring slot, `marked` the chunks to come of which a packet has failed its CHK (R180), `closing` that the commit's write is out (R208). -/
structure Slot where
  state    : SlotState := .free
  gen      : Nat := 0
  opener   : Opener := .wright 0
  desc     : CollDesc := {}
  saws     : List Nat := []
  k        : Nat := 0
  fastK    : Nat := 0
  counts   : Table Nat := []
  caps     : Table Nat := []
  len      : Nat := 0
  first    : List Nat := []
  ring     : Table Nat := []
  chunks   : Table Chunk := []
  left     : Nat := 0
  confirms : Table (Option (Nat × Nat)) := []
  timer    : Option Nat := none
  taint    : Nat := 0
  corrupt  : Option Nat := none
  marked   : List Nat := []
  closing  : Bool := false
  items    : List Nat := []
  pegBase  : Word := 0
  doneAt   : Nat := 0
  deriving DecidableEq, Repr, Inhabited

/-- A chunk at a local member: which chunk the ring slot has reached, whether its scales and its data have been sent, the agreed
scales once they are in, the result packets held by PKT (`none`: held but bad). -/
structure MChunk where
  round  : Nat := 0
  scales : Bool := false
  sent   : Bool := false
  agreed : Option (List Nat) := none
  held   : Table (Option (Option (List Byte))) := []
  rchk   : Option Word := none
  deriving DecidableEq, Repr, Inhabited

/-- A local open at a member that is a node of this hub (R170, R238): the queue or the ring operation whose member it is, and the status
and node of the first of its reads and writes that failed. -/
structure Member where
  id      : Nat
  of_     : Opener
  node    : Node
  hub     : Node
  cid     : Nat
  gen     : Nat
  tmo     : Nat
  memb    : Nat
  cap     : Nat
  count   : Nat
  arrays  : List Word := []
  status  : Nat := 0
  at_     : Nat := 0
  begun   : Bool := false
  k       : Nat := 0
  len     : Nat := 0
  root    : Nat := 0
  nmemb   : Nat := 0
  rmode   : Nat := 0
  outF    : Nat := 0
  inF     : Nat := 0
  op      : Nat := 0
  kind    : Nat := 0
  first   : List Nat := []
  chunks  : Table MChunk := []
  rcvd    : Nat := 0
  bad     : Nat := 0
  firstBad : Nat := 0
  nsent   : Nat := 0
  confirmed : Bool := false
  taint   : Nat := 0
  deadline : Nat := 0
  deriving DecidableEq, Repr, Inhabited

/-- Collectives at this hub: slots by CID, the admission queue, the local members, and the rounding generators that have left
their seed, by unit number (R150). -/
structure Coll where
  slots   : Table Slot := []
  waiting : List Waiting := []
  nextId  : Nat := 0
  members : List Member := []
  gens    : Table Word := []
  deriving DecidableEq, Repr, Inhabited

end Sys2Proof.Machine
end

