-- ==== Sys2Proof/Machine/State.lean ====
section
/-! DEFINITION. The state of the hub, the reasons a step can stop, and the state right after the AON supplies are applied. -/
namespace Sys2Proof.Machine

/-- Everything that a reset or a loss of supply can end: the management registers that differ from their reset values, keyed
by offset (R453), the hub's own timer CLK_TIME in ns (R449), the counter of free values drawn, and the units. -/
structure Hub where
  regs  : List (Nat × Word) := []
  now   : Nat := 0
  draw  : Nat := 0
  brd   : Board := {}
  plumb : Plumb := {}
  sec   : Sec := {}
  swc   : Swc := {}
  sill  : Sill := {}
  pegs  : Pegs := {}
  mts   : List (Nat × Mortise) := []
  mem   : Mem := {}
  coll  : Coll := {}
  bays  : Bays := {}
  scr   : Scr := {}
  host  : HostUnit := {}
  links : Links := {}
  snd   : Sound := {}
  wear  : Wear := {}
  deriving DecidableEq, Repr, Inhabited

/-- The state of the machine: the hub, what lies in NVM and fuses, and the commands that wait, first in first out. -/
structure State where
  hub     : Hub
  vault   : Vault
  pending : List Instr
  deriving DecidableEq, Repr

/-- Reasons a step stops with a fault. The spec stops the block nowhere, so there is none: every error is an answer, a status
or an event of the plumb in the next state. -/
inductive Fault where
  /-- Raised by no command; it stands here because the type must not be empty for a reader of outcomes. Safe. -/
  | unused
  deriving DecidableEq, Repr

/-- Reasons a command is refused. -/
inductive Refusal where
  /-- The command has no meaning in this model yet; raised by its arm of `exec`. Safe: no claim about the command can be
  proved from it. -/
  | notModelled (mnemonic : String)
  deriving DecidableEq, Repr

/-- The hub before its AON supplies are applied (log entry 6). -/
def Hub.reset : Hub := {}

/-- NVM and fuses as a new part has them: erased NVM and no fuse blown (log entries 3 and 10). -/
def Vault.reset : Vault := {}

/-- The machine right after reset: AON held in its power-on reset, every register at its reset value, no command waiting. -/
def State.reset : State := { hub := Hub.reset, vault := Vault.reset, pending := [] }

end Sys2Proof.Machine
end

