-- ==== Sys2Proof/Machine/Operands.lean ====
section
/-! DEFINITION. The management register map (chapter 17): for each offset its reset value and the bits that each access code
covers, the named fields, and the byte form of packets (chapter 2). -/
namespace Sys2Proof.Machine

/-- How a register answers: its reset value, and which bits are RW, W1C and RC (Table 0.3). Every other bit is RO, WO or RSV. -/
structure RegInfo where
  reset : Word := 0
  rw    : Word := 0
  w1c   : Word := 0
  rc    : Word := 0
  deriving DecidableEq, Repr

/-- A read-only register. -/
def regRo (r : Word) : Option RegInfo := some { reset := r }
/-- A register with read-write bits. -/
def regRw (m r : Word) : Option RegInfo := some { reset := r, rw := m }
/-- A 64-bit counter (R456). -/
def regCtr : Option RegInfo := some { rc := 0xFFFFFFFFFFFFFFFF }

/-- Registers of PWR and CLK (Table 17.2). -/
def pwrInfo (o : Nat) : Option RegInfo :=
  if o = 0x0 then regRo 0x1000000000000000
  else if o = 0x8 then some { reset := 0x0000000300000003, rw := 0x00000000000FFFFC, w1c := 0x8000000000000000 }
  else if o = 0x10 then regRw 0x0000FF000000FFFF 0x00006400047E047E
  else if o = 0x18 then regRo 0x4000000000000000
  else if o = 0x20 then regRw 0x00C00FFF00000000 0
  else if 0x2000 ≤ o ∧ o < 0x4000 then regRw 0xFFFFFFFFFFFFFFFF 0
  else none

/-- Registers of CLK (Tables 16.12, 16.13). The image sets EN and SAW; log entry 3 names the value until then. -/
def clkInfo (o : Nat) : Option RegInfo :=
  if o = 0x0 then regRw 0xFFFFFFFFFFFFFFFF 0xFFFFFFFFFFFFFFFF
  else if o = 0x8 then some { reset := 0x000000000003FFFF, rw := 0x000000000003FFFF, w1c := 0x8000000000000000 }
  else if o = 0x10 then regRo 0
  else none

/-- Registers of FLT (Tables 14.1 to 14.9). -/
def fltInfo (o : Nat) : Option RegInfo :=
  if o = 0x0 then some { w1c := 0x00007FFFFFFFFFFF }
  else if o = 0x8 then some { w1c := 0x8000000000000000 }
  else if o = 0x10 then regRo 0
  else if o = 0x18 then regRw 0x3 0x2
  else if o = 0x20 then regRw 0xC03FFFFF0000000F 0
  else if o = 0x28 then regRw 0x00000000FFFFFFFF 0
  else if o = 0x30 then regCtr
  else none

/-- Registers of LCY and SEC (Tables 13.4, 13.7, 13.11, 13.14, 13.15). -/
def secInfo (o : Nat) : Option RegInfo :=
  if o = 0x0 then regRw 0x00000003FFFFFFFF 0x0000000000989680
  else if 0x100 ≤ o ∧ o < 0x180 then regRo 0
  else if 0x200 ≤ o ∧ o < 0x400 then regRo 0
  else none

/-! ### Stations (R103, Tables 4.1 and 17.7) -/

/-- `n` places taken one after the other from a list, each by a choice among those left. -/
def arrange (choice : Nat → Nat) : Nat → List (Nat × Nat) → List (Nat × Nat)
  | 0, _ => []
  | n + 1, l =>
    let i := choice n % l.length
    l.getD i (0, 0) :: arrange choice n (l.eraseIdx i)

/-- The stations (row, column) of the frame. -/
def stations : List (Nat × Nat) := (List.range 144).map fun i => (i / 12, i % 12)
/-- A station's distance from the edge of the frame. -/
def stationDepth (x : Nat × Nat) : Nat := min (min x.1 x.2) (min (11 - x.1) (11 - x.2))
/-- Perimeter, ring and block. -/
def perimeter : List (Nat × Nat) := stations.filter fun x => decide (stationDepth x = 0)
def ringStations : List (Nat × Nat) := stations.filter fun x => decide (stationDepth x = 1)
def blockStations : List (Nat × Nat) := stations.filter fun x => decide (2 ≤ stationDepth x)

/-- The stations of the ring's attachments 88 to 119: one sill half on each die, the others where they may lie. -/
def ringPlaces : List (Nat × Nat) :=
  let west := arrange (fun i => Config.stationChoice (200 + i)) 1 (ringStations.filter fun x => decide (x.2 ≤ 5))
  let east := arrange (fun i => Config.stationChoice (201 + i)) 1 (ringStations.filter fun x => decide (6 ≤ x.2))
  let rest := arrange (fun i => Config.stationChoice (210 + i)) 30 (ringStations.filter fun x => !(west ++ east).contains x)
  rest.take 28 ++ west ++ east ++ rest.drop 28

/-- The station of an attachment: two ports on each station of the perimeter, one bay and bank on each of the block. -/
def attachPlace (i : Nat) : Option (Nat × Nat) :=
  if i < 88 then (arrange Config.stationChoice 88 (perimeter ++ perimeter))[i]?
  else if i < 120 then ringPlaces[i - 88]?
  else if i < 184 then (arrange (fun k => Config.stationChoice (250 + k)) 64 blockStations)[i - 120]?
  else none

/-- SWC_ATTACH_STN of an index. -/
def attachWord (i : Nat) : Word := match attachPlace i with
  | some x => BitVec.ofNat 64 (256 + x.1 * 16 + x.2)
  | none => 0

/-- Registers of SWC (Table 17.3). -/
def swcInfo (o : Nat) : Option RegInfo :=
  if o = 0x0 then regRo 0
  else if o = 0x8 then regRo 0x0000009876543210
  else if o = 0x10 then regRw 0x00000000FFFFFFFF 0
  else if o = 0x18 then regRw 0x000000000000FFFF 0x00000000000001F4
  else if o = 0x20 then regRo 0x00000000000BE340
  else if o = 0x28 then regRw 0x00000001FFFF00FF 0x0000000103E80040
  else if o = 0x30 then some { reset := 0x4, w1c := 0x800 }
  else if o = 0x38 then regRo 0
  else if o = 0x40 ∨ o = 0x48 then regRo 0
  else if o = 0x50 then regRw 0xFC03FFFFFFE00000 0x10000003E0000000
  else if o = 0x58 then regRw 0xF00FFFFFFFFFFF00 0x4000000000000000
  else if o = 0x60 then regRw 0x00000000FFFFFFFF 0
  else if 0x80 ≤ o ∧ o < 0xA8 then regRw 0x000000003F00FFFF 0x0000000010000010
  else if 0x100 ≤ o ∧ o < 0x128 then regCtr
  else if 0x200 ≤ o ∧ o < 0x280 then regRo 0
  else if 0x400 ≤ o ∧ o < 0x6C0 then regCtr
  else if 0x800 ≤ o ∧ o < 0x1000 then regRo (attachWord ((o - 0x800) / 8))
  else if 0x2000 ≤ o ∧ o < 0x4000 then regRw 0x00000000FFFFFFFF 0
  else if 0x4000 ≤ o ∧ o < 0x6000 then regRo 0
  else none

/-- Registers of TRS, SIL, PEG and MTS (Table 17.8), by offset from 0x020_0000. -/
def silInfo (o : Nat) : Option RegInfo :=
  if o = 0x0 ∨ o = 0x8 ∨ o = 0x10 then regCtr
  else if o = 0x10000 then regRw 0x00000003FFFFFFFF 0x00000000001E8480
  else if o = 0x10008 then regRw 0x00000003FFFFFFFF 0x0000000000989680
  else if o = 0x10010 then regRo 0
  else if 0x10040 ≤ o ∧ o < 0x10060 then regCtr
  else if o = 0x20000 then regCtr
  else if o = 0x20008 then regRo 0
  else if 0x30000 ≤ o ∧ o < 0x30800 then regRw 0xFFFFFFFFFFF80000 0
  else if o = 0x30800 then regCtr
  else if 0x30810 ≤ o ∧ o < 0x30830 then regRo 0
  else none

/-- Registers of SAW (Table 17.9). -/
def sawInfo (o : Nat) : Option RegInfo :=
  if o = 0x0 then regRw 0xFFFFFFFFFFFFFFFF 0
  else if o = 0x8 then regRo 0
  else if 0x40 ≤ o ∧ o < 0x68 then regCtr
  else if 0x800 ≤ o ∧ o < 0x1000 then regRw 0x8F0FFFFFFFFFFFFF 0
  else none

/-- Registers of KRF and MEM (Table 17.9), by offset from 0x040_0000. -/
def krfInfo (o : Nat) : Option RegInfo :=
  if o = 0x0 then regRo 0x0000000018000000
  else if o = 0x8 then regRw 0xFFFFFFFF00000000 0x010003E800000000
  else if 0x40 ≤ o ∧ o < 0xC0 then regRo 0
  else if o = 0x10000 then regRo 0x0C00000000000000
  else if o = 0x10008 then regRw 0x800000000000FFFF 0x8000000000000018
  else if o = 0x10010 then some { w1c := 0x8000000000000000 }
  else if o = 0x10018 then regRo 0
  else if 0x10040 ≤ o ∧ o < 0x10068 then regCtr
  else none

/-- Registers of SCR (Table 17.9). -/
def scrInfo (o : Nat) : Option RegInfo :=
  if o = 0x0 then regRo 0
  else if o = 0x8 then some { rw := 0xFFFF, w1c := 0x4000000000000000 }
  else if 0x1000 ≤ o ∧ o < 0x1800 then regRw 0xFF8F80000000FFFF 0
  else if 0x2000 ≤ o ∧ o < 0x2800 then regRw 0x000FFFFFFFFFF000 0
  else if 0x3000 ≤ o ∧ o < 0x3400 then (if o % 0x10 = 0 then some { w1c := 0x8000000000000000 } else regRo 0)
  else none

/-- Registers of the page of a bay (Table 17.10). -/
def bayInfo (o : Nat) : Option RegInfo :=
  if o = 0x0 then regRw 0x1 0
  else if o = 0x8 ∨ o = 0x10 then regCtr
  else if 0x100 ≤ o ∧ o < 0x500 ∧ ¬ (0x300 ≤ o ∧ o < 0x400) then
    (if o % 0x40 = 0 then regRw 0xC0FFFFFFFFF07FFF 0x0000000000200000 else if o % 0x40 = 8 then regRo 0 else none)
  else if 0x800 ≤ o ∧ o < 0xA00 then
    (if o % 0x20 = 0 then regRw 0x3FFFFFFFFFFFFFFF 0 else if o % 0x20 = 8 ∨ o % 0x20 = 0x10 then regRo 0 else none)
  else none

/-- Registers of the page of a host function (Table 17.11). -/
def hstInfo (o : Nat) : Option RegInfo :=
  if o = 0x0 ∨ o = 0x8 then regRo 0
  else if o = 0x10 then some { w1c := 0x8000000000000000 }
  else if o = 0x18 ∨ o = 0x20 then regCtr
  else if 0x200 ≤ o ∧ o < 0x400 then regRw 0x8FFFC000003FFFFF 0
  else none

/-- Registers of SND (Table 17.13). -/
def sndInfo (o : Nat) : Option RegInfo :=
  if o = 0x0 then regRw 0xFFFFFFFFFF0FFFFF 0x80606020300400A2
  else if o = 0x8 then regRo 0xFFFF000000000000
  else if 0x40 ≤ o ∧ o < 0x98 then regRo 0
  else none

/-- Registers of LNK (Table 17.13). -/
def lnkInfo (o : Nat) : Option RegInfo :=
  if o < 0x5600 then
    (if o % 0x100 = 0 then regRw 0xF800FFFF0000000F 0x08004E2000000004
     else if o % 0x100 = 8 then regRo 0
     else if 0x40 ≤ o % 0x100 ∧ o % 0x100 < 0x78 then regCtr
     else none)
  else if 0x10000 ≤ o ∧ o < 0x12B00 then
    (if o % 0x10 = 0 then regRo 0
     else some { rw := 0xFDF0000000000000, rc := 0x00000000FFFFFFFF })
  else if 0x20000 ≤ o ∧ o < 0x20040 then regRo 0
  else none

/-- The register at an offset of the management space, if one is assigned there (R453, Table 17.1). -/
def regInfo (o : Nat) : Option RegInfo :=
  if o % 8 ≠ 0 then none
  else if o < 0x10000 then pwrInfo o
  else if o < 0x20000 then clkInfo (o - 0x10000)
  else if o < 0x30000 then fltInfo (o - 0x20000)
  else if o < 0x40000 then regRo 0
  else if o < 0x50000 then (if o = 0x40000 ∨ o = 0x40008 then regRo 0 else none)
  else if o < 0x60000 then secInfo (o - 0x50000)
  else if o < 0x70000 then sndInfo (o - 0x60000)
  else if o < 0x100000 then none
  else if o < 0x200000 then swcInfo (o - 0x100000)
  else if o < 0x300000 then silInfo (o - 0x200000)
  else if o < 0x400000 then sawInfo (o - 0x300000)
  else if o < 0x500000 then krfInfo (o - 0x400000)
  else if o < 0x600000 then scrInfo (o - 0x500000)
  else if o < 0x640000 then bayInfo ((o - 0x600000) % 0x1000)
  else if o < 0x700000 then none
  else if o < 0x720000 then hstInfo ((o - 0x700000) % 0x1000)
  else if o < 0x800000 then none
  else if o < 0xC04000 then regRo 0
  else if o < 0x1000000 then none
  else if o < 0x1100000 then lnkInfo (o - 0x1000000)
  else none

/-- The reset value of the register at an offset; zero where none is assigned. -/
def resetOf (o : Nat) : Word := match regInfo o with | some i => i.reset | none => 0

/-- The bits of a register that a write can set or clear directly. -/
def rwMask (o : Nat) : Word := match regInfo o with | some i => i.rw | none => 0

/-! ### Named registers -/

def rPwrBoot : Nat := 0x0
def rPwrDom : Nat := 0x8
def rPwrCap : Nat := 0x10
def rPwrThr : Nat := 0x18
def rRcvCtl : Nat := 0x20
def rRcvBuf : Nat := 0x2000
def rClkBay : Nat := 0x10000
def rClkBlk : Nat := 0x10008
def rClkTime : Nat := 0x10010
def rFltStatus : Nat := 0x20000
def rFltFirst : Nat := 0x20008
def rFltOvf : Nat := 0x20010
def rFltPin : Nat := 0x20018
def rFltInj : Nat := 0x20020
def rFltLog : Nat := 0x20028
def rFltDropped : Nat := 0x20030
def rLcyState : Nat := 0x40000
def rLcyWipes : Nat := 0x40008
def rDrainTmo : Nat := 0x50000
def rPartStat (p : Nat) : Nat := 0x50100 + 8 * p
def rKslot (n : Nat) : Nat := 0x50200 + 8 * n
def rSndCfg : Nat := 0x60000
def rSndStat : Nat := 0x60008
def rPscore (k : Nat) : Nat := 0x60040 + 8 * k
def rSelfNode : Nat := 0x100000
def rVcMap : Nat := 0x100008
def rHashSeed : Nat := 0x100010
def rLifetime : Nat := 0x100018
def rPoolFree : Nat := 0x100020
def rHotCtl : Nat := 0x100028
def rScarf : Nat := 0x100030
def rScarfCmd : Nat := 0x100038
def rDrain (e : Nat) : Nat := 0x100040 + 8 * e
def rSmpCtl : Nat := 0x100050
def rSmpRing : Nat := 0x100058
def rSmpIdx : Nat := 0x100060
def rQcfg (c : Nat) : Nat := 0x100080 + 8 * c
def rAgeDrop : Nat := 0x100100
def rBufUncorr : Nat := 0x100108
def rScarfStray : Nat := 0x100110
def rSmpDropped : Nat := 0x100118
def rPingDrop : Nat := 0x100120
def rAbsent (k : Nat) : Nat := 0x100200 + 8 * k
def rPortErr (i : Nat) : Nat := 0x100400 + 8 * i
def rRtEntry (n : Nat) : Nat := 0x102000 + 8 * n
def rRtActive (n : Nat) : Nat := 0x104000 + 8 * n
def rTrsCopies : Nat := 0x200000
def rTrsWait : Nat := 0x200008
def rTrsNoTarget : Nat := 0x200010
def rReqTimeout : Nat := 0x210000
def rFenceTimeout : Nat := 0x210008
def rSilTags : Nat := 0x210010
def rSilLate : Nat := 0x210040
def rSilChk : Nat := 0x210048
def rSilDiscard : Nat := 0x210050
def rSilIntFail : Nat := 0x210058
def rTrigFail : Nat := 0x220000
def rTrigLast : Nat := 0x220008
def rMtsCfg (n : Nat) : Nat := 0x230000 + 8 * n
def rMtsActFail : Nat := 0x230800
def rMtsFull (k : Nat) : Nat := 0x230810 + 8 * k
def rSawSeed : Nat := 0x300000
def rSawOpen : Nat := 0x300008
def rSawLate : Nat := 0x300040
def rSawDup : Nat := 0x300048
def rSawResidue : Nat := 0x300050
def rSawChk : Nat := 0x300058
def rSawProtocol : Nat := 0x300060
def rSegDir (n : Nat) : Nat := 0x300800 + 8 * n
def rKrfFree : Nat := 0x400000
def rKrfCfg : Nat := 0x400008
def rKrfUse (p : Nat) : Nat := 0x400040 + 8 * p
def rMemTop : Nat := 0x410000
def rMemScrub : Nat := 0x410008
def rMemUnc : Nat := 0x410010
def rMemWipe : Nat := 0x410018
def rMemCorr (t : Nat) : Nat := 0x410040 + 8 * t
def rMemUncCnt (t : Nat) : Nat := 0x410050 + 8 * t
def rScrubPass : Nat := 0x410060
def rScrMode : Nat := 0x500000
def rScrInv : Nat := 0x500008
def rCtxCfg (n : Nat) : Nat := 0x501000 + 8 * n
def rCtxRoot (n : Nat) : Nat := 0x502000 + 8 * n
def rBflt (b : Nat) : Nat := 0x503000 + 0x10 * b
def rBfltVa (b : Nat) : Nat := 0x503008 + 0x10 * b
def rBayMode (b : Nat) : Nat := 0x600000 + 0x1000 * b
def rLoftCorr (b : Nat) : Nat := 0x600008 + 0x1000 * b
def rLoftUnc (b : Nat) : Nat := 0x600010 + 0x1000 * b
def rQcfgBay (b e q : Nat) : Nat := 0x600100 + 0x1000 * b + 0x40 * (4 * e + q)
def rQstat (b e q : Nat) : Nat := 0x600108 + 0x1000 * b + 0x40 * (4 * e + q)
def rTctl (b t : Nat) : Nat := 0x600800 + 0x1000 * b + 0x20 * t
def rTstat (b t : Nat) : Nat := 0x600808 + 0x1000 * b + 0x20 * t
def rTinfo (b t : Nat) : Nat := 0x600810 + 0x1000 * b + 0x20 * t
def rHstFunc (f : Nat) : Nat := 0x700000 + 0x1000 * f
def rNonce : Nat := 0x700008
def rErrLast (f : Nat) : Nat := 0x700010 + 0x1000 * f
def rApwMiss (f : Nat) : Nat := 0x700018 + 0x1000 * f
def rCmdDrop (f : Nat) : Nat := 0x700020 + 0x1000 * f
def rApw (f w : Nat) : Nat := 0x700200 + 0x1000 * f + 8 * w
def rPctl (p : Nat) : Nat := 0x1000000 + 0x100 * p
def rPstat (p : Nat) : Nat := 0x1000008 + 0x100 * p
def rCwCorr (p : Nat) : Nat := 0x1000040 + 0x100 * p
def rSymCorr (p : Nat) : Nat := 0x1000048 + 0x100 * p
def rCwUncorr (p : Nat) : Nat := 0x1000050 + 0x100 * p
def rReplay (p : Nat) : Nat := 0x1000058 + 0x100 * p
def rTagFail (p : Nat) : Nat := 0x1000060 + 0x100 * p
def rDownDrop (p : Nat) : Nat := 0x1000068 + 0x100 * p
def rLaneFail (p : Nat) : Nat := 0x1000070 + 0x100 * p
def rLstat (l : Nat) : Nat := 0x1010000 + 0x10 * l
def rPrbs (l : Nat) : Nat := 0x1010008 + 0x10 * l
def rMod (x : Nat) : Nat := 0x1020000 + 8 * x

/-! ### Packets (R36 to R39, R60, R61) -/

/-- LEN of a packet. -/
def Packet.len (p : Packet) : Nat := p.payload.length

/-- The size of a packet in bytes (R36). -/
def Packet.size (p : Packet) : Nat := 32 + p.len + (if p.len = 0 then 0 else 8) + (if p.rck then 8 else 0)

/-- The cells a packet occupies (R37). -/
def Packet.cells (p : Packet) : Nat := ceilDiv p.size 256

/-- The virtual channel of a packet: 2 x CLASS + PH (R124). -/
def Packet.chan (p : Packet) : Nat := 2 * p.cls.toNat + bit01 p.ph

/-- Header word Q0 (Table 2.1). -/
def Packet.q0 (p : Packet) : BitVec 64 :=
  (p.flow ++ p.part ++ p.kslot ++ BitVec.ofBool p.kep ++ BitVec.ofBool p.rep ++ BitVec.ofBool p.ph ++ p.cls ++ p.src
    ++ p.dst ++ p.md ++ p.opc ++ p.tag).setWidth 64

/-- Header word Q1 (Table 2.2). -/
def Packet.q1 (p : Packet) : BitVec 64 := (BitVec.ofNat 11 p.len ++ BitVec.ofBool p.mc ++ p.loc).setWidth 64

/-- Header word Q2 (Table 2.3). -/
def Packet.q2 (p : Packet) : BitVec 64 :=
  (p.stat ++ p.peg ++ p.pgm ++ BitVec.ofBool p.gh ++ BitVec.ofBool p.rck ++ p.aux40).setWidth 64

/-- The 32 header bytes (R39). -/
def Packet.header (p : Packet) : List Byte :=
  leBytes 8 p.q0.toNat ++ leBytes 8 p.q1.toNat ++ leBytes 8 p.q2.toNat ++ leBytes 8 p.aux64.toNat

/-- The header with the fields that hubs change set to zero, as CHK covers it (R61). The truss mask of a multicast packet is
AUX40[31:0] and AUX64. -/
def Packet.fixed (p : Packet) : Packet :=
  { p with rep := false, ph := false, gh := false,
           dst := if p.mc then 0 else p.dst,
           aux40 := if p.mc then p.aux40 &&& 0xFF00000000#40 else p.aux40,
           aux64 := if p.mc then 0 else p.aux64 }

/-- The CHK that covers a packet (R60, R61). -/
def Packet.chkOf (p : Packet) : Word := crc64 (p.fixed.header ++ p.payload)

/-- The packet with its CHK, if it has a payload (R62, R63). -/
def Packet.sealChk (p : Packet) : Packet := if p.len = 0 then p else { p with chk := p.chkOf }

/-- Whether a packet's CHK verifies; a packet without payload carries none (R63). -/
def Packet.chkOk (p : Packet) : Bool := decide (p.len = 0) || decide (p.chk = p.chkOf)

/-- The bytes of a packet as sampled (R138): header, payload, CHK and RCHK. -/
def Packet.bytes (p : Packet) : List Byte :=
  p.header ++ p.payload ++ (if p.len = 0 then [] else leBytes 8 p.chk.toNat) ++ (if p.rck then leBytes 8 p.rchk.toNat else [])

/-- The truss mask of a multicast packet (R44): 96 bits. -/
def Packet.mask (p : Packet) : Nat := p.aux64.toNat + (p.aux40.toNat % 2 ^ 32) * 2 ^ 64

/-- A packet with its truss mask set; FMT in AUX40[39:36] is kept. -/
def Packet.setMask (p : Packet) (m : Nat) : Packet :=
  { p with aux64 := BitVec.ofNat 64 m, aux40 := (p.aux40 &&& 0xFF00000000#40) ||| BitVec.ofNat 40 ((m >>> 64) % 2 ^ 32) }

/-- The node of a fabric address (Table 1.4). -/
def faNode (fa : Nat) : Node := BitVec.ofNat 10 (fa >>> 42)
/-- The offset of a fabric address (Table 1.4). -/
def faOff (fa : Nat) : Nat := fa % 2 ^ 42
/-- A fabric address. -/
def faOf (n : Node) (off : Nat) : Nat := n.toNat * 2 ^ 42 + off % 2 ^ 42

/-- OPC codes of Table 2.4. -/
def opcRd : BitVec 4 := 0x0
def opcWr : BitVec 4 := 0x1
def opcWra : BitVec 4 := 0x2
def opcAt : BitVec 4 := 0x3
def opcSend : BitVec 4 := 0x4
def opcColc : BitVec 4 := 0x5
def opcColr : BitVec 4 := 0x6
def opcRsp : BitVec 4 := 0x8
def opcNak : BitVec 4 := 0x9
def opcMgt : BitVec 4 := 0xF

/-- The class of an opcode (Table 2.4); none for a reserved opcode. -/
def classOf (o : BitVec 4) : Option (BitVec 3) :=
  if o.toNat ≤ 4 then some 0 else if o = opcColc then some 1 else if o = opcColr then some 2
  else if o = opcRsp ∨ o = opcNak then some 3 else if o = opcMgt then some 4 else none

/-- Whether MOD is one of Table 2.6 for the opcode. -/
def modOk (o m : BitVec 4) : Bool :=
  if o = opcRd then decide (m.toNat ≤ 1)
  else if o = opcWr ∨ o = opcWra ∨ o = opcSend ∨ o = opcNak then decide (m = 0)
  else if o = opcAt then decide (m.toNat ≤ 7)
  else if o = opcColc ∨ o = opcColr then decide (m.toNat ≤ 3)
  else if o = opcRsp then decide (m.toNat ≤ 1)
  else if o = opcMgt then decide (m.toNat ≤ 4)
  else false

/-- The operand width of an AT in bytes (R46). -/
def Packet.atWidth (p : Packet) : Nat := if p.aux40.getLsbD 0 then 8 else 4

/-- RLEN of an RD (Table 2.7). -/
def Packet.rlen (p : Packet) : Nat := p.aux40.toNat % 2 ^ 11

/-- Whether LEN, or RLEN of an RD, is in the range of Table 2.4 for the opcode and modifier. -/
def lenOk (p : Packet) : Bool :=
  if p.opc = opcRd then decide (p.len = 0) &&
    (if p.md = 0 then decide (1 ≤ p.rlen) && decide (p.rlen ≤ 1024) else decide (p.rlen = 0))
  else if p.opc = opcWr ∨ p.opc = opcWra ∨ p.opc = opcSend then decide (1 ≤ p.len) && decide (p.len ≤ 1024)
  else if p.opc = opcAt then decide (p.len = (if p.md = 5 then 2 * p.atWidth else p.atWidth))
  else if p.opc = opcColc ∨ p.opc = opcColr then decide (p.len ≤ 1024)
  else if p.opc = opcRsp then (if p.md = 0 then decide (1 ≤ p.len) && decide (p.len ≤ 1024) else decide (p.len = 0))
  else if p.opc = opcNak then decide (p.len = 0)
  else if p.opc = opcMgt then decide (p.len ≤ 256)
  else false

/-- Whether a request's span crosses a 4 KiB boundary of its address (R38). -/
def crosses (p : Packet) : Bool :=
  let a := p.loc.toNat % 4096
  if p.opc = opcWr ∨ p.opc = opcWra ∨ p.opc = opcAt then decide (4096 < a + p.len)
  else if p.opc = opcRd ∧ p.md = 0 then decide (4096 < a + p.rlen)
  else false

/-- The COLR DATA packet that may carry RCHK (R64). -/
def rckOk (p : Packet) : Bool := !p.rck || (decide (p.opc = opcColr) && decide (p.md = 0))

/-- FMT of a COLC or COLR packet (Table 2.7). -/
def Packet.fmt (p : Packet) : Nat := (p.aux40.toNat >>> 36) % 16

/-- FMT is one that the opcode may carry (R139, R140). -/
def fmtFieldOk (p : Packet) : Bool :=
  if p.opc = opcColc then decide (p.fmt ≤ 7) else if p.opc = opcColr then decide (p.fmt ≤ 10) else true

/-- Whether a packet breaks the form rules of R38, R41 to R43, R66 and R139; `peer` holds for a packet that a hub sent (a girt or
rafter port). -/
def malformed (peer : Bool) (p : Packet) : Bool :=
  decide (classOf p.opc ≠ some p.cls) || !modOk p.opc p.md || !lenOk p || crosses p
    || (!peer && (p.mc || p.rck)) || (p.mc && decide (p.opc ≠ opcColr)) || !rckOk p || !fmtFieldOk p

/-- A NAK to a request (R52, R65): phase A, toward the source. -/
def Packet.nakOf (p : Packet) (code : Nat) (self : Node) : Packet :=
  { flow := p.flow, part := p.part, kslot := p.kslot, kep := p.kep, cls := 3, src := p.dst, dst := p.src, opc := opcNak,
    tag := p.tag, loc := p.loc, stat := BitVec.ofNat 8 code, aux40 := BitVec.setWidth 40 self }

/-- An RSP ACK to a request (R52). -/
def Packet.ackOf (p : Packet) : Packet :=
  { flow := p.flow, part := p.part, kslot := p.kslot, kep := p.kep, cls := 3, src := p.dst, dst := p.src, opc := opcRsp,
    md := 1, tag := p.tag }

/-- An RSP DATA to a request (R52), with its CHK. -/
def Packet.dataOf (p : Packet) (bs : List Byte) : Packet :=
  Packet.sealChk { flow := p.flow, part := p.part, kslot := p.kslot, kep := p.kep, cls := 3, src := p.dst, dst := p.src,
                   opc := opcRsp, md := 0, tag := p.tag, payload := bs }

/-- Whether a packet is a system packet: its KSLOT alone decides (R346). -/
def Packet.isSystem (p : Packet) : Bool := decide (p.kslot = 32) || decide (p.kslot = 33)

end Sys2Proof.Machine
end

