-- ==== Sys2Proof/Machine/Flags.lean ====
section
/-! DEFINITION. Status and NAK codes, plumb bits and bank states, by the spec's names. -/
namespace Sys2Proof.Machine

/-! ### NAK codes (Table 2.10) -/
def nakNoRoute : Nat := 0x01
def nakNoTarget : Nat := 0x02
def nakAbsent : Nat := 0x03
def nakDenied : Nat := 0x04
def nakQuiesce : Nat := 0x05
def nakGone : Nat := 0x06
def nakKey : Nat := 0x07
def nakMalformed : Nat := 0x08
def nakUnsupported : Nat := 0x09
def nakAlign : Nat := 0x0A
def nakCheck : Nat := 0x0B
def nakMem : Nat := 0x0C
def nakFull : Nat := 0x0D
def nakNoBuffer : Nat := 0x0E
def nakTooLong : Nat := 0x0F
def nakColl : Nat := 0x10

/-! ### Statuses of descriptors, threads and operations (Tables 6.4, 8.7, 12.9) -/
def stOk : Nat := 0x00
def stAborted : Nat := 0x24
def stBadDesc : Nat := 0x31
def stFenceLost : Nat := 0x40
def stPegTimeout : Nat := 0x41
def stReqTimeout : Nat := 0x42
def stXlate : Nat := 0x43
def stQueueOff : Nat := 0x44

/-! ### Plumb bits (Table 14.1) -/
def fltSd (c : Nat) : Nat := c
def fltD2d : Nat := 10
def fltSwc : Nat := 11
def fltRte : Nat := 12
def fltSil : Nat := 13
def fltPeg : Nat := 14
def fltMts : Nat := 15
def fltSaw (s : Nat) : Nat := 16 + s / 4
def fltKrf : Nat := 20
def fltBay (b : Nat) : Nat := 21 + b / 8
def fltScr : Nat := 29
def fltHbm (s : Nat) : Nat := 30 + s
def fltLpd : Nat := 34
def fltHst (p : Nat) : Nat := 35 + p
def fltSec : Nat := 37
def fltLcy : Nat := 38
def fltWrt : Nat := 39
def fltAon : Nat := 40
def fltNvm : Nat := 41
def fltPwr : Nat := 42
def fltThm : Nat := 43
def fltClk : Nat := 44
def fltSnd : Nat := 45
def fltWipe : Nat := 46

/-- The code of a fault class (FLT_FIRST.CLASS). -/
def FaultClass.code : FaultClass → Nat
  | .corrected => 0 | .contained => 1 | .planeFatal => 2 | .deviceFatal => 3

/-! ### States of a route bank (Table 4.9) -/
def bankFreeCode : Nat := 0
def bankLoaded : Nat := 1
def bankActive : Nat := 2
def bankDraining : Nat := 3

/-! ### Phases of PWR_BOOT (Table 16.6) -/
def phTest : Nat := 0xD
def phRecovery : Nat := 0xE
def phReady : Nat := 0xF

/-! ### States of a partition (Table 13.4) and of a key slot (Table 13.7) -/
def ptFree : Nat := 0
def ptActive : Nat := 1
def ptRekey : Nat := 2
def ptQuiesce : Nat := 3
def ptWiping : Nat := 4
def ksEmpty : Nat := 0
def ksWrite : Nat := 1
def ksRead : Nat := 2
def ksDrain : Nat := 3

/-! ### States of a port (Table 15.2) -/
def lkOff : Nat := 0x0
def lkDetect : Nat := 0x1
def lkCdr : Nat := 0x2
def lkBlock : Nat := 0x3
def lkAdapt : Nat := 0x4
def lkAlign : Nat := 0x5
def lkInit : Nat := 0x6
def lkHello : Nat := 0x7
def lkActive : Nat := 0x8
def lkDeep : Nat := 0x9
def lkDown : Nat := 0xA

end Sys2Proof.Machine
end

