-- ==== Sys2Proof/Machine/Ops.lean ====
section
/-! DEFINITION. The named operations over registers, the plumb, partitions, the fabric's local sources and the sill's tags. -/
namespace Sys2Proof.Machine

/-! ### Registers -/

/-- The register at an offset. -/
def Hub.reg (h : Hub) (o : Nat) : Word := tget (resetOf o) h.regs o

/-- The hub with the register at an offset set. -/
def Hub.setReg (h : Hub) (o : Nat) (w : Word) : Hub := { h with regs := tset (resetOf o) h.regs o w }

/-- Field [lo+n-1 : lo] of a register. -/
def Hub.fld (h : Hub) (o lo n : Nat) : Nat := bitsGet (h.reg o) lo n

/-- The hub with a field of a register set. -/
def Hub.setFld (h : Hub) (o lo n v : Nat) : Hub := h.setReg o (bitsPut (h.reg o) lo n v)

/-- The hub with a counter advanced by `k`; it stops at all ones (R456). -/
def Hub.countBy (h : Hub) (o k : Nat) : Hub := h.setReg o (BitVec.ofNat 64 (min ((h.reg o).toNat + k) (2 ^ 64 - 1)))

/-- The hub with a counter advanced by one. -/
def Hub.count (h : Hub) (o : Nat) : Hub := h.countBy o 1

/-- A bit of a register. -/
def Hub.bit (h : Hub) (o i : Nat) : Bool := decide (h.fld o i 1 = 1)

/-- A free value, and the hub that has drawn it (log entry 2). -/
def Hub.drawn (h : Hub) : Word := Config.freeWord h.draw
/-- The hub after a free value has been drawn. -/
def Hub.redraw (h : Hub) : Hub := { h with draw := h.draw + 1 }

/-- An outcome that is always a next state: the command's effect on the hub alone. -/
def onHub (f : Hub → Hub) (s : State) : Host.Outcome State Fault Refusal := .next { s with hub := f s.hub }

/-- The command's effect on the hub, which may read NVM and fuses. -/
def onHubV (f : Vault → Hub → Hub) (s : State) : Host.Outcome State Fault Refusal := .next { s with hub := f s.vault s.hub }

/-- The command's effect on the hub and on NVM and fuses. -/
def onBoth (f : Vault → Hub → Vault × Hub) (s : State) : Host.Outcome State Fault Refusal :=
  .next { s with vault := (f s.vault s.hub).1, hub := (f s.vault s.hub).2 }

/-! ### Phases and identity -/

/-- PWR_BOOT.PHASE (Table 16.6). -/
def Hub.phase (h : Hub) : Nat := h.fld rPwrBoot 60 4
/-- The hub is READY (R440). -/
def Hub.ready (h : Hub) : Bool := decide (h.phase = phReady)
/-- The wright runs: RESET_N is high, and start-up has come to its step 4. -/
def Hub.wrightRuns (h : Hub) : Bool := h.brd.resetN && decide (4 ≤ h.phase)
/-- The hub is in RECOVERY (R437). -/
def Hub.inRecovery (h : Hub) : Bool := decide (h.phase = phRecovery)
/-- A domain of Table 16.10 has power-good. -/
def Hub.domainOn (h : Hub) (d : Nat) : Bool := decide (bitsGet (h.reg rPwrDom) (32 + d) 1 = 1)
/-- No fatal event has stopped the bays, sawpits, sill and forwarding (R375). -/
def Hub.alive (h : Hub) : Bool := decide (h.plumb.fatal = 0)
/-- The node of the hub's pool and end-point (SWC_SELF_NODE.NODE). -/
def Hub.self (h : Hub) : Node := BitVec.ofNat 10 (h.fld rSelfNode 0 10)
/-- A function is enabled (HST_FUNC.EN, R313). -/
def Hub.funcOn (h : Hub) (f : Nat) : Bool := h.bit (rHstFunc f) 63
/-- The node of a function. -/
def Hub.funcNode (h : Hub) (f : Nat) : Node := BitVec.ofNat 10 (h.fld (rHstFunc f) 0 10)
/-- A PF (R313): functions 0 and 16. -/
def isPf (f : Nat) : Bool := decide (f = 0) || decide (f = 16)
/-- The enabled function whose node a node ID is. -/
def Hub.funcOf (h : Hub) (n : Node) : Option Nat := (List.range 32).find? fun f => h.funcOn f && decide (h.funcNode f = n)
/-- A node of this hub: its own or that of one of its functions. -/
def Hub.ours (h : Hub) (n : Node) : Bool := decide (n = h.self) || (h.funcOf n).isSome
/-- The current route epoch (SWC_SCARF.EPOCH). -/
def Hub.epoch (h : Hub) : Bool := h.bit rScarf 0
/-- The packet lifetime in ns (R55, Table 17.3). -/
def Hub.lifetime (h : Hub) : Nat := clampNat (h.fld rLifetime 0 16) 50 10000 * 1000

/-! ### The wear log's record and the plumb (chapter 14) -/

/-- The pool error counters that a wear record follows: MEM_CORR_HBM, MEM_CORR_LP, MEM_UNC_HBM, MEM_UNC_LP. -/
def poolCounter (i : Nat) : Nat := if i < 2 then rMemCorr i else rMemUncCnt (i - 2)
/-- The value of a pool error counter. -/
def Hub.poolErrors (h : Hub) (i : Nat) : Int := ((h.reg (poolCounter i)).toNat : Int)

/-- What a pool error counter has counted since the last record, held at the largest value of a field of `n` bytes (the model's
choice, log entry 37). -/
def Hub.poolDelta (h : Hub) (i n : Nat) : List Byte :=
  leBytes n (min (h.poolErrors i - h.wear.corr.getD i 0).toNat (256 ^ n - 1))

/-- The 64 bytes of an hourly record that CHAIN covers, and the record (Table 14.18). -/
def Hub.wearRecord (h : Hub) : List Byte :=
  let w := h.wear
  let lcy := h.fld rLcyState 61 3 + 8 * h.fld rLcyState 59 2
  let body := fit 64 (leBytes 4 w.hours ++ [w.last.tjMax, w.last.tjMin] ++ fit 11 w.last.avsBands ++ [0]
    ++ leBytes 2 w.fomMin ++ leBytes 1 w.fomPort ++ leBytes 1 w.narrowed.length ++ [w.last.slackMin, 0]
    ++ h.poolDelta 0 4 ++ h.poolDelta 1 4 ++ h.poolDelta 2 2 ++ h.poolDelta 3 2
    ++ (w.events.map fun e => BitVec.ofNat 8 (min e 255)) ++ wordsBytes w.fatal ++ leBytes 1 lcy)
  body ++ fit 32 (Config.shake256 32 (w.chain ++ body)) ++ zeros 32

/-- The hub with a record appended to the ring of 32,768 (R395). -/
def Hub.wearAppend (h : Hub) (rec : List Byte) : Hub :=
  { h with wear := { h.wear with records := tput h.wear.records (h.wear.count % 32768) rec, count := h.wear.count + 1,
                                 chain := slice rec 64 32, events := [0, 0, 0, 0],
                                 fomMin := 1023, fomPort := 0, narrowed := [],
                                 corr := [h.poolErrors 0, h.poolErrors 1, h.poolErrors 2, h.poolErrors 3] } }

/-- The 64-byte fault-log entry (Table 14.7) as words. -/
def logEntry (time seq src cls : Nat) (chk : BitVec 16) (det : List Word) : List Word :=
  [BitVec.ofNat 64 time, BitVec.ofNat 64 (seq % 2 ^ 32 + src * 2 ^ 32 + cls * 2 ^ 40 + chk.toNat * 2 ^ 48)]
    ++ (det ++ [0, 0, 0, 0]).take 4 ++ [0, 0]

/-- PROD - CONS of the fault log. -/
def Hub.logUsed (h : Hub) : Nat := (h.fld rFltLog 32 32 + 2 ^ 32 - h.fld rFltLog 0 32) % 2 ^ 32

/-- Whether a CORRECTED event of a source bit falls within 10 ms of the last logged one (R374). -/
def Hub.rateLimited (h : Hub) (src : Nat) (c : FaultClass) : Bool :=
  decide (c = FaultClass.corrected) && decide (tget 0 h.plumb.lastCorr src ≠ 0) &&
    decide (h.now < tget 0 h.plumb.lastCorr src - 1 + 10000000)

/-- The value of FLT_FIRST for an event (Table 14.2). -/
def firstWord (logged : Bool) (cls src prod : Nat) (chk : BitVec 16) : Word :=
  BitVec.ofNat 64 (2 ^ 63 + bit01 (!logged) * 2 ^ 58 + cls * 2 ^ 56 + src * 2 ^ 48 + chk.toNat * 2 ^ 32 + prod)

/-- FLT_ERR_INJ is armed for a checker of the model's numbering (R379): the check bytes that it inverts, as its MASK. -/
def Hub.injected (h : Hub) (src site : Nat) : Nat :=
  if h.bit rFltInj 63 && decide (h.fld rFltInj 48 6 = src) && decide (BitVec.ofNat 16 (h.fld rFltInj 32 16) = Config.checker site)
  then h.fld rFltInj 0 4 else 0

/-- ARM cleared after a one-shot injection (Table 14.6). -/
def Hub.injectDone (h : Hub) (k : Nat) : Hub := if k ≠ 0 && !h.bit rFltInj 62 then h.setFld rFltInj 63 1 0 else h

/-- Latching and logging of an event (R372, R373, R380); an armed injection goes into the first word of the entry (R305). -/
def Hub.latch (h : Hub) (src : Nat) (c : FaultClass) (chk : BitVec 16) (det : List Word) : Hub :=
  let prod := h.fld rFltLog 32 32
  let full := decide (1024 ≤ h.logUsed)
  let logged := !full && !h.rateLimited src c
  let h := h.setFld rFltStatus src 1 1
  let h := if h.bit rFltFirst 63 then h.setFld rFltOvf 0 1 1
           else h.setReg rFltFirst (firstWord logged c.code src prod chk)
  if logged then
    let k := h.injected fltKrf 43
    let h := h.injectDone k
    let h := { h with plumb := { h.plumb with
      logBad := tset 0 h.plumb.logBad (prod % 1024) k,
      log := tput h.plumb.log (prod % 1024) (logEntry h.now prod src c.code chk det),
      lastCorr := if c = FaultClass.corrected then tput h.plumb.lastCorr src (h.now + 1) else h.plumb.lastCorr } }
    h.setFld rFltLog 32 32 (prod + 1)
  else if full && !h.rateLimited src c then
    h.setFld rFltDropped (16 * c.code) 16 (min (h.fld rFltDropped (16 * c.code) 16 + 1) 65535)
  else h

/-- A word of a function's MSI-X table; a vector is masked until software unmasks it (PRESUMED, PCIe; log entry 13). -/
def Func.vector (x : Func) (k : Nat) : Word := tget (if k % 2 = 1 then 0x100000000#64 else 0) x.vectors k
/-- A vector may send: MSI-X and bus mastering are on, and neither mask holds it (R334, R378). -/
def Func.fires (x : Func) (v : Nat) : Bool := x.msixOn && x.master && !x.maskAll && !bitAt (x.vector (2 * v + 1)) 32

/-- An MSI-X vector of a function: its message where it may send, else its pending bit (R334, R378). -/
def Hub.msix (h : Hub) (f v : Nat) : Hub :=
  let fn := tget {} h.host.funcs f
  if fn.fires v then { h with host := { h.host with sentMsgs := h.host.sentMsgs ++ [.msix f v] } }
  else { h with host := { h.host with funcs := tset {} h.host.funcs f { fn with pending := fn.pending ||| 2 ^ v } } }

/-- The pending vectors of a function that may send now each send one message (R334). -/
def Hub.msixSend (h : Hub) (f : Nat) : Hub :=
  (List.range 32).foldl (fun h v =>
    let fn := tget {} h.host.funcs f
    if fn.pending.testBit v && fn.fires v then
      { h with host := { h.host with funcs := tset {} h.host.funcs f { fn with pending := fn.pending - 2 ^ v },
                                     sentMsgs := h.host.sentMsgs ++ [.msix f v] } }
    else h) h

/-- The reaction to PLANE_FATAL (R375): forwarding, bays, sawpits and sill stop, and tokens announce FATAL with WEIGHT 0. -/
def Hub.planeFatal (h : Hub) : Hub :=
  let h := { h with plumb := { h.plumb with fatal := max h.plumb.fatal 1 } }
  let h := h.setFld rSndStat 48 8 0
  h.setFld rSndStat 4 1 1

/-- Every key slot and link key zeroised, every link down (R376). A port in OFF stays there. -/
def Hub.zeroise (h : Hub) : Hub :=
  let h := { h with plumb := { h.plumb with fatal := 2 }, sec := { h.sec with keys := [] } }
  let h := (List.range 64).foldl (fun h n => h.setReg (rKslot n) 0) h
  (List.range 86).foldl (fun h p =>
    let q := tget {} h.links.ports p
    let h := { h with links := { h.links with
      ports := tset {} h.links.ports p { q with tx := {}, rx := {}, hello := {}, unacked := [], sealing := false } } }
    if h.fld (rPstat p) 60 4 = lkOff then h else (h.setFld (rPstat p) 60 4 lkDown).setFld (rPstat p) 0 16 0) h

/-- A fatal event's record in the wear log (R395); the wright must still run, so before start-up's step 4, and after an event of WRT
or AON, none is written. -/
def Hub.wearFatal (h : Hub) (src : Nat) : Hub :=
  let h := { h with wear := { h.wear with fatal := [h.reg rFltFirst, h.reg rFltStatus] } }
  if src = fltWrt ∨ src = fltAon ∨ h.wrightRuns = false then h else h.wearAppend h.wearRecord

/-- The reaction of an event's class (Table 14.4). -/
def Hub.react (h : Hub) (src : Nat) (c : FaultClass) : Hub :=
  if c = .corrected then h
  else
    let h := { h with plumb := { h.plumb with pulse := some (h.now + 10000) },
                      wear := { h.wear with events := h.wear.events.set (c.code - 1) (h.wear.events.getD (c.code - 1) 0 + 1) } }
    let h := (h.msix 0 0).msix 16 0
    if c = .contained then h
    else
      let h := if h.bit rFltPin 1 then h.setFld rFltPin 0 1 1 else h
      let h := h.planeFatal
      let h := if c = .deviceFatal then h.zeroise else h
      h.wearFatal src

/-- An event of the plumb (R372 to R378): latched, logged, and its class's reaction applied. -/
def Hub.fault (h : Hub) (src : Nat) (c : FaultClass) (chk : BitVec 16) (det : List Word) : Hub :=
  (h.latch src c chk det).react src c

/-- An event of a checker of the model's own numbering (log entry 12): the spec lists no checker numbers or detail words. -/
def Hub.report (h : Hub) (src : Nat) (c : FaultClass) (site : Nat) : Hub :=
  h.fault src c (Config.checker site) [Config.detail site 0, Config.detail site 1, Config.detail site 2, Config.detail site 3]

/-- A CONTAINED event of one of the hub's own internal checkers, which S_P counts (R384). -/
def Hub.reportInternal (h : Hub) (src : Nat) (site : Nat) : Hub :=
  let h := h.report src .contained site
  { h with plumb := { h.plumb with internal := h.now :: h.plumb.internal.filter fun t => decide (h.now < t + 10000000) } }

/-! ### Partitions (chapter 13) -/

/-- A word of a partition's record; zero where the partition has none. -/
def Hub.partWord (h : Hub) (p w : Nat) : Word := (tget [] h.sec.parts p).getD w 0
/-- STATE of a partition (Table 13.4). -/
def Hub.partState (h : Hub) (p : Nat) : Nat := h.fld (rPartStat p) 61 3
/-- A partition has a record at this hub and is not FREE (R345). -/
def Hub.partHere (h : Hub) (p : Nat) : Bool := decide (h.partState p ≠ ptFree)
/-- The write epoch of a partition. -/
def Hub.wepoch (h : Hub) (p : Nat) : Bool := h.bit (rPartStat p) 60
/-- A partition owns a joist port. -/
def Hub.ownsJoist (h : Hub) (p j : Nat) : Bool :=
  h.partHere p && (if j < 64 then bitAt (h.partWord p 1) j else bitAt (h.partWord p 2) (j - 64))
/-- A partition may use a rafter port. -/
def Hub.mayRafter (h : Hub) (p x : Nat) : Bool := h.partHere p && bitAt (h.partWord p 2) (8 + x)
/-- A node is in the destination set of a partition. -/
def Hub.inDset (h : Hub) (p : Nat) (n : Node) : Bool :=
  h.partHere p && bitAt (h.partWord p (16 + n.toNat / 64)) (n.toNat % 64)
/-- The partition that a function belongs to. -/
def Hub.funcPart (h : Hub) (f : Nat) : Option Nat :=
  (List.range 16).find? fun p => h.partHere p && decide (f < 32) && bitAt (h.partWord p 3) f
/-- The partition that a bay belongs to. -/
def Hub.bayPart (h : Hub) (b : Nat) : Option Nat := (List.range 16).find? fun p => h.partHere p && bitAt (h.partWord p 4) b
/-- The partition that a peg belongs to; none for a system peg (R84). -/
def Hub.pegPart (h : Hub) (n : Nat) : Option Nat :=
  (List.range 16).find? fun p => h.partHere p && decide (bitsGet (h.partWord p 6) 0 12 ≤ n) &&
    decide (n < bitsGet (h.partWord p 6) 0 12 + bitsGet (h.partWord p 6) 16 13)
/-- The partition that a mortise belongs to; none for the system's. -/
def Hub.mtsPart (h : Hub) (n : Nat) : Option Nat :=
  (List.range 16).find? fun p => h.partHere p && decide (bitsGet (h.partWord p 6) 32 8 ≤ n) &&
    decide (n < bitsGet (h.partWord p 6) 32 8 + bitsGet (h.partWord p 6) 40 9)

/-- The function whose operation an identity names; 0 where it names none. -/
def Hub.opFunc (h : Hub) (id : Nat) : Nat := ((h.host.ops.find? fun o => decide (o.id = id)).map (·.func)).getD 0

/-- The partition of a function's agents: none, the system, for a PF; for a VF its partition, or 16, which is none of the sixteen, while
it has none: it is no system agent (R346). -/
def Hub.vfPart (h : Hub) (f : Nat) : Option Nat := if isPf f then none else some ((h.funcPart f).getD 16)

/-- The partition of an agent of this hub; none for a system agent (R72, R346, R349). -/
def Hub.agentPart (h : Hub) : Agent → Option Nat
  | .thread b t => if h.bit (rTctl b t) 61 then none else h.bayPart b
  | .queue b e q => if h.bit (rQcfgBay b e q) 62 then none else h.bayPart b
  | .aperture f => h.vfPart f
  | .ring f => h.vfPart f
  | .statusWriter f => h.vfPart f
  | .trigger n => h.pegPart n
  | .raiseCommit c => some (tget {} h.coll.slots c).desc.part
  | .member (.queue b q) => if h.bit (rQcfgBay b 3 q) 62 then none else h.bayPart b
  | .member (.ring id) => h.vfPart (h.opFunc id)
  | _ => none

/-- The node an agent issues for (R73). -/
def Hub.agentNode (h : Hub) : Agent → Node
  | .aperture f => h.funcNode f
  | .ring f => h.funcNode f
  | .member (.ring id) => h.funcNode (h.opFunc id)
  | _ => h.self

/-- A packet with the partition, key slot and epoch of a hub-local source (R349): slot 32 with KEP 0 for the system. A VF that has no
partition sends with PART 0 and no system slot, and is denied at injection (log entry 37). -/
def Hub.stamp (h : Hub) (part : Option Nat) (p : Packet) : Packet :=
  match part with
  | none => { p with part := 0, kslot := 32, kep := false }
  | some n => if 16 ≤ n then { p with part := 0, kslot := 0, kep := false } else
    { p with part := BitVec.ofNat 4 n, kslot := BitVec.ofNat 6 (2 * n + bit01 (h.wepoch n)), kep := h.wepoch n }

/-! ### Local sources and request tags (R49, R54, R72, R108) -/

/-- Where the packets of a node of this hub enter (R108). -/
def Hub.ingressOf (h : Hub) (n : Node) : Ingress :=
  if n = h.self then .inner
  else match h.funcOf n with
    | some f => if f < 16 then .host 0 else .host 1
    | none => .inner

/-- A packet injected by a local source, a discard of it counted at `blame` where that is given: PH, GH as R72 and R41 set them, REP
the current epoch (R106). The sources of one ingress share one buffer per channel (DESIGN CHOICE, log entry 37). -/
def Hub.injectFor (h : Hub) (blame : Option Ingress) (ing : Ingress) (p : Packet) : Hub :=
  let p := { p with rep := h.epoch, ph := false, gh := false }
  { h with swc := { h.swc with
      rx := h.swc.rx ++ [{ pid := h.swc.nextPid, ing := ing, vc := p.chan, at_ := h.now, pkt := p, blame := blame }],
      nextPid := h.swc.nextPid + 1 } }

/-- A packet injected by a local source. -/
def Hub.injectAt (h : Hub) (ing : Ingress) (p : Packet) : Hub := h.injectFor none ing p

/-- A packet injected by a node of this hub. -/
def Hub.inject (h : Hub) (p : Packet) : Hub := h.injectAt (h.ingressOf p.src) p

/-- A request tag is free in the pool of a node (R49, R55). -/
def Hub.tagFree (h : Hub) (n : Node) (t : Nat) : Bool :=
  !(h.sill.out.any fun o => decide (o.node = n) && decide (o.tag = t)) &&
  !(h.sill.quar.any fun q => decide (q.node = n) && decide (q.tag = t))

/-- The lowest free tag from `t` on, of `fuel` tags. -/
def Hub.tagFrom (h : Hub) (n : Node) : Nat → Nat → Option Nat
  | 0, _ => none
  | k + 1, t => if h.tagFree n t then some t else h.tagFrom n k (t + 1)

/-- A tag of the pool 0x001 to 0xEFF of a node, if one is free (R72). -/
def Hub.drawTag (h : Hub) (n : Node) : Option Nat := h.tagFrom n 3839 1

/-- The request timeout in force (R54, R462). -/
def Hub.reqTimeout (h : Hub) : Nat := clampNat (h.fld rReqTimeout 0 34) 10000 10000000000
/-- The fence timeout in force (Table 3.8). -/
def Hub.fenceTimeout (h : Hub) : Nat := clampNat (h.fld rFenceTimeout 0 34) 10000 10000000000

/-- An engine of a bay has as many tagged requests outstanding as it may (R240, R241), or the bays' share of the hub's tags is
used up (R240). -/
def Hub.atLimit (h : Hub) (a : Agent) : Bool :=
  let bays := (h.sill.out.filter fun o => match o.agent with
    | .queue _ _ _ => true
    | .thread _ _ => true
    | _ => false).length
  match a with
  | .queue b e _ =>
    let mine := (h.sill.out.filter fun o => match o.agent with
      | .queue b' e' _ => decide (b' = b) && decide (e' = e)
      | _ => false).length
    decide ((if h.bit (rBayMode b) 1 then 256 else 16) ≤ mine) || decide (3584 ≤ bays)
  | .thread _ _ => decide (3584 ≤ bays)
  | _ => false

/-- Issue a tagged request: draw a tag, give it the key slot and epoch of this moment (R349), remember the request, inject the packet.
Nothing where the pool is empty: the agent waits (R72). -/
def Hub.issue (h : Hub) (a : Agent) (p : Packet) (c : Cont) : Option Hub :=
  match (if h.atLimit a then none else h.drawTag p.src) with
  | none => none
  | some t =>
    let p := h.stamp (h.agentPart a) p
    let p := Packet.sealChk ({ p with tag := BitVec.ofNat 12 t } : Packet)
    let o : Outstanding :=
      { node := p.src, tag := t, agent := a, pkt := p, deadline := h.now + h.reqTimeout, epoch := h.epoch, cont := c }
    let h : Hub := { h with sill := { h.sill with out := h.sill.out ++ [o] } }
    some (h.inject p)

/-- The low byte of an agent's posted tag (R72, R73). -/
def postedLow : Agent → Nat
  | .thread b _ => 4 * b + 2
  | .queue b e _ => 4 * b + e
  | .aperture _ => 0
  | .ring _ => 1
  | _ => 0xFF

/-- The hub with the dirty bit of an agent and destination set (R95); the oldest epoch is kept. -/
def Hub.setDirty (h : Hub) (a : Agent) (d : Node) : Hub :=
  if h.sill.dirty.any fun x => decide (x.agent = a) && decide (x.dst = d) then h
  else { h with sill := { h.sill with dirty := h.sill.dirty ++ [{ agent := a, dst := d, epoch := h.epoch }] } }

/-- Send a posted write (R50, R53): the dirty bit of the agent and its destination is set. -/
def Hub.postNow (h : Hub) (a : Agent) (p : Packet) : Hub :=
  let p := Packet.sealChk ({ h.stamp (h.agentPart a) p with tag := BitVec.ofNat 12 (0xF00 + postedLow a) } : Packet)
  (h.setDirty a p.dst).inject p

/-- An agent waits for a tag (R72): it has a request in the backlog. -/
def Hub.waitsTag (h : Hub) (a : Agent) : Bool := h.sill.backlog.any fun x => decide (x.1 = a)

/-- A request put behind those that wait for a tag. -/
def Hub.park (h : Hub) (a : Agent) (p : Packet) (c : Cont) : Hub :=
  { h with sill := { h.sill with backlog := h.sill.backlog ++ [(a, p, c)] } }

/-- Issue a tagged request; where the pool is empty, or an earlier request of the agent waits, it waits for a tag, with no error
(R72). -/
def Hub.issueD (h : Hub) (a : Agent) (p : Packet) (c : Cont) : Hub :=
  if h.waitsTag a then h.park a p c
  else match h.issue a p c with
    | some h => h
    | none => h.park a p c

/-- Issue a posted write; behind a request of the agent that waits for a tag it waits too, so that the agent's order holds
(R72). -/
def Hub.post (h : Hub) (a : Agent) (p : Packet) : Hub := if h.waitsTag a then h.park a p .posted else h.postNow a p

/-- A waiting request may go out: no earlier one of its agent waits, and it is posted, or its agent is below its limit and its node
has a free tag (R72, R240). -/
def Hub.mayIssueReq (h : Hub) (x : Agent × Packet × Cont) : Bool :=
  decide ((h.sill.backlog.find? fun y => decide (y.1 = x.1)) = some x) &&
    (decide (x.2.2 = .posted) || (!h.atLimit x.1 && (h.drawTag x.2.1.src).isSome))

/-- The waiting requests that may go out go out, oldest first (R72); `fuel` bounds their number. -/
def Hub.issueFrom (h : Hub) : Nat → Hub
  | 0 => h
  | n + 1 =>
    match h.sill.backlog.find? h.mayIssueReq with
    | none => h
    | some x =>
      let g : Hub := { h with sill := { h.sill with backlog := h.sill.backlog.erase x } }
      if x.2.2 = .posted then (g.postNow x.1 x.2.1).issueFrom n
      else match g.issue x.1 x.2.1 x.2.2 with
        | some g => g.issueFrom n
        | none => h

/-- The waiting requests that may go out go out (R72). -/
def Hub.issueWaiting (h : Hub) : Hub := h.issueFrom h.sill.backlog.length

/-- A request of an agent of this hub to a fabric address, before its tag and payload. -/
def Hub.request (h : Hub) (a : Agent) (fa : Nat) (opc md : BitVec 4) : Packet :=
  h.stamp (h.agentPart a) { src := h.agentNode a, dst := faNode fa, opc := opc, md := md, loc := BitVec.ofNat 52 fa }

/-- Count a discard at an ingress (R108): SWC_PORT_ERR of the ingress index, or SIL_DISCARD for a source without one. -/
def Hub.countDiscard (h : Hub) : Ingress → Hub
  | .port p => h.count (rPortErr p.val)
  | .host n => h.count (rPortErr (86 + n.val))
  | .inner => h.count rSilDiscard

end Sys2Proof.Machine
end

