-- ==== Sys2Proof/Machine/Memory.lean ====
section
/-! DEFINITION. Memory of the hub's own node (R29, R30, chapter 11): the offset map, interleaving, the two-symbol code's
outcomes, the page map, and the memory commands. -/
namespace Sys2Proof.Machine

/-! ### The offset map (Tables 1.5 and 11.2) -/

/-- The windows of the hub's own node (Table 1.5). -/
inductive Window where
  | hbm | lp | loft | peg | mortise | none
  deriving DecidableEq, Repr

/-- The window of an offset. -/
def windowOf (o : Nat) : Window :=
  if o < 0x4000000000 then .hbm
  else if o < 0xC000000000 then .lp
  else if 0x10000000000 ≤ o ∧ o < 0x10010000000 then .loft
  else if 0x10100000000 ≤ o ∧ o < 0x10100100000 then .peg
  else if 0x10200000000 ≤ o ∧ o < 0x10200010000 then .mortise
  else .none

/-- The first offset of the LPDDR5X window. -/
def lpBase : Nat := 0x4000000000
/-- The first offset of the lofts. -/
def loftBase : Nat := 0x10000000000
/-- The offset of a byte of a bay's loft. -/
def loftOff (b a : Nat) : Nat := loftBase + b * 0x400000 + a

/-- The HBM3E extent in bytes (R296). -/
def Hub.hbmExtent (h : Hub) : Nat := h.fld rMemTop 0 23 * 32768
/-- The fabric-visible HBM3E memory: below the slow kerfs (R297). -/
def Hub.hbmVisible (h : Hub) : Nat := h.hbmExtent - h.fld rKrfCfg 0 21 * 16384
/-- The LPDDR5X extent in bytes. -/
def Hub.lpExtent (h : Hub) : Nat := h.fld rMemTop 32 26 * 8192

/-- A bay lies on the West die, by the column of its station (R103, Table 16.9). -/
def bayWest (b : Nat) : Bool := decide ((attachWord (120 + b)).toNat % 16 ≤ 5)
/-- A bay's domain is on. -/
def Hub.bayDomain (h : Hub) (b : Nat) : Bool :=
  (h.domainOn 4 && h.domainOn 5) || (if bayWest b then h.domainOn 4 else h.domainOn 5)
/-- A bay is enabled: its clock runs and its domain is on (R30, R445, R448). -/
def Hub.bayOn (h : Hub) (b : Nat) : Bool := bitAt (h.reg rClkBay) b && h.bayDomain b

/-- Whether every SD domain that holds a lane of a port is on (R397). -/
def Hub.portPowered (h : Hub) (p : Nat) : Bool := h.domainOn (12 + 8 * p / 86) && h.domainOn (12 + (8 * p + 7) / 86)
/-- A host port answers its host: PCIE is on and the port clocked (R441, R448). -/
def Hub.hostOn (h : Hub) (p : Nat) : Bool := h.domainOn 11 && (h.bit rClkBlk (16 + p) || h.inRecovery)

/-- The register at an offset answers: its domain is on and its page is clocked (R445, R448, R457, R465). -/
def Hub.regLive (h : Hub) (o : Nat) : Bool :=
  if o < 0x30000 then true
  else if o < 0x40000 then h.domainOn 6
  else if o < 0x60000 then true
  else if o < 0x100000 then h.domainOn 2
  else if o < 0x300000 then h.domainOn 2 && h.domainOn 3
  else if o < 0x410000 then h.domainOn 6 && h.domainOn 7
  else if o < 0x500000 then h.domainOn 8 && h.domainOn 9
  else if o < 0x600000 then h.domainOn 2 && h.domainOn 3
  else if o < 0x640000 then h.bayOn ((o - 0x600000) / 0x1000)
  else if o < 0x720000 then h.hostOn ((o - 0x700000) / 0x10000)
  else if o < 0x1000000 then h.domainOn 2
  else if o < 0x1010000 then h.portPowered ((o - 0x1000000) / 0x100)
  else if o < 0x1020000 then h.portPowered ((o - 0x1010000) / 0x80)
  else h.portPowered (78 + (o - 0x1020000) / 8)

/-- The lanes of a register that an access names: none for a width or alignment that R6 refuses. -/
def Half.named : Half → Bool
  | .other => false
  | _ => true

/-- A register write takes effect where its register answers and its width is one of R6. -/
def Hub.writeAt (h : Hub) (o : Nat) (a : Access) (f : Hub → Hub) : Hub := if a.half.named && h.regLive o then f h else h

/-- Whether `len` bytes from an offset of a memory window have a target (R30). -/
def Hub.memThere (h : Hub) (o len : Nat) : Bool :=
  match windowOf o with
  | .hbm => decide (o + len ≤ h.hbmVisible)
  | .lp => decide (o + len ≤ lpBase + h.lpExtent) && h.domainOn 10
  | .loft => h.bayOn ((o - loftBase) / 0x400000) && decide (o + len ≤ 0x10010000000)
  | _ => false

/-! ### Interleaving (R298, R299) -/

/-- The pseudo-channel of an HBM3E offset (R298): stack in [6:5], pseudo-channel of the stack in [4:0]. -/
def hbmChannel (o : Nat) : Nat := let g := o >>> 8; (g ^^^ (g >>> 7) ^^^ (g >>> 14)) % 128
/-- The byte address within the pseudo-channel (R298). -/
def hbmDev (o : Nat) : Nat := ((o >>> 8) >>> 7) * 256 + o % 256
/-- The channel of an LPDDR5X offset from the window's base (R299): package in [4:2], channel in [1:0]. -/
def lpChannel (r : Nat) : Nat := let g := r >>> 8; (g ^^^ (g >>> 5) ^^^ (g >>> 10)) % 32
/-- The device address of the data (R299). -/
def lpDataDev (r : Nat) : Nat :=
  let d := (r >>> 8) >>> 5; (9 * (d / 8) + d % 8) * 256 + r % 256
/-- The device address of the check bytes of a word (R299). -/
def lpCheckDev (r : Nat) : Nat :=
  let d := (r >>> 8) >>> 5; (9 * (d / 8) + 8) * 256 + 32 * (d % 8) + 4 * (r % 256 / 32)

/-! ### Words as stored (R300, R354) -/

/-- A, the address index of a word (R300): its byte address within its pseudo-channel, its channel or its bay's loft, by 32. -/
def wordIndex (o : Nat) : Nat :=
  match windowOf o with
  | .hbm => hbmDev o / 32
  | .lp => lpDataDev (o - lpBase) / 32
  | _ => (o - loftBase) % 0x400000 / 32

/-- The tweak of a pool word (R354). -/
def wordTweak (o : Nat) : Nat := if o < lpBase then o / 32 else 2 ^ 127 + (o - lpBase) / 32

/-! ### Regions and the page map (R355, Table 13.2) -/

/-- First offset and length of a region word of a partition record. -/
def regionSpan (w : Word) : Nat × Nat :=
  ((if bitAt w 62 then lpBase else 0) + bitsGet w 0 18 * 0x200000, bitsGet w 40 22 * 0x200000)

/-- The valid regions of a partition. -/
def Hub.regions (h : Hub) (p : Nat) : List (Nat × Nat) :=
  ((List.range 8).filter fun i => bitAt (h.partWord p (8 + i)) 63).map fun i => regionSpan (h.partWord p (8 + i))

/-- A range lies within one region of a partition. -/
def Hub.inRegions (h : Hub) (p o len : Nat) : Bool :=
  h.partHere p && (h.regions p).any fun r => decide (r.1 ≤ o) && decide (o + len ≤ r.1 + r.2)

/-- The partition whose region holds an offset; none for the system's (R486). -/
def Hub.regionPart (h : Hub) (o : Nat) : Option Nat := (List.range 16).find? fun p => h.inRegions p o 1

/-- The page-map mark of the write epoch of an offset's owner. -/
def Hub.pageMark (h : Hub) (o : Nat) : Nat :=
  match h.regionPart o with
  | none => 1
  | some p => 1 + bit01 (h.wepoch p)

/-- The pages that a range touches, marked with the write epoch of their owner (R355). -/
def Hub.fillPages (h : Hub) (o len : Nat) : Hub :=
  if o < 0xC000000000 ∧ len ≠ 0 then
    (List.range ((o + len - 1) / 65536 + 1 - o / 65536)).foldl (fun h i =>
      let pg := o / 65536 + i
      { h with sec := { h.sec with pages := tset 0 h.sec.pages pg (h.pageMark (pg * 65536)) } }) h
  else h

/-- Every page of a range CLEAR: its bytes read zero and its words are good (R309, R355). -/
def Hub.clearRange (h : Hub) (o len : Nat) : Hub :=
  { h with mem := { h.mem with cells := h.mem.cells.filter fun c => !(decide (o ≤ c.1) && decide (c.1 < o + len)),
                               marks := h.mem.marks.filter fun m => !(decide (o ≤ m.1 * 32) && decide (m.1 * 32 < o + len)) },
           sec := { h.sec with pages := h.sec.pages.filter fun g => !(decide (o ≤ g.1 * 65536) && decide (g.1 * 65536 < o + len)) } }

/-- The canonical form of memory: bytes in address order, none that reads as an unlisted byte does, and so its marked words. -/
def Memory.wf (m : Mem) : Bool := twf 0 m.cells && twf 0 m.marks

/-! ### Reads and writes with the code's outcomes (R301 to R304, R216) -/

/-- The plumb bit of a memory word (Table 14.1). -/
def memBit (o : Nat) : Nat :=
  match windowOf o with
  | .hbm => fltHbm (hbmChannel o / 32)
  | .lp => fltLpd
  | _ => fltBay ((o - loftBase) / 0x400000)

/-- MEM_UNC_ADDR after an uncorrectable word (Table 11.3). -/
def Hub.latchUnc (h : Hub) (o : Nat) (scrub : Bool) : Hub :=
  if h.bit rMemUnc 63 then h.setFld rMemUnc 62 1 1
  else
    let lp := decide (lpBase ≤ o)
    h.setReg rMemUnc (BitVec.ofNat 64 (2 ^ 63 + bit01 scrub * 2 ^ 61 + bit01 lp * 2 ^ 60
      + ((if lp then o - lpBase else o) / 32 * 32) % 2 ^ 39))

/-- A word is read that was stored with the check bytes of mask `k` inverted (R302, R303, R216): what the decoder mends is written back,
what it does not stays. -/
def Hub.readMark (h : Hub) (scrub : Bool) (w k : Nat) : Hub :=
  let o := w * 32
  let loft := decide (windowOf o = .loft)
  let tier := bit01 (decide (lpBase ≤ o))
  let bay := (o - loftBase) / 0x400000
  if codeMends k then
    let h := { h with mem := { h.mem with marks := tset 0 h.mem.marks w 0 } }
    let h := h.count (if loft then rLoftCorr bay else rMemCorr tier)
    h.report (memBit o) .corrected 1
  else
    let h := h.count (if loft then rLoftUnc bay else rMemUncCnt tier)
    let h := if loft then h else h.latchUnc o scrub
    h.reportInternal (memBit o) 2

/-- The marked words of a byte range. -/
def Hub.marksIn (h : Hub) (o len : Nat) : List (Nat × Nat) :=
  h.mem.marks.filter fun m => decide (o / 32 ≤ m.1) && decide (m.1 * 32 < o + len)

/-- The bytes of a range as stored. -/
def Hub.bytes (h : Hub) (o len : Nat) : List Byte := tgetRun 0 h.mem.cells o len

/-- A read of a range: none where a word is uncorrectable (R76), and the hub after the decoder's events. -/
def Hub.memRead (h : Hub) (o len : Nat) : Option (List Byte) × Hub :=
  let ms := h.marksIn o len
  (if ms.any fun m => !codeMends m.2 then none else some (h.bytes o len),
   ms.foldl (fun h m => h.readMark false m.1 m.2) h)

/-- The 32 data bytes of a pool or loft word as stored (R354, R355): a loft word in clear; a pool word as the wipe left it while its page
is CLEAR, and else as ciphertext under the slot of its owner and of its page's epoch. -/
def Hub.storedData (h : Hub) (o : Nat) : List Byte :=
  match (if windowOf o = .loft then 0 else tget 0 h.sec.pages (o / 65536)) with
  | 0 => h.bytes o 32
  | e + 1 => Config.xts (match h.regionPart o with | none => 32 + e | some p => 2 * p + e) (wordTweak o) (h.bytes o 32)

/-- A word as stored, 36 bytes (R300, R379): its data bytes and its check bytes, those of its mark inverted. -/
def Hub.storedWord (h : Hub) (o : Nat) : List Byte :=
  List.zipWith (· ^^^ ·) (h.storedData o ++ rsCheck (wordIndex o) (h.storedData o)) (maskError (tget 0 h.mem.marks (o / 32)))

/-- Words written whole or in part: their marks cleared, and an armed injection stored in the first (R303, R379). -/
def Hub.wordsPut (h : Hub) (o len : Nat) : Hub :=
  let k := h.injected (memBit o) 1
  let marks := h.mem.marks.filter fun m => !(decide (o / 32 ≤ m.1) && decide (m.1 * 32 < o + len))
  ({ h with mem := { h.mem with marks := if k = 0 then marks else tset 0 marks (o / 32) k } } : Hub).injectDone k

/-- A write performed: bytes stored, marks of covered words cleared, injected marks set, pages marked. -/
def Hub.memPut (h : Hub) (o : Nat) (bs : List Byte) : Hub :=
  let h := (h.fillPages o bs.length).wordsPut o bs.length
  { h with mem := { h.mem with cells := tsetRun 0 h.mem.cells o bs } }

/-- A write of a range (R303): none where it covers part of an uncorrectable word, and then nothing is written. -/
def Hub.memWrite (h : Hub) (o : Nat) (bs : List Byte) : Option Hub × Hub :=
  let ms := h.marksIn o bs.length
  let partly := ms.filter fun m => decide (m.1 * 32 < o) || decide (o + bs.length < m.1 * 32 + 32)
  let h := partly.foldl (fun h m => h.readMark false m.1 m.2) h
  (if partly.any fun m => !codeMends m.2 then none else some (h.memPut o bs), h)

/-! ### Memory commands -/

/-- The 32-byte words of a tier's devices (Table 11.1): 144 GB, and 512 GB with the check units. -/
def tierWords (lp : Bool) : Nat := if lp then 16000000000 else 4500000000

/-- The word under the scrubber read, with its mark; the words of the devices outside the window never bear one. -/
def Hub.scrubWord (h : Hub) (w k : Nat) (there : Bool) : Hub := if there && decide (k ≠ 0) then h.readMark true w k else h

/-- The scrubber of a tier moved to its next word; at the end of the tier a pass is counted. -/
def Hub.scrubNext (h : Hub) (t next : Nat) (pass : Bool) : Hub :=
  let h := { h with mem := { h.mem with scrub := tset 0 h.mem.scrub t next } }
  if pass then h.count rScrubPass else h

/-- SCRUB_READ (R307): the next word of a tier is read, those of the window in the order of their offsets and then every other word of
the devices; at the end of the devices a pass is counted. An absent tier has none. -/
def Hub.scrub (h : Hub) (lp : Bool) : Hub :=
  if h.bit rMemScrub 63 then
    let t := bit01 lp
    let pos := tget 0 h.mem.scrub t
    let words := (if lp then h.lpExtent else h.hbmExtent) / 32
    let w := (if lp then lpBase / 32 else 0) + pos
    let last := decide (words = 0) || decide (tierWords lp ≤ pos + 1)
    (h.scrubWord w (tget 0 h.mem.marks w) (decide (pos < words))).scrubNext t (if last then 0 else pos + 1) (last && decide (words ≠ 0))
  else h

/-- SCRUB_READ. -/
def execScrubRead (lp : Bool) (s : State) : Host.Outcome State Fault Refusal := onHub (fun h => h.scrub lp) s

/-- MEMORY_RETRAIN (R308): invisible but for a pause below 1 µs. -/
def execMemoryRetrain (_lp : Bool) (_ctl : Fin 64) (s : State) : Host.Outcome State Fault Refusal := onHub (fun h => h) s

end Sys2Proof.Machine
end

