-- ==== Sys2Proof/Machine/Pegs.lean ====
section
/-! DEFINITION. Threads' registers, the remote read cache, and the peg unit (R84 to R93, R244, R263). -/
namespace Sys2Proof.Machine

/-! ### Threads and queues -/

/-- A thread of a bay. -/
def Hub.thread (h : Hub) (b t : Nat) : Thread := tget {} h.bays.threads (16 * b + t)
/-- The hub with a thread of a bay set. -/
def Hub.setThread (h : Hub) (b t : Nat) (x : Thread) : Hub :=
  { h with bays := { h.bays with threads := tset {} h.bays.threads (16 * b + t) x } }
/-- A command queue of a bay. -/
def Hub.queue (h : Hub) (b e q : Nat) : EQueue := tget {} h.bays.queues (16 * b + 4 * e + q)
/-- The hub with a command queue of a bay set. -/
def Hub.setQueue (h : Hub) (b e q : Nat) (x : EQueue) : Hub :=
  { h with bays := { h.bays with queues := tset {} h.bays.queues (16 * b + 4 * e + q) x } }

/-- A general register; g0 reads as zero (R244). -/
def Thread.g (x : Thread) (r : Nat) : Word := if r = 0 then 0 else tget 0 x.regs r
/-- A thread with a general register written; a write of g0 is ignored (R244). -/
def Thread.setG (x : Thread) (r : Nat) (v : Word) : Thread := if r = 0 then x else { x with regs := tset 0 x.regs r v }
/-- A predicate; p0 reads as one (R244). -/
def Thread.p (x : Thread) (i : Nat) : Bool := decide (i = 0) || x.preds.testBit i
/-- A thread with a predicate written; a write of p0 is ignored (R244). -/
def Thread.setP (x : Thread) (i : Nat) (v : Bool) : Thread :=
  if i = 0 then x
  else { x with preds := if v then x.preds ||| 2 ^ i else x.preds - (if x.preds.testBit i then 2 ^ i else 0) }

/-- The address-space tag of a Scribe context. -/
def Hub.ctxTag (h : Hub) (ctx : Nat) : Nat := h.fld (rCtxCfg ctx) 0 16
/-- The address-space tag of an agent (Table 3.6). -/
def Hub.agentTag (h : Hub) : Agent → Nat
  | .thread b t => h.ctxTag (h.fld (rTctl b t) 40 8)
  | .queue b e q => h.ctxTag (h.fld (rQcfgBay b e q) 48 8)
  | _ => 0
/-- The bay of an agent. -/
def agentBay : Agent → Option Nat
  | .thread b _ => some b
  | .queue b _ _ => some b
  | _ => none

/-! ### The remote read cache (R92 to R94) -/

/-- The lines of a bay. -/
def Hub.lines (h : Hub) (b : Nat) : List CacheLine := tget [] h.bays.caches b

/-- Invalidation of the lines that a test picks, and of the fills in flight for them (R93, R94). -/
def Hub.invalidate (h : Hub) (b : Nat) (pick : Nat → Nat → Bool) : Hub :=
  let mine (r : Reader) : Bool := match r with
    | .queue b' _ _ => decide (b' = b)
    | _ => false
  let dead (f : Fetch) : Bool := match f.fill with
    | some t => pick f.fa t
    | none => false
  let works := h.sill.works.map fun w =>
    if mine w.key then { w with got := w.got.map fun f => if dead f then { f with fill := none } else f } else w
  let h : Hub := { h with sill := { h.sill with works := works }, bays := { h.bays with
    caches := tset [] h.bays.caches b ((h.lines b).filter fun l => !pick l.fa l.tag),
    threads := h.bays.threads.map fun x =>
      if x.1 / 16 = b then
        match x.2.wait with
        | .load rd sz sx acq q fa tag _ =>
          if pick (fa / 64 * 64) tag then (x.1, { x.2 with wait := .load rd sz sx acq q fa tag false }) else x
        | _ => x
      else x } }
  h

/-- Every line of a bay with an address-space tag. -/
def Hub.invalidateTag (h : Hub) (b tag : Nat) : Hub := h.invalidate b fun _ t => decide (t = tag)
/-- The line of a bay that holds an address, under every tag (a store, Table 3.6). -/
def Hub.invalidateLine (h : Hub) (b fa : Nat) : Hub := h.invalidate b fun l _ => decide (l = fa / 64 * 64)
/-- An acquire by an agent: every line with its tag in its bay (Table 3.6). -/
def Hub.acquire (h : Hub) (a : Agent) : Hub :=
  match agentBay a with
  | some b => h.invalidateTag b (h.agentTag a)
  | none => h

/-! ### Pegs -/

/-- The words of a peg. -/
def Hub.peg (h : Hub) (n : Nat) : Peg := tget {} h.pegs.words n
/-- The hub with the words of a peg set. -/
def Hub.setPeg (h : Hub) (n : Nat) (p : Peg) : Hub := { h with pegs := { h.pegs with words := tset {} h.pegs.words n p } }

/-- INFO of a peg (Table 3.5). -/
def Hub.pegInfo (h : Hub) (n : Nat) : Word :=
  match h.pegPart n with
  | none => 0x10
  | some p => BitVec.ofNat 64 p

/-- A packet owns a peg (R84). -/
def Hub.ownsPeg (h : Hub) (p : Packet) (n : Nat) : Bool :=
  match h.pegPart n with
  | none => p.isSystem
  | some q => !p.isSystem && decide (p.part.toNat = q)

/-- A local agent's partition owns a peg, or the system does for a system agent (R220, R263). -/
def Hub.agentOwnsPeg (h : Hub) (a : Agent) (n : Nat) : Bool := decide (h.pegPart n = h.agentPart a)

/-- A satisfied wait resumes its agent (R86, R97): PWAIT completes with OK, a waiting descriptor runs. -/
def Hub.wakeWait (h : Hub) (w : PegWait) : Hub :=
  let h := { h with pegs := { h.pegs with waits := h.pegs.waits.filter fun x => !decide (x = w) } }
  let h := h.acquire w.agent
  match w.agent with
  | .thread b t =>
    let x := h.thread b t
    match x.wait with
    | .peg rd =>
      h.setThread b t { x.setG rd 0 with wait := .ready, pc := x.pc + 1 }
    | _ => h
  | .queue b e q => h.setQueue b e q { h.queue b e q with phase := .running }
  | _ => h

/-- Every satisfied wait on a peg resumes (R86). -/
def Hub.wakePeg (h : Hub) (n : Nat) : Hub :=
  (h.pegs.waits.filter fun w => decide (w.peg = n) && reached (h.peg n).value w.thresh).foldl Hub.wakeWait h

/-- A failed trigger action is counted and its peg latched (R91). -/
def Hub.trigFailed (h : Hub) (n : Nat) : Hub := (h.count rTrigFail).setReg rTrigLast (BitVec.ofNat 64 n)

/-- What follows an event on a peg (R86, R90): waits are evaluated, and an armed trigger that is satisfied clears ARMED and
performs its action. A chain runs on through pegs whose triggers it arms off, at most `fuel` of them. -/
def Hub.pegEvent (h : Hub) : Nat → Nat → Hub
  | 0, _ => h
  | k + 1, n =>
    let h := h.wakePeg n
    let p := h.peg n
    if bitAt p.trigCtl 2 && reached p.value p.thresh then
      let h := h.setPeg n { p with trigCtl := bitsPut p.trigCtl 2 1 0 }
      let act := bitsGet p.trigCtl 0 2
      if act = 1 then
        h.issueD (.trigger n) { h.request (.trigger n) (p.trigFa.toNat % 2 ^ 52) opcWra 0 with payload := leBytes 8 p.value.toNat }
          (.trigger n)
      else if act = 2 then
        let m := bitsGet p.trigCtl 4 12
        if h.pegPart m = h.pegPart n then
          (h.setPeg m { h.peg m with value := (h.peg m).value + 1 }).pegEvent k m
        else h.trigFailed n
      else h
    else h

/-- VALUE of a peg set, as one event (R89). -/
def Hub.setPegValue (h : Hub) (n : Nat) (v : Word) : Hub := (h.setPeg n { h.peg n with value := v }).pegEvent 4097 n

/-- VALUE of a peg advanced modulo 2^64 (R85). -/
def Hub.advancePeg (h : Hub) (n : Nat) (k : Word) : Hub := h.setPegValue n ((h.peg n).value + k)

/-- A word of a peg read (Table 3.3). -/
def Hub.pegRead (h : Hub) (n off : Nat) : Word :=
  let p := h.peg n
  if off = 0 then p.value else if off = 0x10 then p.thresh else if off = 0x18 then p.trigCtl
  else if off = 0x20 then p.trigFa else if off = 0x28 then h.pegInfo n else 0

/-- A word of a peg written (Table 3.3); RSV bits stay zero. -/
def Hub.pegWrite (h : Hub) (n off : Nat) (v : Word) : Hub :=
  let p := h.peg n
  if off = 0 then h.setPegValue n v
  else if off = 0x08 then h.advancePeg n v
  else if off = 0x10 then (h.setPeg n { p with thresh := v }).pegEvent 4097 n
  else if off = 0x18 then (h.setPeg n { p with trigCtl := v &&& 0xFFF7#64 }).pegEvent 4097 n
  else if off = 0x20 then h.setPeg n { p with trigFa := v &&& 0xFFFFFFFFFFFFF#64 }
  else h

/-- A thread leaves RUN: XPEG advances if XPEG_EN is 1 (R274). -/
def Hub.leaveRun (h : Hub) (b t : Nat) (st : TState) : Hub :=
  let h := h.setThread b t { h.thread b t with state := st, wait := .ready, stop := false, ahead := [] }
  if h.bit (rTctl b t) 60 then h.advancePeg (h.fld (rTctl b t) 48 12) 1 else h

end Sys2Proof.Machine
end

