-- ==== Sys2Proof/Machine/Target.lean ====
section
/-! DEFINITION. The sill as target (R46, R52, R62, R65, R74 to R76, R83, R99, R332, R348), and the nodes of host functions
(R319). -/
namespace Sys2Proof.Machine

/-! ### Mortises (R330 to R334) -/

/-- A mortise. -/
def Hub.mortise (h : Hub) (n : Nat) : Mortise := tget {} h.mts n
/-- The hub with a mortise set. -/
def Hub.setMortise (h : Hub) (n : Nat) (m : Mortise) : Hub := { h with mts := tset {} h.mts n m }

/-- The action of an arrival or a take (Table 12.10): an MSI-X vector of a function, or 1 added to a peg of the owner. -/
def Hub.mtsAct (h : Hub) (n mode tgt f : Nat) : Hub :=
  let sys := h.bit (rMtsCfg n) 62
  let owner := if sys then none else some (h.fld (rMtsCfg n) 58 4)
  if mode = 1 then h.msix f (tgt % 32)
  else if mode = 2 then
    if h.pegPart tgt = owner then h.advancePeg tgt 1 else h.count rMtsActFail
  else h

/-- A notice stored in an empty mortise, and its ARR action (R332, step 4). -/
def Hub.mtsArrive (h : Hub) (n : Nat) (notice : List Byte) : Hub :=
  (h.setMortise n { h.mortise n with full := true, notice := notice }).mtsAct n (h.fld (rMtsCfg n) 50 2)
    (h.fld (rMtsCfg n) 38 12) (h.fld (rMtsCfg n) 52 5)

/-- A take: the mortise is emptied, counted, and the EMP action performed (R334). -/
def Hub.mtsTake (h : Hub) (n : Nat) : Hub :=
  let m := h.mortise n
  (h.setMortise n { m with full := false, notice := [], takes := (m.takes + 1) % 2 ^ 32 }).mtsAct n (h.fld (rMtsCfg n) 36 2)
    (h.fld (rMtsCfg n) 19 12) (h.fld (rMtsCfg n) 31 5)

/-- A packet owns a mortise (R332, step 2). -/
def Hub.ownsMortise (h : Hub) (p : Packet) (n : Nat) : Bool :=
  if h.bit (rMtsCfg n) 62 then p.isSystem else !p.isSystem && decide (p.part.toNat = h.fld (rMtsCfg n) 58 4)

/-- The outcome of a fabric notice (R332): a NAK code, or none where it is stored. -/
def Hub.noticeCheck (h : Hub) (p : Packet) (n : Nat) : Option Nat :=
  if !h.bit (rMtsCfg n) 63 then some nakNoTarget
  else if !h.ownsMortise p n then some nakDenied
  else if (h.mortise n).full then some nakFull
  else none

/-! ### Answers -/

/-- The code of the first NAKed posted write of a request's source at its destination since the last FLUSH (R99); 0 for none. -/
def Hub.nakKept (h : Hub) (p : Packet) : Nat := tget 0 h.sill.firstNak (p.dst.toNat * 1024 + p.src.toNat)
/-- The hub with that code set. -/
def Hub.keepNak (h : Hub) (p : Packet) (code : Nat) : Hub :=
  { h with sill := { h.sill with firstNak := tset 0 h.sill.firstNak (p.dst.toNat * 1024 + p.src.toNat) code } }

/-- A request answered with a NAK by its destination, a discard of which counts where the request entered (R65). A NAKed posted write is
remembered for the source's next FLUSH; a FLUSH that is NAKed for whatever reason carries that code, and clears it (R99). -/
def Hub.nakReq (h : Hub) (p : Packet) (code : Nat) : Hub :=
  let flush := decide (p.opc = opcRd) && decide (p.md = 1)
  let kept := h.nakKept p
  let h := if p.opc = opcWr ∧ kept = 0 then h.keepNak p code else if flush then h.keepNak p 0 else h
  h.injectFor (some h.sill.entered) (h.ingressOf p.dst) (p.nakOf (if flush && decide (kept ≠ 0) then kept else code) p.dst)

/-- A request answered with an RSP ACK. -/
def Hub.ackReq (h : Hub) (p : Packet) : Hub := h.inject p.ackOf
/-- A request answered with an RSP DATA. -/
def Hub.dataReq (h : Hub) (p : Packet) (bs : List Byte) : Hub := h.inject (p.dataOf bs)

/-- KSLOT names the slot of PART and KEP, or a system slot with KEP (R348). -/
def Packet.slotOk (p : Packet) : Bool :=
  if p.isSystem then decide (p.kslot.toNat = 32 + bit01 p.kep) else decide (p.kslot.toNat = 2 * p.part.toNat + bit01 p.kep)

/-- A key slot is EMPTY (Table 13.7). -/
def Hub.slotEmpty (h : Hub) (n : Nat) : Bool := decide (h.fld (rKslot n) 62 2 = ksEmpty)

/-- The checks every request to a destination meets first: CHK (R62), then the key (R348). `none` where both pass. -/
def Hub.frontCheck (h : Hub) (p : Packet) : Option Nat :=
  if !p.chkOk then some nakCheck
  else if !p.slotOk || h.slotEmpty p.kslot.toNat then some nakKey
  else none

/-- A CHK mismatch at the sill is counted and reported (R62, Table 17.8). -/
def Hub.chkFailed (h : Hub) : Hub := (h.count rSilChk).report fltSil .contained 3

/-- The oldest request of a source-destination pair in the sill's buffer (R74). -/
def Hub.oldestReq (h : Hub) (src dst : Node) : Option Held :=
  h.sill.reqs.find? fun x => decide (x.pkt.src = src) && decide (x.pkt.dst = dst)

/-- A request would put one more non-posted request out at a host port that has its 768 (Table 12.1): it waits. -/
def Hub.hostFull (h : Hub) (p : Packet) : Bool := match h.funcOf p.dst with
  | some f => decide (p.dst ≠ h.self) && decide (p.opc = opcRd ∨ p.opc = opcWra) && decide (768 ≤ (h.sill.pcie.filter fun x => match h.funcOf x.2.pkt.dst with
      | some g => decide (g / 16 = f / 16)
      | none => false).length)
  | none => false

/-- Take the oldest request of a pair where it is the one the command names, and perform it after the front checks; nothing
where the sill has stopped, no such request is next, or its host port takes no more. -/
def Hub.serve (h : Hub) (src dst : Node) (isIt : Packet → Bool) (act : Packet → Hub → Hub) : Hub :=
  match h.oldestReq src dst with
  | none => h
  | some x =>
    if h.alive && isIt x.pkt then
      let g : Hub := { h with sill := { h.sill with reqs := h.sill.reqs.filter (fun y => !decide (y.pid = x.pid)),
                                                    entered := x.blame.getD x.ing } }
      match g.frontCheck x.pkt with
      | some code => (if code = nakCheck then g.chkFailed else g).nakReq x.pkt code
      | none => if h.hostFull x.pkt then h else act x.pkt g
    else h

/-! ### The peg window (R83) -/

/-- Peg and word of an offset of the peg window. -/
def pegNum (o : Nat) : Nat := (o - 0x10100000000) / 256
/-- Byte offset within a peg. -/
def pegWordOff (o : Nat) : Nat := o % 256

/-- The checks of R83 from the owner on, for an access of `len` bytes; `formOk` says whether Table 3.3 allows the access. -/
def Hub.pegCheck (h : Hub) (p : Packet) (formOk : Bool) (len : Nat) : Option Nat :=
  let o := faOff p.loc.toNat
  if !h.ownsPeg p (pegNum o) then some nakDenied
  else if decide (p.pgm ≠ 0) || !formOk then some nakUnsupported
  else if len ≠ 8 ∨ o % 8 ≠ 0 then some nakAlign
  else none

/-! ### Nodes of host functions (R313, R319) -/

/-- A function is available (R313): enabled, with memory space and bus mastering on. -/
def Hub.funcAvail (h : Hub) (f : Nat) : Bool :=
  h.funcOn f && (tget {} h.host.funcs f).mem && (tget {} h.host.funcs f).master

/-- A PCIe transaction sent toward a host (an observation). -/
def Hub.toHost (h : Hub) (m : HostMsg) : Hub := { h with host := { h.host with sentMsgs := h.host.sentMsgs ++ [m] } }

/-- A memory read toward a host whose completion answers a fabric request. -/
def Hub.hostRead (h : Hub) (f : Nat) (p : Packet) (len : Nat) : Hub :=
  let id := h.sill.nextPcie
  let h := { h with sill := { h.sill with pcie := h.sill.pcie ++ [(id, ({ pkt := p, ing := h.sill.entered } : Held))], nextPcie := id + 1 } }
  h.toHost (.read id f (faOff p.loc.toNat) len)

/-- A request performed at a function's node (R319). -/
def Hub.atFunction (h : Hub) (f : Nat) (p : Packet) : Hub :=
  if !h.funcAvail f then h.nakReq p nakNoTarget
  else if p.pgm ≠ 0 ∨ p.opc = opcAt ∨ p.opc = opcSend then h.nakReq p nakUnsupported
  else if crosses p then h.nakReq p nakMalformed
  else if p.opc = opcRd then (if p.md = 0 then h.hostRead f p p.rlen else h.hostRead f p 0)
  else
    let h := h.toHost (.write h.sill.nextPcie f (faOff p.loc.toNat) p.payload)
    if p.opc = opcWra then h.hostRead f p 0 else h

/-- Perform a request at the node it names: a function's node, or the hub's own by `act`. -/
def Hub.atNode (h : Hub) (p : Packet) (act : Hub → Hub) : Hub :=
  if p.dst = h.self then act h
  else match h.funcOf p.dst with
    | some f => h.atFunction f p
    | none => h.nakReq p nakNoTarget

/-! ### Requests at the hub's own node -/

/-- RD READ at the hub's own node (R52, R74, R76, R83). A PGM that is not 0 is judged after the window and before the extent (DESIGN
CHOICE, log entry 37: R30 and R75 do not say which code comes first). -/
def Hub.doRead (p : Packet) (h : Hub) : Hub :=
  let o := faOff p.loc.toNat
  if crosses p then h.nakReq p nakMalformed
  else match windowOf o with
  | .none => h.nakReq p nakNoTarget
  | .mortise => h.nakReq p nakUnsupported
  | .peg =>
    match h.pegCheck p true p.rlen with
    | some c => h.nakReq p c
    | none => h.dataReq p (leBytes 8 (h.pegRead (pegNum o) (pegWordOff o)).toNat)
  | _ =>
    if p.pgm ≠ 0 then h.nakReq p nakUnsupported
    else if !h.memThere o p.rlen then h.nakReq p nakNoTarget
    else match (h.memRead o p.rlen).1 with
      | none => (h.memRead o p.rlen).2.nakReq p nakMem
      | some bs => (h.memRead o p.rlen).2.dataReq p bs

/-- RD FLUSH at the hub's own node (R99): a recorded failure of a posted write of the source is repeated once. -/
def Hub.doFlush (p : Packet) (h : Hub) : Hub :=
  if p.pgm ≠ 0 then h.nakReq p nakUnsupported
  else if h.nakKept p = 0 then h.ackReq p
  else h.nakReq p (h.nakKept p)

/-- What PGM adds to a peg (R75). -/
def pgmAmount (p : Packet) : Word := if p.pgm = 1 then BitVec.ofNat 64 p.len else if p.pgm = 2 then 1 else 0

/-- A write to a memory window: checks, the payload, then the peg (R75, R84, R303). The payload is stored whole in one step (DESIGN
CHOICE, log entry 37: R79 leaves the order of its 8-byte units open). -/
def Hub.memStore (p : Packet) (h : Hub) : Option Nat × Hub :=
  let o := faOff p.loc.toNat
  if p.pgm = 3 then (some nakUnsupported, h)
  else if !h.memThere o p.len then (some nakNoTarget, h)
  else if p.pgm ≠ 0 ∧ !h.ownsPeg p p.peg.toNat then (some nakDenied, h)
  else match h.memWrite o p.payload with
    | (none, h) => (some nakMem, h)
    | (some h, _) => (none, if p.pgm = 0 then h else h.advancePeg p.peg.toNat (pgmAmount p))

/-- A write at the hub's own node: the NAK code of a failure, and the hub after it (Table 2.13). -/
def Hub.store (p : Packet) (h : Hub) : Option Nat × Hub :=
  let o := faOff p.loc.toNat
  if crosses p then (some nakMalformed, h)
  else match windowOf o with
  | .none => (some nakNoTarget, h)
  | .mortise =>
    let n := (o - 0x10200000000) / 256
    if p.pgm ≠ 0 ∨ o % 256 ≠ 0 ∨ p.len ≠ 16 then (some nakUnsupported, h)
    else match h.noticeCheck p n with
      | some c => (some c, h)
      | none => (none, h.mtsArrive n p.payload)
  | .peg =>
    match h.pegCheck p true p.len with
    | some c => (some c, h)
    | none => (none, h.pegWrite (pegNum o) (pegWordOff o) (leWord p.payload))
  | _ => h.memStore p

/-- WR at the hub's own node. -/
def Hub.doWr (p : Packet) (h : Hub) : Hub :=
  match h.store p with
  | (some c, h) => h.nakReq p c
  | (none, h) => h

/-- WRA at the hub's own node: the RSP follows the peg's advance (R75). -/
def Hub.doWra (p : Packet) (h : Hub) : Hub :=
  match h.store p with
  | (some c, h) => h.nakReq p c
  | (none, h) => h.ackReq p

/-- The new value of an atomic of `n` bytes (R46, Table 2.6): operand `a`, and for CAS the swap value `b`. -/
def atResult (md n old a b : Nat) : Nat :=
  let bits := 8 * n
  if md = 0 then (old + a) % 2 ^ bits
  else if md = 1 then old &&& a
  else if md = 2 then old ||| a
  else if md = 3 then old ^^^ a
  else if md = 4 then a
  else if md = 5 then (if old = a then b else old)
  else if md = 6 then (if signed bits old < signed bits a then a else old)
  else (if signed bits a < signed bits old then a else old)

/-- The operand of an AT: the value, or the compare value of a CAS. -/
def Packet.atOperand (p : Packet) : Nat := leNat (p.payload.take p.atWidth)
/-- The swap value of a CAS. -/
def Packet.atSwap (p : Packet) : Nat := leNat ((p.payload.drop p.atWidth).take p.atWidth)
/-- FETCH of an AT. -/
def Packet.fetch (p : Packet) : Bool := p.aux40.getLsbD 1

/-- The answer of a performed AT: the old value where FETCH = 1 (R46). -/
def Hub.atAnswer (h : Hub) (p : Packet) (old : Nat) : Hub :=
  if p.fetch then h.dataReq p (leBytes p.atWidth old) else h.ackReq p

/-- AT at the hub's own node (R46, R76, R83). -/
def Hub.doAt (p : Packet) (h : Hub) : Hub :=
  let o := faOff p.loc.toNat
  let n := p.atWidth
  if crosses p then h.nakReq p nakMalformed
  else match windowOf o with
  | .none => h.nakReq p nakNoTarget
  | .mortise => h.nakReq p nakUnsupported
  | .peg =>
    match h.pegCheck p (decide (n = 8) && decide (pegWordOff o < 8)) n with
    | some c => h.nakReq p c
    | none =>
      let old := (h.peg (pegNum o)).value.toNat
      (h.setPegValue (pegNum o) (BitVec.ofNat 64 (atResult p.md.toNat 8 old p.atOperand p.atSwap))).atAnswer p old
  | _ =>
    if p.pgm ≠ 0 then h.nakReq p nakUnsupported
    else if o % n ≠ 0 then h.nakReq p nakAlign
    else if !h.memThere o n then h.nakReq p nakNoTarget
    else match h.memRead o n with
      | (none, h) => h.nakReq p nakMem
      | (some bs, h) =>
        let old := leNat bs
        (h.memPut o (leBytes n (atResult p.md.toNat n old p.atOperand p.atSwap))).atAnswer p old

/-! ### SEND (R48) -/

/-- Bytes of a message received, from spans that do not overlap. -/
def gotBytes (g : List (Nat × Nat)) : Nat := (g.map fun s => s.2 - s.1).sum

/-- A span's part that no earlier span of the message covers, byte by byte. -/
def newSpans (g : List (Nat × Nat)) (lo hi : Nat) : List (Nat × Nat) :=
  ((List.range (hi - lo)).map (lo + ·)).filterMap fun i => if g.any fun s => decide (s.1 ≤ i) && decide (i < s.2) then none else some (i, i + 1)

/-- SEND at the hub's own node (R48): the first packet of a message binds a posted buffer of its queue; the payload is placed;
the message is delivered once MLEN distinct bytes have arrived. The oldest posted buffer is bound, and no command posts one; a
payload is placed at MOFF whatever MLEN and the buffer's size, FIRST and LAST are not looked at, and a MSG_TOO_LONG leaves the
buffer bound (DESIGN CHOICE, log entries 24 and 37). -/
def Hub.doSend (p : Packet) (h : Hub) : Hub :=
  let rq := p.aux40.toNat % 256
  let msn := (p.aux40.toNat >>> 24) % 65536
  let mlen := bitsGet p.aux64 32 32
  let moff := bitsGet p.aux64 0 32
  if p.pgm ≠ 0 then h.nakReq p nakUnsupported
  else
    let bound := h.sill.inbound.find? fun m => decide (m.src = p.src) && decide (m.msn = msn) && decide (m.rq = rq)
    let take : Option (Inbound × Hub) :=
      match bound with
      | some m => some (m, h)
      | none =>
        match tget [] h.sill.posted rq with
        | [] => none
        | (a, n) :: rest =>
          let m : Inbound := { src := p.src, msn := msn, rq := rq, addr := a, room := n, got := [] }
          some (m, { h with sill := { h.sill with posted := tset [] h.sill.posted rq rest, inbound := h.sill.inbound ++ [m] } })
    match take with
    | none => h.nakReq p nakNoBuffer
    | some (m, h) =>
      if m.room < mlen then h.nakReq p nakTooLong
      else
        let h := h.memPut (m.addr + moff) p.payload
        let m' := { m with got := m.got ++ newSpans m.got moff (moff + p.len) }
        let others := h.sill.inbound.filter fun x => !decide (x = m)
        let h := if mlen ≤ gotBytes m'.got then
            { h with sill := { h.sill with inbound := others,
                                           delivered := h.sill.delivered ++ [(rq, p.src, msn, m.addr, mlen)] } }
          else { h with sill := { h.sill with inbound := others ++ [m'] } }
        h.ackReq p

/-! ### The commands -/

/-- An AT of one modifier. -/
def Hub.serveAt (h : Hub) (src dst : Node) (md : Nat) : Hub :=
  h.serve src dst (fun p => decide (p.opc = opcAt) && decide (p.md.toNat = md)) (fun p h => h.atNode p (Hub.doAt p))

/-- RD_READ (R52). -/
def execRdRead (src dst : Node) (s : State) : Host.Outcome State Fault Refusal :=
  onHub (fun h => h.serve src dst (fun p => decide (p.opc = opcRd) && decide (p.md = 0)) (fun p h => h.atNode p (Hub.doRead p))) s

/-- A FLUSH of this pair is discarded because the pair has lost a packet to age (R100). -/
def Hub.flushLost (h : Hub) (src dst : Node) : Bool :=
  (h.swc.losses.any fun l => decide (l.src = src) && decide (l.dst = dst) && decide (h.now < l.until_)) ||
  decide (64 ≤ h.swc.losses.length) || decide (h.now < h.swc.overflow)

/-- RD_FLUSH (R99, R100). -/
def execRdFlush (src dst : Node) (s : State) : Host.Outcome State Fault Refusal :=
  onHub (fun h => h.serve src dst (fun p => decide (p.opc = opcRd) && decide (p.md = 1))
    (fun p h => if h.flushLost src dst then h else h.atNode p (Hub.doFlush p))) s

/-- WR (R75). -/
def execWr (src dst : Node) (s : State) : Host.Outcome State Fault Refusal :=
  onHub (fun h => h.serve src dst (fun p => decide (p.opc = opcWr)) (fun p h => h.atNode p (Hub.doWr p))) s

/-- WRA (R75). -/
def execWra (src dst : Node) (s : State) : Host.Outcome State Fault Refusal :=
  onHub (fun h => h.serve src dst (fun p => decide (p.opc = opcWra)) (fun p h => h.atNode p (Hub.doWra p))) s

/-- AT_ADD (R46). -/
def execAtAdd (src dst : Node) (s : State) : Host.Outcome State Fault Refusal := onHub (fun h => h.serveAt src dst 0) s
/-- AT_AND (R46). -/
def execAtAnd (src dst : Node) (s : State) : Host.Outcome State Fault Refusal := onHub (fun h => h.serveAt src dst 1) s
/-- AT_OR (R46). -/
def execAtOr (src dst : Node) (s : State) : Host.Outcome State Fault Refusal := onHub (fun h => h.serveAt src dst 2) s
/-- AT_XOR (R46). -/
def execAtXor (src dst : Node) (s : State) : Host.Outcome State Fault Refusal := onHub (fun h => h.serveAt src dst 3) s
/-- AT_SWAP (R46). -/
def execAtSwap (src dst : Node) (s : State) : Host.Outcome State Fault Refusal := onHub (fun h => h.serveAt src dst 4) s
/-- AT_CAS (R46). -/
def execAtCas (src dst : Node) (s : State) : Host.Outcome State Fault Refusal := onHub (fun h => h.serveAt src dst 5) s
/-- AT_MAX (R46). -/
def execAtMax (src dst : Node) (s : State) : Host.Outcome State Fault Refusal := onHub (fun h => h.serveAt src dst 6) s
/-- AT_MIN (R46). -/
def execAtMin (src dst : Node) (s : State) : Host.Outcome State Fault Refusal := onHub (fun h => h.serveAt src dst 7) s

/-- SEND (R48). -/
def execSend (src dst : Node) (s : State) : Host.Outcome State Fault Refusal :=
  onHub (fun h => h.serve src dst (fun p => decide (p.opc = opcSend)) (fun p h => h.atNode p (Hub.doSend p))) s

/-- A PCIe completion turned into the answer of its fabric request (R319). -/
def Hub.pcieDone (h : Hub) (p : Packet) : PcieResult → Hub
  | .ok data => if p.opc = opcRd ∧ p.md = 0 then h.dataReq p (fit p.rlen data)
                else if p.opc = opcRd then h.doFlush p else h.ackReq p
  | .unsupported => h.nakReq p nakNoTarget
  | .abort => h.nakReq p nakNoTarget
  | .poisoned => h.nakReq p nakMem

/-- HOST_PCIE_COMPLETION (R319). -/
def execHostPcieCompletion (id : Nat) (r : PcieResult) (s : State) : Host.Outcome State Fault Refusal :=
  onHub (fun h =>
    match h.sill.pcie.find? fun x => decide (x.1 = id) with
    | none => h
    | some x => ({ h with sill := { h.sill with pcie := h.sill.pcie.filter (fun y => !decide (y.1 = id)),
                                                entered := x.2.ing } } : Hub).pcieDone x.2.pkt r) s

/-- HOST_COMPLETION_TIMEOUT (R319): no answer; the requester's own timeout applies. -/
def execHostCompletionTimeout (id : Nat) (s : State) : Host.Outcome State Fault Refusal :=
  onHub (fun h => { h with sill := { h.sill with pcie := h.sill.pcie.filter fun y => !decide (y.1 = id) } }) s

end Sys2Proof.Machine
end

