-- ==== Sys2Proof/Machine/LinkOps.lean ====
section
/-! DEFINITION. Ports as the switch core sees them: state, transmission of a packet onto a link's planks, link-local
packets (R56, R108, R405 to R408). -/
namespace Sys2Proof.Machine

/-- A port. -/
def Hub.port (h : Hub) (p : Nat) : Port := tget {} h.links.ports p
/-- The hub with a port set. -/
def Hub.setPort (h : Hub) (p : Nat) (x : Port) : Hub := { h with links := { h.links with ports := tset {} h.links.ports p x } }
/-- STATE of a port (Table 15.2). -/
def Hub.lstate (h : Hub) (p : Nat) : Nat := h.fld (rPstat p) 60 4
/-- A link is up: ACTIVE. A port in DEEP counts as down (R420). -/
def Hub.linkUp (h : Hub) (p : Nat) : Bool := decide (h.lstate p = lkActive)
/-- A port is up for routing: its link is, and DETOUR has not declared it down (R385). -/
def Hub.portUp (h : Hub) (p : Nat) : Bool := h.linkUp p && !h.snd.low.contains p
/-- The hub with a port in another state from now on. -/
def Hub.setLstate (h : Hub) (p st : Nat) : Hub := (h.setFld (rPstat p) 60 4 st).setPort p { h.port p with stateAt := h.now }

/-- The planks that a packet of a port takes: each packet begins a plank of 312 stream bytes (log entry 9). -/
def planksOf (p : Packet) (sealing : Bool) : Nat := ceilDiv (p.size + (if sealing then 16 else 0)) 312

/-- `n` planks from a sequence number, the last of which carries the packet's last byte. -/
def sentPlanks (now seq : Nat) (x : Held) : Nat → List SentPlank
  | 0 => []
  | 1 => [{ pseq := seq % 4096, at_ := now, pkts := [x] }]
  | n + 2 => { pseq := seq % 4096, at_ := now } :: sentPlanks now (seq + 1) x (n + 1)

/-- The staging slot of a channel at the egress station of a port is taken: the head of MCO or MCG has reserved it (R123), or, on MGT
phase A, a link-local packet waits in it (R108). -/
def Hub.staged (h : Hub) (p vc : Nat) : Bool :=
  (h.swc.resv.any fun r => r.2.contains p && (match tget [] h.swc.queues r.1 with
    | x :: _ => decide (x.vc = vc)
    | [] => false)) || (decide (vc = 8) && decide ((h.port p).waiting ≠ []))

/-- The link has credit for a whole packet on its channel (R56), and room for its planks among the 1,024 unacknowledged ones
(R408). -/
def Hub.hasCredit (h : Hub) (p : Nat) (x : Packet) : Bool :=
  let q := h.port p
  decide (x.cells ≤ q.credits.getD x.chan 0) && decide (q.unacked.length + planksOf x q.sealing ≤ 1024)

/-- A packet may leave by a port: credit, and a free staging slot of its channel (R105, R115). -/
def Hub.canSend (h : Hub) (p : Nat) (x : Packet) : Bool := h.hasCredit p x && !h.staged p x.chan

/-- No credit owed on any channel. -/
def noCells : List Nat := List.replicate 10 0

/-- Credits with `n` cells of a channel spent. -/
def spend (cs : List Nat) (vc n : Nat) : List Nat := cs.set vc (cs.getD vc 0 - n)
/-- Credits with `n` cells of a channel returned. -/
def refund (cs : List Nat) (vc n : Nat) : List Nat := cs.set vc (cs.getD vc 0 + n)

/-- The chiplet of a port's lane 0 (R397). -/
def portChip (p : Nat) : Nat := 8 * p / 86
/-- The chiplet of a lane (R397). -/
def laneChip (l : Nat) : Nat := l / 86

/-- Planks as a port sends them: an armed injection inverts the code of the first, or of all with CONT (R379). -/
def Hub.codePlanks (h : Hub) (p : Nat) (ks : List SentPlank) : List SentPlank :=
  let m := h.injected (fltSd (portChip p)) 47
  ks.zipIdx.map fun k => { k.1 with bad := decide (m ≠ 0) && (h.bit rFltInj 62 || decide (k.2 = 0)) }

/-- The hub after `n` planks of a port have been sent: a one-shot injection is done with the first (R379). -/
def Hub.planksSent (h : Hub) (p n : Nat) : Hub := if n = 0 then h else h.injectDone (h.injected (fltSd (portChip p)) 47)

/-- A packet as it is sent: an armed injection inverts its CHK (R379). -/
def Hub.chkSent (h : Hub) (x : Held) : Held :=
  if h.injected fltSil 48 = 0 then x else { x with pkt := { x.pkt with chk := ~~~ x.pkt.chk } }

/-- A packet sent on a link: its credit spent, its planks held until acknowledged, the packet counter advanced while the link
seals (R406, R408). A dozing transmitter wakes (R419). -/
def Hub.transmit (h : Hub) (p : Nat) (x : Held) : Hub :=
  let q := h.port p
  let n := planksOf x.pkt q.sealing
  let ks := h.codePlanks p (sentPlanks h.now q.nextSeq (h.chkSent x) n)
  let h := ((h.injectDone (h.injected fltSil 48)).planksSent p n).setFld (rPstat p) 57 1 0
  h.setPort p { q with credits := spend q.credits x.pkt.chan x.pkt.cells,
                       unacked := q.unacked ++ ks, nextSeq := (q.nextSeq + n) % 4096,
                       progressAt := if q.unacked = [] then h.now else q.progressAt, idleAt := h.now,
                       owed := noCells, owedAt := none, ackAt := none,
                       tx := if q.sealing then { q.tx with count := q.tx.count + 1 } else q.tx }

/-- Sequenced planks without stream bytes sent and held until acknowledged (R405, R408). -/
def Hub.pushPlanks (h : Hub) (p n : Nat) : Hub :=
  let q := h.port p
  let ks : List SentPlank := (List.range n).map fun i => { pseq := (q.nextSeq + i) % 4096, at_ := h.now }
  let ks := h.codePlanks p ks
  let h := h.planksSent p n
  h.setPort p { q with unacked := q.unacked ++ ks, nextSeq := (q.nextSeq + n) % 4096,
                       progressAt := if q.unacked = [] then h.now else q.progressAt }

/-- The credits that the hub advertises for a channel on every link (R57): at least 8 cells of each phase of REQ, COLC, COLR and RSP and 4
of MGT, at most 64. -/
def rxCells (vc : Nat) : Nat := clampNat (Config.advertised vc) (if 8 ≤ vc then 4 else 8) 64

/-- The hub's INIT plank sent, with its credits (R410). -/
def Hub.pushInit (h : Hub) (p : Nat) : Hub :=
  let q := h.port p
  let ks := h.codePlanks p [{ pseq := q.nextSeq % 4096, at_ := h.now, init := (List.range 10).map rxCells }]
  let h := h.planksSent p 1
  h.setPort p { q with unacked := q.unacked ++ ks,
                       nextSeq := (q.nextSeq + 1) % 4096, progressAt := if q.unacked = [] then h.now else q.progressAt }

/-- Every channel's owed credit returned, each in a DATA plank (R405, R410). -/
def Hub.flushOwed (h : Hub) (p : Nat) : Hub :=
  let n := ((h.port p).owed.filter fun c => decide (c ≠ 0)).length
  (h.setPort p { h.port p with owed := noCells, owedAt := none, ackAt := none }).pushPlanks p n

/-- The transmitter of a port runs and does not doze, and may send another sequenced plank. -/
def Hub.txAwake (h : Hub) (p : Nat) : Bool :=
  (decide (h.lstate p = lkHello) || decide (h.lstate p = lkActive)) && !h.bit (rPstat p) 57 && decide ((h.port p).unacked.length < 1014)

/-- Cells freed in the receive buffer of a port: the credit is returned at once, or owed while the transmitter dozes (R419). -/
def Hub.owe (h : Hub) (p vc n : Nat) : Hub :=
  let q := h.port p
  let h := h.setPort p { q with owed := refund q.owed vc n, owedAt := some (q.owedAt.getD h.now) }
  if h.txAwake p then h.flushOwed p else h

/-- An MGT packet to the far end of a link, placed directly in the egress station on MGT phase A (R108): sent if the link has
credit. -/
def Hub.sendLocal (h : Hub) (p : Nat) (x : Packet) : Option Hub :=
  if h.hasCredit p x then
    some (({ h with swc := { h.swc with nextPid := h.swc.nextPid + 1 } } : Hub).transmit p
      { pid := h.swc.nextPid, ing := .inner, vc := x.chan, at_ := h.now, pkt := { x with rep := h.epoch } })
  else none

/-- A link-local packet that waits for credit where it cannot be sent at once. -/
def Hub.sendLocalD (h : Hub) (p : Nat) (x : Packet) : Hub :=
  match (if (h.port p).waiting = [] then h.sendLocal p x else none) with
  | some h => h
  | none => h.setPort p { h.port p with waiting := (h.port p).waiting ++ [x] }

/-- Waiting link-local packets go out in order while credit lasts. -/
def Hub.drainLocal (h : Hub) (p : Nat) : Nat → Hub
  | 0 => h
  | k + 1 =>
    match (h.port p).waiting with
    | [] => h
    | x :: rest =>
      match (h.setPort p { h.port p with waiting := rest }).sendLocal p x with
      | some h => h.drainLocal p k
      | none => h

/-- A link-local MGT packet of this hub (R70, R108, R351, R381). -/
def Hub.mgt (h : Hub) (md : BitVec 4) (tag : BitVec 12) (payload : List Byte) : Packet :=
  Packet.sealChk { cls := 4, src := h.self, dst := 0x3FF, md := md, opc := opcMgt, tag := tag, payload := payload, kslot := 32 }

/-- The peer board slot of a girt pair (R19): pair 0 reaches slot s xor 1, pair 1 s xor 2, pair 2 s xor 3. -/
def Hub.pairSlot (h : Hub) (n : Nat) : Nat := (h.fld rSelfNode 20 2) ^^^ (n + 1)
/-- The girt pair toward a board slot. -/
def Hub.slotPair (h : Hub) (s : Nat) : Nat := ((h.fld rSelfNode 20 2) ^^^ s) - 1

end Sys2Proof.Machine
end

