-- ==== Sys2Proof/Machine/Ingress.lean ====
section
/-! DEFINITION. The ingress of the hub (R106 to R108, R117 to R120, R136 to R138, R345, R386): checks, the route decision and
the sampler. -/
namespace Sys2Proof.Machine

/-- How a packet arrived (R118). -/
inductive Arrived where
  | joist (j : Nat)
  | girt
  | rafter (x : Nat)
  | within
  deriving DecidableEq, Repr

/-- The kind of port an ingress is. -/
def arrivedOn : Ingress → Arrived
  | .port p => if p.val < 72 then .joist p.val else if p.val < 78 then .girt else .rafter (p.val - 78)
  | _ => .within

/-- The packet came over a girt or rafter port. -/
def Arrived.far : Arrived → Bool
  | .girt => true
  | .rafter _ => true
  | _ => false

/-- The flow hash (R119). -/
def flowHash (seed src dst flow : Nat) : Nat :=
  let x := (src * 2 ^ 18 ||| dst * 2 ^ 8 ||| flow) ^^^ seed
  let x := (x * 0x9E3779B1) % 2 ^ 32
  (x ^^^ (x >>> 16)) % 256

/-- The flow hash of a packet's path: FLOW counts as zero for memory-semantic requests (R69). -/
def Hub.hashOf (h : Hub) (p : Packet) : Nat :=
  flowHash (h.fld rHashSeed 0 32) p.src.toNat p.dst.toNat (if p.opc.toNat ≤ 3 then 0 else p.flow.toNat)

/-- Sounding has de-weighted a port (R386). -/
def Hub.deweighted (h : Hub) (p : Nat) : Bool := h.snd.dewt.contains p

/-- The port of girt pair `n` for a flow (R118, R386). -/
def Hub.pairMember (h : Hub) (n hash : Nat) : Nat :=
  let a := 72 + 2 * n
  let b := a + 1
  let want :=
    if h.deweighted a && !h.deweighted b then (if hash % 4 = 0 then a else b)
    else if h.deweighted b && !h.deweighted a then (if hash % 4 = 0 then b else a)
    else a + hash % 2
  if h.portUp want then want else if want = a then b else a

/-- The ports of a rafter set that are up, in ascending order; where one is de-weighted, each healthy port counts three times
(R118, R386). -/
def Hub.rafterUp (h : Hub) (rset : Nat) : List Nat :=
  let up := ((List.range 8).filter fun x => rset.testBit x && h.portUp (78 + x)).map (78 + ·)
  if up.any h.deweighted then up.flatMap fun p => if h.deweighted p then [p] else [p, p, p] else up

/-- A route bank's entry of a node. -/
def Hub.routeEntry (h : Hub) (bank : Bool) (n : Node) : BitVec 32 :=
  tget 0 (if bank then h.swc.routes1 else h.swc.routes0) n.toNat

/-- A field of a route entry (Table 4.5). -/
def entryField (e : BitVec 32) (lo n : Nat) : Nat := (e.toNat >>> lo) % 2 ^ n

/-- STATE0 or STATE1 of SWC_SCARF. -/
def Hub.bankState (h : Hub) (bank : Bool) : Nat := h.fld rScarf (if bank then 3 else 1) 2
/-- Sounding has marked a node absent (R34). -/
def Hub.absent (h : Hub) (n : Node) : Bool := h.bit (rAbsent (n.toNat / 64)) (n.toNat % 64)
/-- The detour of a joist (R31). -/
def Hub.detourOf (h : Hub) (j : Nat) : Option Detour := tget none h.swc.detours j

/-- The route decision: a queue, the local target, a rejection with its code, a silent drop, or a hold (R32, R120). -/
inductive Decision where
  | queue (out : Nat)
  | local_
  | reject (code : Nat)
  | drop
  | hold
  deriving DecidableEq, Repr

/-- A queue of a port, unless the arrivals of that port's returning flows are held (R120). -/
def Hub.toPort (h : Hub) (out : Nat) : Decision := if h.swc.returning.contains out then .hold else .queue out

/-- The FLUSH that a returning joist's detour carries (R32, step 2): it alone takes the detour then. -/
def Hub.detourFlush (h : Hub) (p : Packet) (j : Nat) : Bool :=
  decide (p.opc = opcRd) && decide (p.md = 1) && decide (p.src = h.self) &&
    h.sill.out.any fun o => decide (o.node = p.src) && decide (o.tag = p.tag.toNat) && decide (o.cont = .detour j)

/-- The route decision of R118 for a unicast packet. -/
def Hub.decideRoute (h : Hub) (p : Packet) (a : Arrived) : Decision :=
  if h.absent p.dst then .reject nakAbsent
  else
    let e := h.routeEntry p.rep p.dst
    let kind := entryField e 29 2
    if entryField e 31 1 = 0 ∨ kind = 3 then .reject nakNoRoute
    else if kind = 0 then .local_
    else
      let hash := h.hashOf p
      if kind = 2 then
        if a.far || !(p.opc = opcSend || p.opc = opcRsp || p.opc = opcNak || p.opc = opcMgt) then .reject nakNoRoute
        else
          let up := h.rafterUp (entryField e 11 8)
          if up = [] then .reject nakNoRoute else h.toPort (up.getD (hash % up.length) 0)
      else
        let o := entryField e 22 7
        if 77 < o then .reject nakNoRoute
        else if 72 ≤ o then (if a.far then .reject nakNoRoute else h.toPort (h.pairMember ((o - 72) / 2) hash))
        else match h.detourOf o with
          | some d =>
            if h.detourFlush p o then h.toPort (h.pairMember d.pair hash)
            else if h.portUp o then .hold
            else if d.phase ≠ .down then .hold
            else if a.far then .drop
            else h.toPort (h.pairMember d.pair hash)
          | none => if h.portUp o then .queue o else .drop

/-! ### Checks before the route -/

/-- The joist of a destination accelerator, by the route entry. -/
def Hub.joistOf (h : Hub) (p : Packet) : Option Nat :=
  let e := h.routeEntry p.rep p.dst
  if entryField e 31 1 = 1 ∧ entryField e 29 2 = 1 ∧ entryField e 22 7 < 72 then some (entryField e 22 7) else none

/-- A packet uses a capability that the destination accelerator did not declare (R70). -/
def Hub.capMissing (h : Hub) (p : Packet) : Bool :=
  match h.joistOf p with
  | none => false
  | some j =>
    let c := tget 0 h.sill.caps j
    (decide (p.pgm ≠ 0) && !c.testBit 0) || (decide (p.opc = opcAt) && p.aux40.getLsbD 0 && !c.testBit 1) ||
    (decide (p.opc = opcSend) && !c.testBit 2) || (decide (p.opc = opcColr) && !c.testBit 3)

/-- A node is that of a VF of this hub that has no partition. -/
def Hub.strayVf (h : Hub) (n : Node) : Bool := match h.funcOf n with
  | some f => !isPf f && (h.funcPart f).isNone
  | none => false

/-- The partition checks of Table 13.3 on a REQ or COLC packet: a code where one fails. -/
def Hub.partCheck (h : Hub) (p : Packet) (a : Arrived) : Option Nat :=
  let q := p.part.toNat
  let port : Bool := match a with
    | .joist j => h.ownsJoist q j && !p.isSystem
    | .rafter x => p.isSystem || h.mayRafter q x
    | _ => true
  if !port then some nakDenied
  else if p.isSystem then none
  else if decide (a = .within) && h.strayVf p.src then some nakDenied
  else if !h.inDset q p.dst then some nakDenied
  else if decide (p.cls = 0) && decide (h.partState q = ptQuiesce) then some nakQuiesce
  else none

/-- Whether a rafter port carries a packet (R20). -/
def rafterOk (p : Packet) : Bool :=
  decide (p.opc = opcSend) || decide (p.opc = opcRsp) || decide (p.opc = opcNak) || decide (p.opc = opcMgt)

/-- A REQ packet that R136 holds: the other bank is DRAINING and the two banks differ for its destination. -/
def Hub.heldByScarf (h : Hub) (p : Packet) : Bool :=
  decide (p.cls = 0) && (decide (h.bankState false = bankDraining) || decide (h.bankState true = bankDraining)) &&
    decide (h.routeEntry false p.dst ≠ h.routeEntry true p.dst)

/-- What step 2 and step 3 of Table 4.2 make of a packet at the head of its receive buffer. -/
inductive Verdict where
  | wait
  | go (r : Route)
  | nak (code : Nat)
  | discard
  | ageDrop
  | stray
  | silent
  deriving DecidableEq, Repr

/-- A packet of class REQ is NAKed and any other discarded and counted (R66). -/
def Packet.refuse (p : Packet) (code : Nat) : Verdict := if p.cls = 0 then .nak code else .discard

/-- A FLUSH of a pair in the loss record (R100). -/
def Hub.lostFlush (h : Hub) (p : Packet) : Bool := decide (p.opc = opcRd) && decide (p.md = 1) && h.flushLost p.src p.dst

/-- The verdict from the form check on. -/
def Hub.verdictForm (h : Hub) (x : Held) (p : Packet) (a : Arrived) : Verdict :=
  let peer := match a with
    | .girt => true
    | .rafter _ => true
    | .within => decide (x.ing = .inner)
    | .joist _ => false
  if malformed peer p then p.refuse nakMalformed
  else if p.opc = opcMgt ∧ p.dst = 0x3FF then .go .target
  else if p.mc then .go (.queue (if a = .within then 86 else 87))
  else if h.lostFlush p then .silent
  else if h.capMissing p then p.refuse nakUnsupported
  else match (if p.cls = 0 ∨ p.cls = 1 then h.partCheck p a else none) with
    | some c => p.refuse c
    | none =>
      if h.heldByScarf p then .wait
      else match h.decideRoute p a with
        | .queue o => .go (.queue o)
        | .local_ => .go .target
        | .reject c => p.refuse c
        | .drop => .discard
        | .hold => .wait

/-- The verdict on a packet (R20, R41, R66, R70, R100, R118, R136, R137, R345, R375, R391, R440). What arrives on a joist before its CAP
is dropped with no NAK and no count (DESIGN CHOICE, log entry 37: R70 says only that the hub accepts none). -/
def Hub.verdict (h : Hub) (x : Held) : Verdict :=
  let p := x.pkt
  let a := arrivedOn x.ing
  let mgt := decide (p.opc = opcMgt) && decide (p.cls = 4)
  if !h.alive && !mgt then (if x.ing = .inner then .silent else .discard)
  else if !h.ready && !mgt then .ageDrop
  else if h.snd.expelled && !mgt then p.refuse nakAbsent
  else if h.bankState p.rep = bankFreeCode then .stray
  else match a with
  | .joist j => if !mgt && !(tget 0 h.sill.caps j).testBit 4 then .silent else h.verdictForm x p a
  | .rafter _ => if !rafterOk p then .discard else h.verdictForm x p a
  | _ => h.verdictForm x p a
/-! ### The sampler (R138, R461) -/

/-- The record of a sampled packet: 144 bytes and zeros to 256 (R138, R461). -/
def Hub.sampleRecord (h : Hub) (p : Packet) (port : Nat) : List Byte :=
  let open_ := decide (p.opc = opcMgt) || h.bit rSmpCtl (34 + p.part.toNat)
  let w := (p.size % 2 ^ 11) * 2 ^ 53 + port * 2 ^ 46 + bit01 (!open_) * 2 ^ 45
  let shown := if open_ then p else { p with payload := zeros p.len }
  fit 256 (leBytes 8 h.now ++ leBytes 8 w ++ fit 128 shown.bytes)

/-- A record written to the sampler ring, or dropped and counted where the ring is full. -/
def Hub.writeSample (h : Hub) (p : Packet) (port : Nat) : Hub :=
  let prod := h.fld rSmpIdx 32 32
  let n := 2 ^ max 4 (h.fld rSmpRing 60 4)
  if (prod + 2 ^ 32 - h.fld rSmpIdx 0 32) % 2 ^ 32 = n then h.count rSmpDropped
  else
    let fa := (h.fld rSmpRing 8 44) * 256 + 256 * (prod % n)
    let h := h.setFld rSmpIdx 32 32 (prod + 1)
    h.issueD .sampler { h.request .sampler fa opcWra 0 with payload := h.sampleRecord p port } .sampler

/-- Sampling of a packet taken at an ingress port: one in 2^K of the enabled classes. A packet counts once, however often its route is
decided. -/
def Hub.sample (h : Hub) (x : Held) : Hub :=
  match x.ing with
  | .port p =>
    if !x.seen && h.bit rSmpCtl 63 && (h.bit rSmpCtl 28 || decide (h.fld rSmpCtl 21 7 = p.val)) && h.bit rSmpCtl (29 + x.pkt.cls.toNat)
        && decide (x.pkt.cls.toNat < 5) then
      let k := clampNat (h.fld rSmpCtl 58 5) 4 20
      let c := (tget 0 h.swc.smpCount p.val + 1) % 2 ^ k
      let h := { h with swc := { h.swc with smpCount := tset 0 h.swc.smpCount p.val c } }
      if c = 0 then h.writeSample x.pkt p.val else h
    else h
  | _ => h

/-! ### Taking a packet -/

/-- The head of a receive buffer: the oldest packet of an ingress and channel. -/
def Hub.rxHead (h : Hub) (ing : Ingress) (vc : Nat) : Option Held :=
  h.swc.rx.find? fun x => decide (x.ing = ing) && decide (x.vc = vc)

/-- The hub without a packet in its receive buffers; a link's receiver owes the cells it frees. -/
def Hub.dropRx (h : Hub) (x : Held) : Hub :=
  let h := { h with swc := { h.swc with rx := h.swc.rx.filter fun y => !decide (y.pid = x.pid) } }
  match x.ing with
  | .port p => h.owe p.val x.vc x.pkt.cells
  | _ => h

/-- A NAK that this hub raises, injected as its own packet; a discard of it counts where the request entered (R65). -/
def Hub.raiseNak (h : Hub) (x : Held) (code : Nat) : Hub :=
  h.injectFor (some (x.blame.getD x.ing)) .inner (x.pkt.nakOf code h.self)

/-- A discard counted at the ingress of a packet (R108). -/
def Hub.countHeld (h : Hub) (x : Held) : Hub := h.countDiscard (x.blame.getD x.ing)

/-- INGRESS_ROUTE (R118). -/
def execIngressRoute (ing : Ingress) (vc : Fin 10) (s : State) : Host.Outcome State Fault Refusal :=
  onHub (fun h =>
    match h.rxHead ing vc.val with
    | none => h
    | some x =>
      if x.route.isSome then h
      else match h.verdict x with
        | .wait => h
        | .go r =>
          let h := h.sample x
          { h with swc := { h.swc with
              rx := h.swc.rx.map fun y => if y.pid = x.pid then { y with route := some r, seen := true } else y } }
        | .nak c => ((h.sample x).dropRx x).raiseNak x c
        | .discard => ((h.sample x).dropRx x).countHeld x
        | .ageDrop => ((h.sample x).dropRx x).count rAgeDrop
        | .stray => (((h.sample x).dropRx x).count rScarfStray).report fltRte .contained 4
        | .silent => (h.sample x).dropRx x) s

/-- The cells that packets of one channel hold in an inbox. -/
def inboxCells (l : List Held) (vc : Nat) : Nat := ((l.filter fun x => decide (x.vc = vc)).map fun x => x.pkt.cells).sum

/-- The packets at the local target that a packet goes to (R107): for COLC those of its collective's sawpit. -/
def Hub.inboxOf (h : Hub) (p : Packet) : List Held :=
  if p.opc = opcMgt then h.sill.mgt
  else if p.opc = opcColc then h.sill.colc.filter fun x => decide (x.pkt.loc.toNat >>> 43 = p.loc.toNat >>> 43)
  else if p.opc = opcColr then h.sill.colr
  else if p.opc = opcRsp ∨ p.opc = opcNak then h.sill.rsps
  else h.sill.reqs

/-- A packet put into the receive buffer of its local target. -/
def Hub.deliver (h : Hub) (x : Held) : Hub :=
  if x.pkt.opc = opcMgt then { h with sill := { h.sill with mgt := h.sill.mgt ++ [x] } }
  else if x.pkt.opc = opcColc then { h with sill := { h.sill with colc := h.sill.colc ++ [x] } }
  else if x.pkt.opc = opcColr then { h with sill := { h.sill with colr := h.sill.colr ++ [x] } }
  else if x.pkt.opc = opcRsp ∨ x.pkt.opc = opcNak then { h with sill := { h.sill with rsps := h.sill.rsps ++ [x] } }
  else { h with sill := { h.sill with reqs := h.sill.reqs ++ [x] } }

/-- Cells of the sill's COLR buffer on a channel that the head of MCO or MCG has reserved (R123). -/
def Hub.inboxHeld (h : Hub) (p : Packet) (vc : Nat) : Nat :=
  if p.opc ≠ opcColr then 0
  else (h.swc.resv.map fun r =>
    match tget [] h.swc.queues r.1 with
    | x :: _ => if x.vc = vc ∧ r.2.contains 88 then x.pkt.cells else 0
    | [] => 0).sum

/-- LOCAL_DELIVERY (R107): once the target has room; MGT is always accepted (R125). -/
def execLocalDelivery (ing : Ingress) (vc : Fin 10) (s : State) : Host.Outcome State Fault Refusal :=
  onHub (fun h =>
    match h.rxHead ing vc.val with
    | none => h
    | some x =>
      if x.route ≠ some .target then h
      else if h.lostFlush x.pkt then h.dropRx x
      else if x.pkt.opc = opcMgt ∨ inboxCells (h.inboxOf x.pkt) x.vc + h.inboxHeld x.pkt x.vc + x.pkt.cells ≤ 8 + Config.extraLocalCells then
        (h.dropRx x).deliver x
      else h) s

end Sys2Proof.Machine
end

