-- ==== Sys2Proof/Machine/Queues.lean ====
section
/-! DEFINITION. The shared buffer and its queues (R109 to R116), multicast replication (R121 to R123) and hot lines (R127 to
R129). -/
namespace Sys2Proof.Machine

/-- The key of a queue: five classes per output (R110). -/
def qkey (out cls : Nat) : Nat := 5 * out + cls
/-- The packets of a queue, head first. -/
def Hub.qlist (h : Hub) (out cls : Nat) : List Held := tget [] h.swc.queues (qkey out cls)
/-- The hub with the packets of a queue set. -/
def Hub.setQ (h : Hub) (out cls : Nat) (l : List Held) : Hub :=
  { h with swc := { h.swc with queues := tset [] h.swc.queues (qkey out cls) l } }

/-- The packets of an entry: itself, or the members of its combine group. -/
def Held.members (x : Held) : List Joined :=
  if x.group = [] then [{ pid := x.pid, ing := x.ing, at_ := x.at_, bank := x.bank, upset := x.upset, pkt := x.pkt }] else x.group
/-- The entry that is left of a combine group: its first member leads it. -/
def Held.regroup (x : Held) : List Joined → Option Held
  | [] => none
  | m :: r => some { x with pid := m.pid, ing := m.ing, at_ := m.at_, bank := m.bank, upset := m.upset, pkt := m.pkt, group := m :: r }
/-- A member of a combine group as a packet of its own. -/
def Held.alone (x : Held) (m : Joined) : Held :=
  { x with pid := m.pid, ing := m.ing, at_ := m.at_, bank := m.bank, upset := m.upset, pkt := m.pkt, group := [] }

/-- Cells of a queue entry: those of all members of a combine group. -/
def Held.cells (x : Held) : Nat := (x.members.map fun m => m.pkt.cells).sum
/-- Cells that a list of entries holds. -/
def cellsOf (l : List Held) : Nat := (l.map Held.cells).sum

/-- q.min of a class (Table 4.4). -/
def Hub.qmin (h : Hub) (cls : Nat) : Nat := max 8 (h.fld (rQcfg cls) 0 16)
/-- q.alpha of a class (Table 4.4). -/
def Hub.qalpha (h : Hub) (cls : Nat) : Nat := max 1 (h.fld (rQcfg cls) 24 6)
/-- q.cap of a queue (R113): a quarter of a lifetime at the measured rate. -/
def Hub.qcap (h : Hub) (out cls : Nat) : Nat := (tget {} h.swc.rates (qkey out cls)).last * (h.lifetime / 1000) / 40

/-- The cells of the shared pool: all but the spread reserve and the guaranteed minima (R111). -/
def Hub.poolCells (h : Hub) : Nat := 786432 - 320 - 88 * ((List.range 5).map h.qmin).sum
/-- pool_free (R111): the pool less what each queue holds above its minimum. -/
def Hub.poolFree (h : Hub) : Nat :=
  h.poolCells - (h.swc.queues.map fun q => cellsOf q.2 - h.qmin (q.1 % 5)).sum

/-- The admission rule of R111 for a packet of `n` cells. -/
def admits (used min cap alpha free n : Nat) : Bool :=
  let d := n - (min - used)
  if max min cap < used + n then false
  else decide (d = 0) || (decide (d ≤ free) && decide ((used - min) + d ≤ (alpha * (free - d)) / 8))

/-- Cells in use in a bank. -/
def Hub.bankUsed (h : Hub) (b : Nat) : Nat :=
  (h.swc.queues.map fun q => ((q.2.flatMap Held.members).map fun m => if m.bank = b then m.pkt.cells else 0).sum).sum

/-- The first bank from a start index, modulo 64, with `n` free cells (R112). -/
def Hub.pickBank (h : Hub) (start n : Nat) : Nat :=
  ((List.range 64).map fun i => (start + i) % 64).find? (fun b => decide (h.bankUsed b + n ≤ 12288)) |>.getD start

/-! ### Hot lines -/

/-- The line of a request (R127): FA[51:6]. -/
def lineOf (p : Packet) : Nat := p.loc.toNat / 64

/-- A request that the trackers count (R127). -/
def counted (p : Packet) : Bool := decide (p.opc = opcWr) || decide (p.opc = opcAt)

/-- THRESH of SWC_HOT_CTL. -/
def Hub.hotThresh (h : Hub) : Nat := h.fld rHotCtl 0 8

/-- The trackers of a joist queue after one more request to a line. -/
def Hub.trackLine (h : Hub) (t : HotTrack) (line : Nat) : HotTrack :=
  if t.lines.any fun x => decide (x.line = line) then
    { t with lines := t.lines.map fun x =>
        if x.line = line then { x with count := x.count + 1, hot := x.hot || decide (h.hotThresh < x.count + 1) } else x }
  else if t.lines.length < 16 then { t with lines := t.lines ++ [{ line := line, count := 1, hot := decide (h.hotThresh < 1) }] }
  else { t with other := some line }

/-- A line of a joist queue is hot. -/
def Hub.isHot (h : Hub) (j line : Nat) : Bool :=
  (tget {} h.swc.hot j).lines.any fun x => decide (x.line = line) && x.hot

/-- An AT of an operation that may be combined (R128): ADD, AND, OR, XOR, MAX or MIN. -/
def combinable (p : Packet) : Bool := decide (p.opc = opcAt) && decide (p.md ≠ 4) && decide (p.md ≠ 5)

/-- Two ATs agree in what a group needs (R128). An AT that names a peg mode shares no group, since its home refuses it (R75) where it
would perform the others (R47). -/
def sameGroup (a b : Packet) : Bool :=
  decide (a.pgm = 0) && decide (b.pgm = 0) &&
  decide (a.loc = b.loc) && decide (a.md = b.md) && decide (a.aux40.getLsbD 0 = b.aux40.getLsbD 0) &&
  decide (a.part = b.part) && decide (a.kslot = b.kslot) && decide (a.kep = b.kep)

/-- A queue entry holds a packet of a source-destination pair. -/
def Held.hasPair (x : Held) (p : Packet) : Bool :=
  x.members.any fun y => decide (y.pkt.src = p.src) && decide (y.pkt.dst = p.dst)

/-- The queue with an AT joined to the first group that may take it (R128): `none` where none may. Members of the group itself do not
lie between its head and the AT (DESIGN CHOICE, log entry 37). -/
def joinGroup (m : Joined) : List Held → Option (List Held)
  | [] => none
  | x :: r =>
    if x.group ≠ [] ∧ sameGroup x.pkt m.pkt ∧ x.group.length < 64 ∧ ¬ (r.any fun y => y.hasPair m.pkt) then
      some ({ x with group := x.group ++ [m] } :: r)
    else (joinGroup m r).map (x :: ·)

/-- The packet at the tail of its queue, on a hot line joined to a group or at the head of its own (R128). `none` where the AT
fails its CHK. -/
def Hub.enqueue (h : Hub) (out cls : Nat) (x : Held) : Option Hub :=
  let l := h.qlist out cls
  if out < 72 ∧ cls = 0 ∧ h.bit rHotCtl 32 ∧ counted x.pkt then
    let t := h.trackLine (tget {} h.swc.hot out) (lineOf x.pkt)
    let h := { h with swc := { h.swc with hot := tset {} h.swc.hot out t } }
    if h.isHot out (lineOf x.pkt) && combinable x.pkt then
      if !x.pkt.chkOk then none
      else match x.members.head?.bind fun m => joinGroup m l with
        | some l => some (h.setQ out cls l)
        | none => some (h.setQ out cls (l ++ [{ x with group := x.members }]))
    else some (h.setQ out cls (l ++ [x]))
  else some (h.setQ out cls (l ++ [x]))

/-- Where an injected uncorrectable error of the buffer lies in a packet (R116, R379): in its header, `some true`, or in another of its
32-byte words; the free value chooses the word (log entry 12). -/
def upsetOf (p : Packet) (mask draw : Nat) : Option Bool :=
  if codeMends mask then none else some (decide (p.len = 0) || decide (draw / 64 % ceilDiv p.size 32 = 0))

/-- QUEUE_ADMIT (R111, R112, R114): the head of a receive buffer, in arrival order among the waiters of its queue; the bank's
station sets PH (R40). A FLUSH of a pair that has lost a packet is discarded (R100). -/
def execQueueAdmit (ing : Ingress) (vc : Fin 10) (s : State) : Host.Outcome State Fault Refusal :=
  onHub (fun h =>
    match h.rxHead ing vc.val with
    | none => h
    | some x =>
      match x.route with
      | some (.queue out) =>
        if h.lostFlush x.pkt then h.dropRx x else
        let cls := x.pkt.cls.toNat
        let first := h.swc.rx.find? fun y => decide (y.route = some (.queue out)) && decide (y.pkt.cls = x.pkt.cls)
        let n := x.pkt.cells
        if (first.map (·.pid) = some x.pid) ∧
            admits (cellsOf (h.qlist out cls)) (h.qmin cls) (h.qcap out cls) (h.qalpha cls) h.poolFree n then
          let bank := h.pickBank (h.drawn.toNat % 64) n
          let bad := h.injected fltSwc 5
          let p := { x.pkt with ph := true }
          let x' := { x with bank := bank, vc := p.chan, pkt := p, upset := upsetOf p bad h.drawn.toNat }
          match (((h.dropRx x).redraw).injectDone bad).enqueue out cls x' with
          | some h => h
          | none => (h.dropRx x).raiseNak x nakCheck
        else h
      | _ => h) s

/-- The window of the trackers in ns (Table 4.7). -/
def Hub.hotWindow (h : Hub) : Nat := max 100 (h.fld rHotCtl 16 16)

/-- HOT_WINDOW_END (R127), once WINDOW_NS have passed. -/
def execHotWindowEnd (j : Fin 72) (s : State) : Host.Outcome State Fault Refusal :=
  onHub (fun h =>
    let t := tget {} h.swc.hot j.val
    if h.now < t.since + h.hotWindow then h else
    let ls : List HotLine := t.lines.map fun (x : HotLine) => ({ x with hot := x.hot && decide (h.hotThresh < x.count) } : HotLine)
    let fresh (l : Nat) : HotLine := { line := l, count := 0, hot := false }
    let ls : List HotLine := match t.other with
      | none => ls
      | some o =>
        match ls.findIdx? (fun (x : HotLine) => !x.hot) with
        | some i => ls.set i (fresh o)
        | none => ls
    let t' : HotTrack := { since := h.now, lines := ls.map fun (x : HotLine) => ({ x with count := 0 } : HotLine) }
    { h with swc := { h.swc with hot := tset {} h.swc.hot j.val t' } }) s

/-- DRAIN_RATE_WINDOW (R113), once 10 µs have passed: a window in which the queue was never empty gives the rate. One that ends late is
no 10 µs window, and gives none. -/
def execDrainRateWindow (out : Fin 88) (cls : Fin 5) (s : State) : Host.Outcome State Fault Refusal :=
  onHub (fun h =>
    let k := qkey out.val cls.val
    let r := tget {} h.swc.rates k
    if h.now < r.since + 10000 then h else
    let busy := decide (h.qlist out.val cls.val ≠ [])
    let r' : Rate := { since := h.now, sent := 0, busy := busy,
                       last := if r.busy && busy && decide (h.now = r.since + 10000) then r.sent else r.last }
    { h with swc := { h.swc with rates := tset {} h.swc.rates k r' } }) s

/-! ### Transmission -/

/-- Cells sent counted in the window of a queue, and the window spoilt where the queue has run empty (R113). -/
def Hub.rateNote (h : Hub) (out cls cells : Nat) : Hub :=
  let k := qkey out cls
  let w := tget {} h.swc.rates k
  let w' : Rate := { w with sent := w.sent + cells, busy := w.busy && decide (h.qlist out cls ≠ []) }
  { h with swc := { h.swc with rates := tset {} h.swc.rates k w' } }

/-- The queue after its head has been sent; what a multicast head had reserved is free again. -/
def Hub.popQ (h : Hub) (out cls : Nat) : Hub :=
  match h.qlist out cls with
  | [] => h
  | x :: r =>
    let h := (h.setQ out cls r).rateNote out cls x.cells
    { h with swc := { h.swc with resv := tset [] h.swc.resv (qkey out cls) [] } }

/-- The queue after its head has been discarded: no cell of it was sent. -/
def Hub.dropQ (h : Hub) (out cls : Nat) : Hub :=
  match h.qlist out cls with
  | [] => h
  | _ :: r =>
    let h := (h.setQ out cls r).rateNote out cls 0
    { h with swc := { h.swc with resv := tset [] h.swc.resv (qkey out cls) [] } }

/-- The packet as it leaves: GH set on a girt (R40); CHK inverted where a word other than the header is bad (R116). -/
def outgoing (out : Nat) (x : Held) : Packet :=
  let p := if 72 ≤ out ∧ out < 78 then { x.pkt with gh := true } else x.pkt
  if x.upset = some false then { p with chk := ~~~ p.chk } else p

/-- The one AT that a combine group leaves as (R128): from the hub's own node, the operands folded, FETCH if any member asked. Its REP
is the epoch at sending (DESIGN CHOICE, log entry 37). -/
def Hub.combinedOf (h : Hub) (g : List Packet) : Packet :=
  let p := g.headD {}
  let n := p.atWidth
  let v := (g.drop 1).foldl (fun a q => atResult p.md.toNat n a q.atOperand 0) p.atOperand
  { p with src := h.self, flow := 0, ph := true, rep := h.epoch, payload := leBytes n v,
           aux40 := BitVec.ofNat 40 (bit01 (p.aux40.getLsbD 0) + 2 * bit01 (g.any Packet.fetch)) }

/-- An entry whose cells are read: a packet with a bad header is discarded and counted (R116); what is left. -/
def Hub.readHead (h : Hub) (out cls : Nat) (x : Held) : Hub :=
  let bad := x.members.filter fun m => decide (m.upset = some true)
  let h := bad.foldl (fun h _ => (h.count rBufUncorr).reportInternal fltSwc 5) h
  match x.regroup (x.members.filter fun m => decide (m.upset ≠ some true)) with
  | none => h.dropQ out cls
  | some y => h.setQ out cls ((if x.group = [] then y.alone (y.group.headD {}) else y) :: (h.qlist out cls).drop 1)

/-- The head of a queue sent on its link. A combine group leaves as one AT with a CHK of the hub's own, inverted where a member's
operand was read with an uncorrectable error (R116, log entry 23). -/
def Hub.sendHead (h : Hub) (out cls : Nat) (x : Held) : Hub :=
  if x.group = [] then
    let p := outgoing out x
    if h.canSend out p then
      let h := h.popQ out cls
      let h := if x.upset.isSome then h.reportInternal fltSwc 5 else h
      h.transmit out { x with pkt := p }
    else h
  else
    match h.drawTag h.self with
    | none => h
    | some t =>
      let p := Packet.sealChk ({ h.combinedOf (x.group.map (·.pkt)) with tag := BitVec.ofNat 12 t } : Packet)
      let spoilt := x.group.any fun m => m.upset.isSome
      let sent := if spoilt then { p with chk := ~~~ p.chk } else p
      if h.canSend out p then
        let h := h.popQ out cls
        let h := if spoilt then h.reportInternal fltSwc 5 else h
        let o : Outstanding := { node := h.self, tag := t, agent := .combined, pkt := p, deadline := h.now + h.reqTimeout,
                                 epoch := h.epoch, cont := .combined x.group }
        let h := { h with sill := { h.sill with out := h.sill.out ++ [o] }, swc := { h.swc with nextPid := h.swc.nextPid + 1 } }
        h.transmit out { x with pid := h.swc.nextPid - 1, pkt := sent }
      else h

/-! ### Multicast (R121 to R123) -/

/-- The node of the peer hub on a girt pair, as its last token or its PROOF names it. -/
def Hub.pairNode (h : Hub) (n : Nat) : Node :=
  match (h.port (72 + 2 * n)).peer with
  | some p => p
  | none => ((h.port (73 + 2 * n)).peer).getD 0

/-- The girt port of a pair that a multicast copy takes (R121). -/
def Hub.girtCopyPort (h : Hub) (p : Packet) (n : Nat) : Nat :=
  h.pairMember n (flowHash (h.fld rHashSeed 0 32) p.src.toNat (h.pairNode n).toNat p.flow.toNat)

/-- The node that the image maps to a joist (R17). -/
def Hub.joistNode (h : Hub) (j : Nat) : Node := BitVec.ofNat 10 (tget 0 h.brd.joists j)

/-- Joist bits of a mask. -/
def maskJoists (m : Nat) : List Nat := (List.range 72).filter m.testBit

/-- A joist bit added to the girt copy of a pair (R123): to the pair's copy if there is one, else to a new one. -/
def Hub.addVia (h : Hub) (p : Packet) (via : List (Nat × Nat)) (pair j : Nat) : List (Nat × Nat) :=
  if via.any fun v => decide ((v.1 - 72) / 2 = pair) then
    via.map fun v => if (v.1 - 72) / 2 = pair then (v.1, v.2 ||| 2 ^ j) else v
  else via ++ [(h.girtCopyPort p pair, 2 ^ j)]

/-- The copies of a multicast packet against the ports that are up now: (joist copies, girt copies, copies not sent) (R123). -/
def Hub.copies (h : Hub) (girt : Bool) (x : Held) : List Nat × List (Nat × Nat) × Nat :=
  let js := maskJoists x.pkt.mask
  let up := js.filter h.portUp
  let down := js.filter fun j => !h.portUp j
  let pairOf (j : Nat) : Option Nat := if girt then none else (h.detourOf j).map (·.pair)
  let lost := (down.filter fun j => (pairOf j).isNone).length
  let via := down.foldl (fun v j => match pairOf j with | some n => h.addVia x.pkt v n j | none => v) x.via
  let place (v : Nat × Nat) : Option (Nat × Nat) :=
    if h.portUp v.1 then some v
    else
      let other := if v.1 % 2 = 0 then v.1 + 1 else v.1 - 1
      if h.portUp other then some (other, v.2) else none
  let sent := via.filterMap place
  (up, sent, lost + (via.length - sent.length))

/-- The copy for a joist (R40): DST is the receiving node and the mask zero. -/
def Hub.joistCopy (h : Hub) (x : Held) (j : Nat) : Held :=
  { x with pkt := Packet.setMask ({ outgoing j x with dst := h.joistNode j } : Packet) 0 }

/-- The copy for a girt port (R122). -/
def girtCopy (x : Held) (g m : Nat) : Held := { x with pkt := (outgoing g x).setMask m }

/-- The outputs that a multicast head reserves, in ascending order, the local target (88) last (R123), each with the packet that it
sends there. -/
def Hub.resvPlan (h : Hub) (x : Held) (js : List Nat) (gs : List (Nat × Nat)) : List (Nat × Packet) :=
  (js.map fun j => (j, (h.joistCopy x j).pkt)) ++ (gs.mergeSort fun a b => decide (a.1 ≤ b.1)).map (fun g => (g.1, (girtCopy x g.1 g.2).pkt)) ++
    (if x.pkt.mask.testBit 78 then [(88, x.pkt)] else [])

/-- One reservation can be taken: a staging slot and credit at a port, or credit at the local target. -/
def Hub.canReserve (h : Hub) (x : Held) (r : Nat × Packet) : Bool :=
  if r.1 = 88 then decide (inboxCells h.sill.colr x.vc + h.inboxHeld { opc := opcColr } x.vc + x.pkt.cells ≤ 8 + Config.extraLocalCells)
  else h.canSend r.1 r.2

/-- The reservations of a plan that are held or can be taken now, in order up to the first that cannot. -/
def Hub.takeResv (h : Hub) (x : Held) (held : List Nat) : List (Nat × Packet) → List Nat
  | [] => []
  | r :: rs => if held.contains r.1 || h.canReserve x r then r.1 :: h.takeResv x held rs else []

/-- The reservations that the head of MCO or MCG holds. -/
def Hub.resvOf (h : Hub) (out cls : Nat) : List Nat := tget [] h.swc.resv (qkey out cls)

/-! ### The passing of time -/

/-- A head of MCO or MCG waits for its reservations (R123). -/
def Hub.mcWaits (h : Hub) : Bool :=
  [86, 87].any fun out => (List.range 5).any fun c => match h.qlist out c with
    | [] => false
    | x :: _ =>
      let (js, gs, _) := h.copies (decide (out = 87)) x
      let plan := h.resvPlan x js gs
      decide ((h.takeResv x (h.resvOf out c) plan).length < plan.length)

/-- The cycles that the clock of each clocked bay makes in one nanosecond of the hub's own timer, in no fixed ratio to it (R272). -/
def Hub.bayCycles (h : Hub) : Table Nat :=
  (List.range 64).foldl (fun c b => if bitAt (h.reg rClkBay) b then tset 0 c b (tget 0 c b + Config.bayCycles b h.now) else c) h.bays.cycles

/-- The hub with its own timer one nanosecond on; the timer counts from the AON power-on reset (R449). TRS_RSV_WAIT counts the two
cycles of the 2.0 GHz clock in which a multicast head waited. -/
def Hub.tick (h : Hub) : Hub :=
  if h.brd.aonReset && !h.brd.supplies then h
  else
    let h := if h.alive && h.mcWaits then h.countBy rTrsWait 2 else h
    { h with now := h.now + 1, bays := { h.bays with cycles := h.bayCycles } }

/-! ### Age (R55, R100, R109) -/

/-- A pair entered in the loss record, or the overflow time set (R100). -/
def Hub.recordLoss (h : Hub) (src dst : Node) : Hub :=
  let t := h.now + 4 * h.lifetime
  let l := h.swc.losses
  if l.any fun e => decide (e.src = src) && decide (e.dst = dst) then
    { h with swc := { h.swc with losses := l.map fun e => if e.src = src ∧ e.dst = dst then { e with until_ := t } else e } }
  else if l.length < 64 then { h with swc := { h.swc with losses := l ++ [{ src := src, dst := dst, until_ := t }] } }
  else { h with swc := { h.swc with overflow := max h.swc.overflow t } }

/-- An age discard: counted, and a REQ-class packet's pair enters the loss record. -/
def Hub.ageDiscard (h : Hub) (p : Packet) : Hub :=
  let h := h.count rAgeDrop
  if p.cls = 0 then h.recordLoss p.src p.dst else h

/-- A packet has been held for longer than the packet lifetime (R109). -/
def Hub.tooOld (h : Hub) (at_ : Nat) : Bool := decide (at_ + h.lifetime < h.now)

/-- The head of a queue checked for age: of a combine group each member by its own arrival (DEDUCED, log entry 37). -/
def Hub.ageHead (h : Hub) (out cls : Nat) (x : Held) : Hub :=
  let h' := (x.members.filter fun m => h.tooOld m.at_).foldl (fun h m => h.ageDiscard m.pkt) h
  match x.regroup (x.members.filter fun m => !h.tooOld m.at_) with
  | none => h'.dropQ out cls
  | some y => if x.group = [] then h else h'.setQ out cls (y :: (h.qlist out cls).drop 1)

/-- PACKET_AGE_DISCARD (R109). -/
def execPacketAgeDiscard (place : Place) (s : State) : Host.Outcome State Fault Refusal :=
  onHub (fun h =>
    match place with
    | .rx ing vc =>
      match h.rxHead ing vc.val with
      | some x => if h.tooOld x.at_ then ((h.sample x).dropRx x).ageDiscard x.pkt else h
      | none => h
    | .queue out cls =>
      match h.qlist out.val cls.val with
      | x :: _ => h.ageHead out.val cls.val x
      | [] => h) s

/-- LOSS_RECORD_EXPIRY (R100): an entry whose four lifetimes have passed, or the overflow time. -/
def execLossRecordExpiry (pair : Option (Node × Node)) (s : State) : Host.Outcome State Fault Refusal :=
  onHub (fun h =>
    match pair with
    | some (src, dst) =>
      { h with swc := { h.swc with losses := h.swc.losses.filter fun e =>
          !(decide (e.src = src) && decide (e.dst = dst) && decide (e.until_ ≤ h.now)) } }
    | none => if h.swc.overflow ≤ h.now then { h with swc := { h.swc with overflow := 0 } } else h) s

/-- The members of a combined AT answered in group order (R129): a fetching member receives the home's value folded with the
operands before it; the others an RSP ACK. -/
def Hub.answerGroup (h : Hub) (v : Nat) : List Joined → Hub
  | [] => h
  | m :: r =>
    let p := m.pkt
    let h := h.injectAt .inner (if p.fetch then p.dataOf (leBytes p.atWidth v) else p.ackOf)
    h.answerGroup (atResult p.md.toNat p.atWidth v p.atOperand 0) r

/-- Every member of a combined AT that the home NAKed receives a NAK with the same STAT and NKN (R129); a discard of it counts where
its request entered (R65). -/
def Hub.nakGroup (h : Hub) (nak : Packet) (g : List Joined) : Hub :=
  g.foldl (fun h m => h.injectFor (some m.ing) .inner { m.pkt.nakOf nak.stat.toNat 0 with aux40 := nak.aux40 }) h

/-! ### Counts over the hub's packets (R134, R350) -/

/-- Every packet in the hub: in receive buffers, in queues, and sent but not acknowledged. -/
def Hub.allHeld (h : Hub) : List Held :=
  h.swc.rx ++ (h.swc.queues.flatMap (·.2)) ++ h.links.ports.flatMap fun p => p.2.unacked.flatMap (·.pkts)

/-- The packets that an entry stands for, by identity: its own and the members of its combine group. -/
def Held.parts (x : Held) : List (Nat × Packet) := (x.pid, x.pkt) :: x.group.map fun m => (m.pid, m.pkt)

/-- The packets that satisfy a test, each counted once however many copies of it remain. -/
def Hub.countPackets (h : Hub) (t : Packet → Bool) : Nat :=
  (((h.allHeld.flatMap Held.parts).filter fun x => t x.2).map (·.1)).dedup.length

/-- The drain count of an epoch (R134). -/
def Hub.drainCount (h : Hub) (e : Bool) : Nat := h.countPackets fun p => decide (p.rep = e)

/-- INFLIGHT of a key slot (R350). -/
def Hub.inflight (h : Hub) (slot : Nat) : Nat := h.countPackets fun p => decide (p.kslot.toNat = slot)

end Sys2Proof.Machine
end

