-- ==== Sys2Proof/Machine/Scribe.lean ====
section
/-! DEFINITION. Address translation (chapter 10): contexts, entries, the walk, the look-aside buffers and their invalidation. -/
namespace Sys2Proof.Machine

/-! ### Contexts (R277) -/

/-- A bit of the configuration register of a context. -/
def Hub.ctxBit (h : Hub) (c i : Nat) : Bool := h.bit (rCtxCfg c) i
/-- KIND is host. -/
def Hub.ctxHost (h : Hub) (c : Nat) : Bool := h.ctxBit c 62
/-- LAYOUT of a context. -/
def Hub.ctxLayout (h : Hub) (c : Nat) : Bool := h.ctxBit c 60
/-- FUNC of a context. -/
def Hub.ctxFunc (h : Hub) (c : Nat) : Nat := h.fld (rCtxCfg c) 55 5
/-- The levels of a context. -/
def Hub.ctxLevels (h : Hub) (c : Nat) : Nat := if h.ctxBit c 61 then 5 else 4

/-- A context translates for an agent of a partition (`none`: a system agent) (R277). -/
def Hub.ctxOk (h : Hub) (c : Nat) (sys : Bool) (part : Option Nat) : Bool :=
  h.ctxBit c 63 && decide (h.ctxBit c 47 = sys) && (sys || decide (part = some (h.fld (rCtxCfg c) 48 4)))

/-! ### Fault causes (Table 10.8) and rights -/

def xlNotValid : Nat := 1
def xlRights : Nat := 2
def xlMalformed : Nat := 3
def xlNoncanon : Nat := 4
def xlOutDenied : Nat := 5
def xlWalkErr : Nat := 6
def xlCtxInvalid : Nat := 7
def xlRange : Nat := 8
def xlTableDenied : Nat := 9

/-- Rights: read, write, and all three (R284). -/
def needR : Nat := 1
def needW : Nat := 2
def needA : Nat := 7

/-- The rights of `need` are all in `have_`. -/
def rightsIn (need have_ : Nat) : Bool := decide (need &&& have_ = need)

/-- A virtual address is canonical in a context (R279). -/
def Hub.canonical (h : Hub) (c va : Nat) : Bool :=
  decide (h.ctxLevels c = 5) || decide (va >>> 47 % 2 ^ 10 = 0) || decide ((va >>> 47) % 2 ^ 10 = 2 ^ 10 - 1)

/-! ### Entries (R282, R283) -/

/-- What an entry is at a level. -/
inductive Entry where
  | invalid
  | malformed
  | table (addr rights : Nat)
  | leaf (addr rights : Nat) (nc : Bool)
  deriving DecidableEq, Repr

/-- An entry of layout 0 (Table 10.4). -/
def entry0 (e : Word) (lvl : Nat) : Entry :=
  let addr := bitsGet e 12 40 * 4096
  let rw := bit01 (bitAt e 1) + 2 * bit01 (bitAt e 2)
  if !bitAt e 0 then .invalid
  else if 4 ≤ lvl then (if bitAt e 7 then .malformed else .table addr (rw + 4))
  else if lvl = 1 ∨ bitAt e 7 then .leaf addr (rw + 4 * bit01 (bitAt e 59)) (bitAt e 58)
  else .table addr (rw + 4)

/-- An entry of layout 1 (Table 10.5). -/
def entry1 (e : Word) (lvl : Nat) : Entry :=
  let addr := bitsGet e 12 40 * 4096
  let ty := bitsGet e 0 2
  if ty = 0 then .invalid
  else if ty = 3 then .malformed
  else if ty = 1 then (if lvl = 1 then .malformed else .table addr 7)
  else if 4 ≤ lvl then .malformed
  else .leaf addr ([0, 1, 3, 7].getD (bitsGet e 4 2) 0) (bitAt e 6)

/-- An entry of a context. -/
def Hub.entry (h : Hub) (c : Nat) (e : Word) (lvl : Nat) : Entry := if h.ctxLayout c then entry1 e lvl else entry0 e lvl

/-- The size that a leaf of a level maps. -/
def leafSize (lvl : Nat) : Nat := 2 ^ (12 + 9 * (lvl - 1))
/-- The index of a virtual address at a level. -/
def levelIndex (va lvl : Nat) : Nat := (va >>> (9 * lvl + 3)) % 512

/-! ### Tables and outputs (R285, R286) -/

/-- An FA of this hub's own node in its HBM3E or LPDDR5X window. -/
def Hub.inPool (h : Hub) (fa : Nat) : Bool := decide (faNode fa = h.self) && decide (faOff fa < 0xC000000000)

/-- The system's memory (R486): populated memory that packets can reach and that lies in no region of a partition. -/
def Hub.systemMem (h : Hub) (o : Nat) : Bool := h.memThere o 1 && decide (h.regionPart o = none)

/-- check_table (R286). -/
def Hub.tableOk (h : Hub) (c t : Nat) : Bool :=
  h.ctxHost c || (h.inPool t && (decide (h.regionPart (faOff t) = some (h.fld (rCtxCfg c) 48 4)) || h.systemMem (faOff t)))

/-- The FA of a table address: through the function for KIND host. -/
def Hub.tableFa (h : Hub) (c t : Nat) : Nat := if h.ctxHost c then faOf (h.funcNode (h.ctxFunc c)) t else t

/-- The FA that a leaf's output becomes, or the cause of a fault (R285). -/
def Hub.output (h : Hub) (c out : Nat) : Nat ⊕ Nat :=
  if h.ctxHost c then (if out / 2 ^ 42 ≠ 0 then .inr xlRange else .inl (faOf (h.funcNode (h.ctxFunc c)) out))
  else
    let sys := h.ctxBit c 47
    let p := h.fld (rCtxCfg c) 48 4
    let ok := if faNode out = h.self then
        h.inPool out && (if sys then h.systemMem (faOff out) else decide (h.regionPart (faOff out) = some p))
      else sys || h.inDset p (faNode out)
    if ok then .inl out else .inr xlOutDenied

/-! ### Look-aside buffers (R287 to R289) -/

/-- The die of a bay: 0 West, 1 East. -/
def bayDie (b : Nat) : Nat := bit01 (!bayWest b)

/-- A buffer entry that covers an address. -/
def Lookaside.hit (x : Lookaside) (tag va : Nat) : Bool :=
  decide (x.tag = tag) && decide (x.va ≤ va) && decide (va < x.va + x.size)

/-- The entries of a buffer. -/
def Hub.buffer (h : Hub) (k : Nat) : List Lookaside := tget [] h.scr.buffers k
/-- The capacity of a buffer (R287). -/
def bufCap (k : Nat) : Nat := if k < 64 then 512 else if k < 66 then 16384 else 256

/-- An entry used or installed: the most recent of its buffer; the least recently used gives way in a full one. -/
def Hub.bufUse (h : Hub) (k : Nat) (x : Lookaside) : Hub :=
  let l := (h.buffer k).filter fun y => !decide ({ y with bad := 0 } = { x with bad := 0 })
  let l := if bufCap k ≤ l.length then l.drop 1 else l
  { h with scr := { h.scr with buffers := tset [] h.scr.buffers k (l ++ [x]) } }

/-- An entry written into a buffer, an armed injection stored with it (R379). -/
def Hub.bufPut (h : Hub) (k : Nat) (x : Lookaside) : Hub :=
  let m := h.injected fltScr 44
  (h.injectDone m).bufUse k { x with bad := m }

/-- An entry of a buffer read and used: one that does not mend is dropped, and every error is a CORRECTED event (R305). -/
def Hub.bufRead (h : Hub) (k : Nat) (x : Lookaside) : Option Lookaside × Hub :=
  if x.bad = 0 then (some x, h.bufUse k x)
  else if codeMends x.bad then (some { x with bad := 0 }, (h.report fltScr .corrected 44).bufUse k { x with bad := 0 })
  else
    let h : Hub := { h with scr := { h.scr with buffers := tset [] h.scr.buffers k ((h.buffer k).filter fun y => !decide (y = x)) } }
    (none, h.report fltScr .corrected 44)

/-- The translation that a buffer holds of an address, and the hub after the use. -/
def Hub.bufGet (h : Hub) (k tag va : Nat) : Option Lookaside × Hub :=
  match (h.buffer k).find? fun x => x.hit tag va with
  | none => (none, h)
  | some x => h.bufRead k x

/-- A lookup in the bay's buffer and then in its die's (R289). -/
def Hub.lookup (h : Hub) (b tag va : Nat) : Option Lookaside × Hub :=
  match h.bufGet b tag va with
  | (some x, h) => (some x, h)
  | (none, h) =>
    match h.bufGet (64 + bayDie b) tag va with
    | (some x, h) => (some x, h.bufPut b x)
    | (none, h) => (none, h)

/-- The FA of an address by an entry. -/
def Lookaside.fetch (x : Lookaside) (va : Nat) : Nat := x.fa + (va - x.va)

/-- A leaf of a group as R288 compares it: its address, rights and NC. -/
def Hub.groupLeaf (h : Hub) (c lvl : Nat) (g : List Word) (i : Nat) : Option (Nat × Nat × Bool) :=
  match h.entry c (g.getD i 0) lvl with
  | .leaf a r nc => some (a, r, nc)
  | _ => none

/-- Whether the run of 2^k entries that holds entry `i` may merge (R288). -/
def Hub.runOk (h : Hub) (c lvl : Nat) (g : List Word) (i k : Nat) : Bool :=
  let n := 2 ^ k
  let s := i / n * n
  match h.groupLeaf c lvl g s with
  | none => false
  | some (a, r, nc) =>
    decide (a % (n * leafSize lvl) = 0) && (List.range n).all fun j =>
      decide (h.groupLeaf c lvl g (s + j) = some (a + j * leafSize lvl, r, nc)) &&
      (match h.output c (a + j * leafSize lvl) with
       | .inl _ => true
       | .inr _ => false)

/-- The entry that a walk ending at entry `i` of a group installs (R288). -/
def Hub.leafEntry (h : Hub) (c lvl va addr rights : Nat) (nc : Bool) (fa : Nat) (g : List Word) : Lookaside :=
  let i := levelIndex va lvl % 16
  let sz := leafSize lvl
  let k := ([4, 3, 2, 1].find? (h.runOk c lvl g i)).getD 0
  let off := (i % 2 ^ k) * sz
  { tag := h.ctxTag c, va := va / sz * sz - off, size := 2 ^ k * sz, fa := fa - off - addr % sz,
    attrs := rights + 8 * bit01 nc, level := lvl }

/-! ### The walk (R280) -/

/-- What one level of a walk gives. -/
inductive WalkOut where
  | next (table rights : Nat)
  | found (x : Lookaside)
  | fault (cause level : Nat)
  deriving DecidableEq, Repr

/-- One level of a walk, from the group of 16 entries that it reads (R280, R281). -/
def Hub.walkLevel (h : Hub) (c va need lvl rights : Nat) (g : List Word) : WalkOut :=
  match h.entry c (g.getD (levelIndex va lvl % 16) 0) lvl with
  | .invalid => .fault xlNotValid lvl
  | .malformed => .fault xlMalformed lvl
  | .table a r => .next a (rights &&& r)
  | .leaf a r nc =>
    let rights := rights &&& r
    if a % leafSize lvl ≠ 0 then .fault xlMalformed lvl
    else if !rightsIn need rights then .fault xlRights lvl
    else match h.output c (a + va % leafSize lvl) with
      | .inr cause => .fault cause lvl
      | .inl fa => .found (h.leafEntry c lvl va a rights nc (fa - va % leafSize lvl) g)

/-- The offset of the 128-byte group of a level within its table (R281). -/
def groupOff (va lvl : Nat) : Nat := levelIndex va lvl / 16 * 128

/-- The words of a group in this hub's pool memory; none at a read that fails (R286). -/
def Hub.poolGroup (h : Hub) (fa : Nat) : Option (List Word) × Hub :=
  if h.memThere (faOff fa) 128 then
    match h.memRead (faOff fa) 128 with
    | (none, h) => (none, h)
    | (some bs, h) => (some (leWords 16 bs), h)
  else (none, h)

/-- The non-leaf entry of a table just found (R287). -/
def Hub.nonLeaf (h : Hub) (c va lvl table rights : Nat) : Lookaside :=
  let span := leafSize (lvl + 1)
  { tag := h.ctxTag c, va := va / span * span, size := span, fa := table, attrs := rights, level := lvl }

/-- Where a walk starts (R289): the deepest cached table, which this use makes the most recent of its cache, or the root. -/
def Hub.walkStart (h : Hub) (b c va : Nat) : (Nat × Nat × Nat) × Hub :=
  let hits := (h.buffer (66 + bayDie b)).filter fun x => x.hit (h.ctxTag c) va
  let root := (h.ctxLevels c, h.fld (rCtxRoot c) 12 40 * 4096, 7)
  match hits with
  | [] => (root, h)
  | x :: r =>
    match h.bufRead (66 + bayDie b) (r.foldl (fun (a x : Lookaside) => if x.level < a.level then x else a) x) with
    | (some y, h) => ((y.level, y.fa, y.attrs), h)
    | (none, h) => (root, h)

/-- The hub with a walk's leaf entry in the bay's and the die's buffers. -/
def Hub.installLeaf (h : Hub) (b : Nat) (x : Lookaside) : Hub := (h.bufPut b x).bufPut (64 + bayDie b) x

/-- A buffered entry passes R285's check at an address: one of a 1 GiB page is checked where each access lands, since a region is
smaller than the page (DEDUCED, log entry 27). -/
def Hub.hitOk (h : Hub) (c : Nat) (x : Lookaside) (va : Nat) : Bool :=
  decide (x.level ≤ 2) || h.ctxHost c || (match h.output c (x.fetch va) with
    | .inl _ => true
    | .inr _ => false)

/-- A translation's outcome by an entry: the right may be missing, or the output refused. -/
def Hub.byEntry (h : Hub) (c : Nat) (x : Lookaside) (va need : Nat) : Xlate :=
  if !rightsIn need (x.attrs % 8) then .fault xlRights x.level
  else if h.hitOk c x va then .ok (x.fetch va) x.attrs else .fault xlOutDenied x.level

/-- The first checks of a translation and the lookup (R277, R279, R289). -/
def Hub.tryXlate (h : Hub) (b c : Nat) (sys : Bool) (part : Option Nat) (va need : Nat) : Xlate × Hub :=
  if !h.ctxOk c sys part then (.fault xlCtxInvalid 0, h)
  else if !h.canonical c va then (.fault xlNoncanon 0, h)
  else match h.lookup b (h.ctxTag c) va with
    | (some x, h) => (h.byEntry c x va need, h)
    | (none, h) => (.miss, h)

/-! ### What the operations under way have gathered -/

/-- What an operation has gathered; nothing for one that has gathered none. -/
def Hub.work (h : Hub) (r : Reader) : Work := (h.sill.works.find? fun w => decide (w.key = r)).getD { key := r }

/-- The hub with what an operation has gathered changed. -/
def Hub.setWork (h : Hub) (r : Reader) (xl : List ((Nat × Nat) × Xlate)) (got : List Fetch) : Hub :=
  { h with sill := { h.sill with works := (h.sill.works.filter fun w => !decide (w.key = r)) ++
      (if xl = [] ∧ got = [] then [] else [{ key := r, xl := xl, got := got }]) } }

/-- The hub without the misses of an operation that wait or are under walk. -/
def Hub.dropMisses (h : Hub) (r : Reader) : Hub :=
  let mine (m : Miss) : Bool := decide (m.who = .reader r)
  { h with scr := { h.scr with
    misses := h.scr.misses.filter fun m => !mine m
    walks := h.scr.walks.map fun w => (w.1, w.2.map fun x => { x with misses := x.misses.filter fun m => !mine m }) } }

/-- An operation gathers afresh: its next tile begins, or it has ended. -/
def Hub.endWork (h : Hub) (r : Reader) : Hub := (h.setWork r [] []).dropMisses r

/-- The translation of a page for an operation, kept until its tile is done: a tile is translated as a whole (R291). -/
def Hub.noteXlate (h : Hub) (r : Reader) (page need : Nat) (x : Xlate) : Hub :=
  let w := h.work r
  h.setWork r ((w.xl.filter fun y => !decide (y.1 = (page, need))) ++ [((page, need), x)]) w.got

/-- Two misses share a walk (R290): the same tag and the same 128-byte leaf group. -/
def Hub.shareWalk (h : Hub) (a b : Miss) : Bool :=
  decide (h.ctxTag a.ctx = h.ctxTag b.ctx) && decide (a.va / 65536 = b.va / 65536)

/-- A miss that waits, or is under walk. -/
def Hub.missHere (h : Hub) (m : Miss) : Bool :=
  h.scr.misses.contains m || h.scr.walks.any fun w => match w.2 with
    | some y => y.misses.contains m
    | none => false

/-- A demand miss queued, once; a full queue of 256 takes none, and the access tries again (R290). -/
def Hub.addMiss (h : Hub) (m : Miss) : Hub :=
  if h.missHere m || decide (256 ≤ h.scr.misses.length) then h
  else { h with scr := { h.scr with misses := h.scr.misses ++ [m] } }

/-! ### Fault latches (R292) -/

/-- A bay's translation fault latched: the first in SCR_BFLT, later ones in OVF. -/
def Hub.latchXlate (h : Hub) (b c agent th side lvl cause va : Nat) : Hub :=
  if h.bit (rBflt b) 63 then h.setFld (rBflt b) 62 1 1
  else
    (h.setReg (rBflt b) (BitVec.ofNat 64 (2 ^ 63 + c % 256 * 2 ^ 24 + agent * 2 ^ 20 + th * 2 ^ 16 + side * 2 ^ 11
      + lvl * 2 ^ 8 + cause))).setReg (rBfltVa b) (BitVec.ofNat 64 (va % 2 ^ 57))

/-! ### Invalidation (R294) -/

/-- The agent of an outstanding request uses a tag. -/
def Hub.usesTag (h : Hub) (a : Agent) (tag : Nat) : Bool :=
  match a with
  | .thread b t => decide (h.ctxTag (h.fld (rTctl b t) 40 8) = tag)
  | .queue b e q => decide (h.ctxTag (h.fld (rQcfgBay b e q) 48 8) = tag)
  | .member (.queue b q) => decide (h.ctxTag (h.fld (rQcfgBay b 3 q) 48 8) = tag)
  | _ => false

/-- A thread's access that an invalidation must wait for: one that has been translated or is being walked for (R294). -/
def Thread.accessing (x : Thread) : Bool :=
  decide (x.state = .run) && (match x.wait with
    | .load .. => true
    | .store _ => true
    | .atomic .. => true
    | .walk => true
    | .walked .. => true
    | _ => false)

/-- The packets of posted writes of the agents that use a tag, which are still in this hub: the queues of an engine, and the threads of
a bay, share a posted tag (R72). -/
def Hub.postedUnder (h : Hub) (tag : Nat) : List Nat :=
  let low (p : Packet) : Nat := p.tag.toNat % 256
  let mine (p : Packet) : Bool := decide (p.opc = opcWr) && decide (p.src = h.self) && decide (low p ≠ 0xFF) &&
    (if low p % 4 = 2 then (List.range 16).any fun t => h.usesTag (.thread (low p / 4) t) tag
     else (List.range 4).any fun q => h.usesTag (.queue (low p / 4) (low p % 4) q) tag)
  ((h.swc.rx ++ h.swc.queues.flatMap (·.2) ++ h.sill.reqs).filter fun x => mine x.pkt).map (·.pid)

/-- What an invalidation of a tag waits for (R294): the tagged requests of its agents, the tiles that their descriptors and members have
translated, the accesses of their threads, and their posted writes still in this hub. -/
def Hub.invWaits (h : Hub) (tag : Nat) : Hub :=
  let reqs := (h.sill.out.filter fun o => h.usesTag o.agent tag).map fun o => (o.tag, o.deadline)
  let qs := (h.bays.queues.filter fun q =>
    let a : Agent := .queue (q.1 / 16) (q.1 % 16 / 4) (q.1 % 4)
    decide (q.2.phase ≠ .none) && h.usesTag a tag &&
      (decide ((h.work (.queue (q.1 / 16) (q.1 % 16 / 4) (q.1 % 4))).xl ≠ []) || h.waitsTag a)).map fun q => (q.1, q.2.count, q.2.tile)
  let ths := (h.bays.threads.filter fun t => h.usesTag (.thread (t.1 / 16) (t.1 % 16)) tag &&
    (t.2.accessing || h.waitsTag (.thread (t.1 / 16) (t.1 % 16)))).map fun t => (t.1, t.2.pc)
  let ms := (h.coll.members.filter fun m => h.usesTag (.member m.of_) tag && decide ((h.work (.member m.id)).xl ≠ [])).map (·.id)
  { h with scr := { h.scr with busyMem := h.scr.busyMem ++ ms, busyReq := h.scr.busyReq ++ reqs, busyQ := h.scr.busyQ ++ qs, busyTh := h.scr.busyTh ++ ths,
                               busyPid := h.scr.busyPid ++ h.postedUnder tag } }

/-- The start of an invalidation: BUSY, every entry and read-cache line with the tag removed, walks in progress not to be
installed, and what must end before BUSY clears. -/
def Hub.invalidateStart (h : Hub) (tag : Nat) : Hub :=
  let h := (h.setFld rScrInv 63 1 1).invWaits tag
  let bufs := h.scr.buffers.map fun x => (x.1, x.2.filter fun y => !decide (y.tag = tag))
  let walks := h.scr.walks.map fun w =>
    (w.1, w.2.map fun x => if x.misses.any fun m => decide (h.ctxTag m.ctx = tag) then { x with stale := true } else x)
  let h := { h with scr := { h.scr with buffers := bufs.filter fun x => !decide (x.2 = []), walks := walks } }
  (List.range 64).foldl (fun h b => h.invalidateTag b tag) h

end Sys2Proof.Machine
end

