-- ==== Sys2Proof/Machine/EngineOps.lean ====
section
/-! DEFINITION. How engines, members, opens and host transfers reach memory: bay addresses (R217, R218), translation page by page
(R291), reads as RD packets with and without the read cache (R92, R233), writes as WR and WRA packets (R233, R236). An operation is
restartable: each time it runs it goes as far as it can, and where it must wait for a walk or an answer it keeps what it has gathered
(log entry 12). -/
namespace Sys2Proof.Machine

/-- For whom an access is made: the agent, the operation that gathers, its bay (none for a host function, an open or the sill), its
Scribe context and its SYS bit. -/
structure Who where
  agent : Agent
  key   : Reader
  bay   : Option Nat := none
  ctx   : Nat := 0
  sys   : Bool := false

/-- A failed access: status, node, and the virtual address of a translation fault. -/
structure Bad where
  status : Nat
  node   : Nat := 0
  va     : Nat := 0
  deriving DecidableEq, Repr

/-- What a step of an operation gives: its value, a failure, or nothing yet, for it waits for a walk or an answer. -/
inductive Got (α : Type) where
  | ok (a : α)
  | bad (e : Bad)
  | wait
  deriving DecidableEq, Repr

/-- Who a command queue is. -/
def Hub.queueWho (h : Hub) (b e q : Nat) : Who :=
  { agent := .queue b e q, key := .queue b e q, bay := some b, ctx := h.fld (rQcfgBay b e q) 48 8, sys := h.bit (rQcfgBay b e q) 62 }

/-! ### Bay addresses (Table 8.2) -/

/-- SPACE of a bay address. -/
def adSpace (w : Word) : Nat := bitsGet w 62 2

/-- A bay address that a descriptor may name, with `len` bytes of a LOFT range (R217). -/
def adOk (sys : Bool) (w : Word) (len : Nat) : Bool :=
  if adSpace w = 0 then decide (bitsGet w 22 40 = 0) && decide (bitsGet w 0 22 + len ≤ 0x400000)
  else if adSpace w = 1 then decide (bitsGet w 57 5 = 0)
  else if adSpace w = 2 then sys && decide (bitsGet w 52 10 = 0)
  else false

/-- A page of a range: where the range enters it, how many bytes of the range it holds, the range's side (0 read, 1 written), and its
translation; `miss` while that is awaited. -/
structure Span where
  va   : Nat
  len  : Nat
  side : Nat
  out  : Xlate
  deriving DecidableEq, Repr

/-- The translation of one address of an operation: the one it keeps of the page, or else a lookup, whose miss is queued (R289,
R290). -/
def Hub.mapOne (h : Hub) (c : Who) (va need : Nat) : Xlate × Hub :=
  let page := va / 4096 * 4096
  let put (x : Xlate) : Xlate := match x with
    | .ok fa at_ => .ok (fa + va % 4096) at_
    | x => x
  match (h.work c.key).xl.find? fun y => decide (y.1 = (page, need)) with
  | some y => (put y.2, h)
  | none =>
    let b := c.bay.getD 0
    match h.tryXlate b c.ctx c.sys (h.agentPart c.agent) page need with
    | (.miss, h) => (.miss, h.addMiss { bay := b, who := .reader c.key, ctx := c.ctx, va := page, need := need })
    | (x, h) => (put x, h.noteXlate c.key page need x)

/-- The pages of a VIRT range translated in order. -/
def Hub.mapPages (h : Hub) (c : Who) (need side : Nat) : Nat → Nat → Nat → List Span × Hub
  | 0, _, _ => ([], h)
  | n + 1, va, len =>
    if len = 0 then ([], h)
    else
      let k := min len (4096 - va % 4096)
      let (x, h) := h.mapOne c va need
      let (l, h) := h.mapPages c need side n (va + k) (len - k)
      ({ va := va, len := k, side := side, out := x } :: l, h)

/-- A range of a bay address by FA (R217, R218). -/
def Hub.mapRange (h : Hub) (c : Who) (w : Word) (len need side : Nat) : List Span × Hub :=
  if adSpace w = 0 then
    ([{ va := 0, len := len, side := side, out := .ok (faOf h.self (loftOff (c.bay.getD 0) (bitsGet w 0 22))) 0 }], h)
  else if adSpace w = 1 then h.mapPages c need side (len / 4096 + 2) (bitsGet w 0 57) len
  else ([{ va := 0, len := len, side := side, out := .ok (bitsGet w 0 52) 0 }], h)

/-- A list of ranges (address, length, right, side) translated. -/
def Hub.mapAll (h : Hub) (c : Who) : List (Word × Nat × Nat × Nat) → List (List Span) × Hub
  | [] => ([], h)
  | (w, len, need, side) :: r =>
    let (s, h) := h.mapRange c w len need side
    let (l, h) := h.mapAll c r
    (s :: l, h)

/-- A stretch of a range that lies in one page: its FA, its length, and whether it may be cached. -/
structure Piece where
  fa  : Nat
  len : Nat
  nc  : Bool := false
  deriving DecidableEq, Repr

/-- The stretch of a translated page. -/
def Span.piece (x : Span) : Option Piece := match x.out with
  | .ok fa at_ => some { fa := fa, len := x.len, nc := decide (8 ≤ at_) }
  | _ => none

/-- A page whose translation faulted. -/
def Span.faulty (x : Span) : Bool := match x.out with
  | .fault .. => true
  | _ => false

/-- AGENT of SCR_BFLT for a command queue (Table 10.8). -/
def queueAgent (e q : Nat) : Nat := if e = 3 then 8 + q else 4 * e + q

/-- The fault that a translation reports, latched (R292). -/
def Hub.spanFault (h : Hub) (c : Who) (x : Span) : Hub := match x.out with
  | .fault cause lvl =>
    let (ag, th) := match c.agent with
      | .queue _ e q => (queueAgent e q, 0)
      | .member (.queue _ q) => (queueAgent 3 q, 0)
      | .thread _ t => (15, t)
      | _ => (15, 0)
    h.latchXlate (c.bay.getD 0) c.ctx ag th x.side lvl cause x.va
  | _ => h

/-- The fault that a tile reports: the first in its order, or for a DE the lowest of the source side and else of the destination
(R291). -/
def pickFault (lowest : Bool) (l : List Span) : Option Span :=
  let bad := l.filter Span.faulty
  if lowest then
    let side := if bad.any fun x => decide (x.side = 0) then 0 else 1
    (bad.filter fun x => decide (x.side = side)).foldl (fun (m : Option Span) x => match m with
      | none => some x
      | some y => if x.va < y.va then some x else some y) none
  else bad.head?

/-- A tile once every page of it is translated: its pieces range by range, or the fault that it reports (R234, R291). -/
def Hub.tilePieces (h : Hub) (c : Who) (lowest : Bool) (l : List (List Span)) : Got (List (List Piece)) × Hub :=
  if l.any fun s => s.any fun x => decide (x.out = .miss) then (.wait, h)
  else match pickFault lowest l.flatten with
    | some x => (.bad { status := stXlate, va := x.va }, h.spanFault c x)
    | none => (.ok (l.map fun s => s.filterMap Span.piece), h)

/-- Ranges translated as a whole (R291). -/
def Hub.mapTile (h : Hub) (c : Who) (lowest : Bool) (l : List (Word × Nat × Nat × Nat)) : Got (List (List Piece)) × Hub :=
  let (s, h) := h.mapAll c l
  h.tilePieces c lowest s

/-! ### Reads -/

/-- An FA lies in the loft of a bay of this hub. -/
def Hub.inLoft (h : Hub) (b fa : Nat) : Bool :=
  decide (faNode fa = h.self) && decide (windowOf (faOff fa) = .loft) && decide ((faOff fa - loftBase) / 0x400000 = b)

/-- The access is one to the issuer's own loft (R218). -/
def Hub.ownLoft (h : Hub) (c : Who) (fa : Nat) : Bool := match c.bay with
  | some b => h.inLoft b fa
  | none => false

/-- The packet by which an access goes out. -/
def Hub.accessPkt (h : Hub) (c : Who) (fa : Nat) (opc : BitVec 4) (bs : List Byte) : Packet :=
  { h.request c.agent fa opc 0 with payload := bs }

/-- The lines that a bay's cache holds (R92); 1,024 lines fill it, and one of the model's free choice gives way (log entry 2). -/
def Hub.cacheInstall (h : Hub) (b : Nat) (l : CacheLine) : Hub :=
  let ls := h.lines b
  let ls := if 1024 ≤ ls.length then ls.eraseIdx (Config.victim h.draw ls.length % ls.length) else ls
  let h := if 1024 ≤ (h.lines b).length then h.redraw else h
  let k := h.injected (fltBay b) 42
  let h := h.injectDone k
  { h with bays := { h.bays with caches := tset [] h.bays.caches b (ls ++ [{ l with bad := k }]) } }

/-- The line of a bay's cache that holds an FA under a tag, read: one that does not mend is invalidated, and every error is a CORRECTED
event (R305). -/
def Hub.cacheLine (h : Hub) (b fa tag : Nat) : Option CacheLine × Hub :=
  match (h.lines b).find? fun l => decide (l.fa = fa / 64 * 64) && decide (l.tag = tag) with
  | none => (none, h)
  | some l =>
    if l.bad = 0 then (some l, h)
    else
      let put (ls : List CacheLine) : Hub := { h with bays := { h.bays with caches := tset [] h.bays.caches b ls } }
      if codeMends l.bad then
        (some l, (put ((h.lines b).map fun y => if y = l then { y with bad := 0 } else y)).report (fltBay b) .corrected 42)
      else (none, (put ((h.lines b).filter fun y => !decide (y = l))).report (fltBay b) .corrected 42)

/-- A node is the own node of a hub: this one, or a board peer by what its HELLO gave (R92: its peg and mortise windows are never
cached). -/
def Hub.hubNode (h : Hub) (n : Node) : Bool :=
  decide (n = h.self) || (List.range 6).any fun i => decide ((h.port (72 + i)).peer = some n)

/-- Reads that the cache never serves: the own loft, pegs and mortises of a hub's node, pages mapped uncacheable (R92). -/
def Hub.cacheable (h : Hub) (c : Who) (p : Piece) : Bool :=
  !p.nc && !h.ownLoft c p.fa && !(h.hubNode (faNode p.fa) && (decide (windowOf (faOff p.fa) = .peg)
    || decide (windowOf (faOff p.fa) = .mortise)))

/-- The reads of a stretch: at most 1,024 bytes each, none across a 4 KiB boundary (R38, R233). -/
def readUnits : Nat → Nat → Nat → List Fetch
  | 0, _, _ => []
  | n + 1, fa, len =>
    if len = 0 then []
    else
      let k := min len (min 1024 (4096 - fa % 4096))
      { fa := fa, len := k } :: readUnits n (fa + k) (len - k)

/-- The lines of a stretch that the cache may serve (R92). -/
def lineUnits (tag fa len : Nat) : List Fetch :=
  if len = 0 then []
  else (List.range ((fa + len - 1) / 64 + 1 - fa / 64)).map fun i => { fa := (fa / 64 + i) * 64, len := 64, fill := some tag }

/-- The reads that a piece needs; the own loft needs none. -/
def Hub.unitsOf (h : Hub) (c : Who) (cached : Bool) (p : Piece) : List Fetch :=
  if h.ownLoft c p.fa then []
  else if cached && h.cacheable c p then lineUnits (h.agentTag c.agent) p.fa p.len
  else readUnits (p.len / 1024 + p.len / 4096 + 3) p.fa p.len

/-- The read of a place that an operation has issued. -/
def Hub.fetchOf (h : Hub) (c : Who) (u : Fetch) : Option Fetch :=
  (h.work c.key).got.find? fun g => decide (g.fa = u.fa) && decide (g.len = u.len)

/-- A read issued, once: a line that the cache holds is there at once, any other goes out as an RD (R92, R233). -/
def Hub.fetchOne (h : Hub) (c : Who) (u : Fetch) : Hub :=
  if (h.fetchOf c u).isSome then h
  else
    let w := h.work c.key
    let (hit, h) : Option CacheLine × Hub := match u.fill with
      | some tag => h.cacheLine (c.bay.getD 0) u.fa tag
      | none => (none, h)
    match hit with
    | some l => h.setWork c.key w.xl (w.got ++ [{ u with got := some (.inl l.data), fill := none }])
    | none =>
      (h.setWork c.key w.xl (w.got ++ [u])).issueD c.agent
        { h.request c.agent u.fa opcRd 0 with aux40 := BitVec.ofNat 40 u.len } (.fetch c.key u.fa u.len)

/-- The bytes of a stretch from the reads that cover it. -/
def Hub.fetchedBytes (h : Hub) (c : Who) (us : List Fetch) (fa len : Nat) : List Byte :=
  let all := us.flatMap fun u => match h.fetchOf c u with
    | some { got := some (.inl d), .. } => d
    | _ => []
  slice all (fa - (us.headD { fa := fa, len := 0 }).fa) len

/-- How the reads of an operation stand: all in, the first failure of them, or some awaited. -/
def Hub.fetchState (h : Hub) (c : Who) (us : List Fetch) : Got Unit :=
  let gs := us.filterMap (h.fetchOf c)
  if gs.any fun g => g.got.isNone then .wait
  else match gs.findSome? fun g => match g.got with
      | some (.inr e) => some e
      | _ => none with
    | some (st, n) => .bad { status := st, node := n }
    | none => .ok ()

/-- A piece read, its remote bytes being in: the own loft is read now (R216). -/
def Hub.readyPiece (h : Hub) (c : Who) (cached : Bool) (p : Piece) : (List Byte ⊕ Bad) × Hub :=
  if h.ownLoft c p.fa then
    match h.memRead (faOff p.fa) p.len with
    | (none, h) => (.inr { status := nakMem, node := h.self.toNat }, h)
    | (some bs, h) => (.inl bs, h)
  else (.inl (h.fetchedBytes c (h.unitsOf c cached p) p.fa p.len), h)

/-- A list of pieces read in order, their remote bytes being in. -/
def Hub.takePieces (h : Hub) (c : Who) (cached : Bool) : List Piece → (List Byte ⊕ Bad) × Hub
  | [] => (.inl [], h)
  | p :: r =>
    match h.readyPiece c cached p with
    | (.inr x, h) => (.inr x, h)
    | (.inl d, h) =>
      match h.takePieces c cached r with
      | (.inr x, h) => (.inr x, h)
      | (.inl ds, h) => (.inl (d ++ ds), h)

/-- A list of piece lists read in order, their remote bytes being in. -/
def Hub.takeAll (h : Hub) (c : Who) : List (Bool × List Piece) → Got (List (List Byte)) × Hub
  | [] => (.ok [], h)
  | (cached, ps) :: r =>
    match h.takePieces c cached ps with
    | (.inr k, h) => (.bad k, h)
    | (.inl d, h) =>
      match h.takeAll c r with
      | (.ok l, h) => (.ok (d :: l), h)
      | x => x

/-- Piece lists gathered: their reads issued, and once every one is answered their bytes (R225, R233). -/
def Hub.gather (h : Hub) (c : Who) (l : List (Bool × List Piece)) : Got (List (List Byte)) × Hub :=
  let us := l.flatMap fun x => x.2.flatMap (h.unitsOf c x.1)
  let h := us.foldl (fun h u => h.fetchOne c u) h
  match h.fetchState c us with
  | .wait => (.wait, h)
  | .bad e => (.bad e, h)
  | .ok _ => h.takeAll c l

/-- An operation done with some pieces: their reads and its translations are dropped. -/
def Hub.forget (h : Hub) (c : Who) (ps : List Piece) : Hub :=
  let us := ps.flatMap (h.unitsOf c false)
  h.setWork c.key [] ((h.work c.key).got.filter fun g => !(us.any fun u => decide (u.fa = g.fa) && decide (u.len = g.len)))

/-- A range of a bay address translated and read. -/
def Hub.readRange (h : Hub) (c : Who) (w : Word) (len : Nat) : Got (List Byte) × Hub :=
  match h.mapTile c false [(w, len, needR, 0)] with
  | (.wait, h) => (.wait, h)
  | (.bad e, h) => (.bad e, h)
  | (.ok ps, h) =>
    match h.gather c (ps.map fun p => (false, p)) with
    | (.wait, h) => (.wait, h)
    | (.bad e, h) => (.bad e, h)
    | (.ok ds, h) => (.ok ds.flatten, h)

/-- Bytes at a fabric address. -/
def Hub.faRead (h : Hub) (c : Who) (fa len : Nat) : Got (List Byte) × Hub :=
  match h.gather c [(false, [{ fa := fa, len := len }])] with
  | (.wait, h) => (.wait, h)
  | (.bad e, h) => (.bad e, h)
  | (.ok ds, h) => (.ok ds.flatten, h)

/-- The answer of a read kept for its operation, and a line of it put into the read cache if no invalidation has come between (R92,
R94). -/
def Hub.fetchDone (h : Hub) (r : Reader) (fa len : Nat) (x : List Byte ⊕ (Nat × Nat)) : Hub :=
  let w := h.work r
  let isIt (g : Fetch) : Bool := decide (g.fa = fa) && decide (g.len = len) && g.got.isNone
  match w.got.find? isIt with
  | none => h
  | some g =>
    let h := h.setWork r w.xl (w.got.map fun y => if isIt y then { y with got := some x, fill := none } else y)
    match r, g.fill, x with
    | .queue b _ _, some tag, .inl d => h.cacheInstall b { fa := fa, tag := tag, data := d }
    | _, _, _ => h

/-! ### Writes -/

/-- How writes go out (Table 8.12): WRA, the peg to advance, and what the answer to a WRA does, given the bytes written before it. -/
structure WCtl where
  ack  : Bool := false
  dpeg : Nat := 0
  dpgm : Nat := 0
  cont : Nat → Cont := fun _ => .quiet

/-- WCTL of a word. -/
def wctlOf (w : Word) : WCtl := { ack := bitAt w 63, dpeg := bitsGet w 40 12, dpgm := bitsGet w 38 2 }

/-- Lines of a bay's cache that a store of its agent touches are invalidated (Table 3.6). -/
def Hub.storeInval (h : Hub) (c : Who) (fa len : Nat) : Hub :=
  match c.bay with
  | none => h
  | some b => h.invalidate b fun l _ => decide (fa / 64 * 64 ≤ l) && decide (l < fa + len)

/-- One write packet, of at most 1,024 bytes within a 4 KiB page, before which `done` bytes were written: performed at the issuer's own
loft, sent anywhere else (R218). -/
def Hub.writePacket (h : Hub) (c : Who) (k : WCtl) (done fa : Nat) (bs : List Byte) : Option Bad × Hub :=
  let h := h.storeInval c fa bs.length
  if h.ownLoft c fa then
    match h.memWrite (faOff fa) bs with
    | (none, h) => (some { status := nakMem, node := h.self.toNat }, h)
    | (some h, _) => (none, h)
  else
    let p : Packet := { h.accessPkt c fa (if k.ack then opcWra else opcWr) bs with
      peg := BitVec.ofNat 12 k.dpeg, pgm := BitVec.ofNat 2 k.dpgm }
    if k.ack then (none, h.issueD c.agent p (k.cont done)) else (none, h.post c.agent p)

/-- What a list of writes comes to: the failure that ended it, if one did, and the bytes written before. -/
abbrev Wrote := Option Bad × Nat

/-- A stretch of FA written in packets. -/
def Hub.writePiece (h : Hub) (c : Who) (k : WCtl) : Nat → Nat → Nat → List Byte → Wrote × Hub
  | 0, done, _, _ => ((none, done), h)
  | n + 1, done, fa, bs =>
    if bs = [] then ((none, done), h)
    else
      let m := min 1024 (4096 - fa % 4096)
      match h.writePacket c k done fa (bs.take m) with
      | (some x, h) => ((some x, done), h)
      | (none, h) => h.writePiece c k n (done + (bs.take m).length) (fa + m) (bs.drop m)

/-- A list of pieces written in order with the bytes of one string. -/
def Hub.writePieces (h : Hub) (c : Who) (k : WCtl) : List Piece → Nat → List Byte → Wrote × Hub
  | [], done, _ => ((none, done), h)
  | p :: r, done, bs =>
    match h.writePiece c k (p.len / 1024 + p.len / 4096 + 3) done p.fa (bs.take p.len) with
    | ((some x, n), h) => ((some x, n), h)
    | ((none, n), h) => h.writePieces c k r n (bs.drop p.len)

/-- A list of piece lists written in order with their bytes. -/
def Hub.writeAll (h : Hub) (c : Who) (k : WCtl) : List (List Piece × List Byte) → Nat → Wrote × Hub
  | [], done => ((none, done), h)
  | (ps, bs) :: r, done =>
    match h.writePieces c k ps done bs with
    | ((some x, n), h) => ((some x, n), h)
    | ((none, n), h) => h.writeAll c k r n

/-- A range of a bay address translated and written. -/
def Hub.writeRange (h : Hub) (c : Who) (k : WCtl) (w : Word) (bs : List Byte) : Got Unit × Hub :=
  match h.mapTile c false [(w, bs.length, needW, 1)] with
  | (.wait, h) => (.wait, h)
  | (.bad e, h) => (.bad e, h)
  | (.ok ps, h) =>
    match h.writePieces c k ps.flatten 0 bs with
    | ((some e, _), h) => (.bad e, h)
    | ((none, _), h) => (.ok (), h)

/-! ### Remote fences (R95, R96, R227) -/

/-- A remote fence begins: a FLUSH to every covered node with a dirty bit (R95). -/
def Hub.fenceStart (h : Hub) (a : Agent) (dst : Option Node) (next : FenceThen) : Hub :=
  let covered (d : Node) : Bool := match dst with
    | none => true
    | some n => decide (d = n)
  let dirty := h.sill.dirty.filter fun x => decide (x.agent = a) && covered x.dst
  let outE := (h.sill.out.filter fun o => decide (o.agent = a) && covered o.pkt.dst).map (·.epoch)
  let epochs := dirty.map (·.epoch) ++ outE
  let old := match epochs.find? fun e => decide (e ≠ h.epoch) with
    | some e => some e
    | none => epochs.head?
  let f : Fence := { agent := a, dst := dst, deadline := h.now + h.fenceTimeout, epoch := old, next := next }
  let rest := h.sill.dirty.filter fun x => !(decide (x.agent = a) && covered x.dst)
  let h : Hub := { h with sill := { h.sill with dirty := rest, fences := h.sill.fences ++ [f] } }
  dirty.foldl (fun h x => h.issueD a (h.request a (faOf x.dst 0) opcRd 1) .flush) h

/-- An agent has something that a remote fence must wait for or report. -/
def Hub.mustFence (h : Hub) (a : Agent) : Bool :=
  (h.sill.dirty.any fun x => decide (x.agent = a)) || (h.sill.out.any fun o => decide (o.agent = a)) ||
  (h.sill.backlog.any fun o => decide (o.1 = a)) || (h.sill.recorded.any fun r => decide (r.agent = a))

/-! ### The generators of the rounding units (R150) -/

/-- A rounding unit about to work. -/
def Hub.rnd (h : Hub) (u rmode : Nat) : Rnd :=
  { gen := tget (genSeed (h.reg rSawSeed) u) h.coll.gens u, stoch := decide (rmode = 1) }
/-- The hub with a rounding unit's generator as it was left. -/
def Hub.saveRnd (h : Hub) (u : Nat) (r : Rnd) : Hub :=
  { h with coll := { h.coll with gens := tset (genSeed (h.reg rSawSeed) u) h.coll.gens u r.gen } }

end Sys2Proof.Machine
end

