-- ==== Sys2Proof/Machine/StatusWords.lean ====
section
/-! DEFINITION. Status words of host operations (R324 to R328). -/
namespace Sys2Proof.Machine

/-! ### States of an operation (Table 12.8) -/
def opAccepted : Nat := 1
def opWaiting : Nat := 2
def opRunning : Nat := 3
def opDone : Nat := 4

/-- The operation of an identity. -/
def Hub.op (h : Hub) (id : Nat) : Option Op := h.host.ops.find? fun o => decide (o.id = id)
/-- The hub with an operation changed. -/
def Hub.mapOp (h : Hub) (id : Nat) (f : Op → Op) : Hub :=
  { h with host := { h.host with ops := h.host.ops.map fun o => if o.id = id then f o else o } }
/-- The hub without an operation: it is no longer in flight. -/
def Hub.dropOp (h : Hub) (id : Nat) : Hub :=
  { h with host := { h.host with ops := h.host.ops.filter fun o => !decide (o.id = id) } }

/-- Words 0 to 6 of a status word (Table 12.7). -/
def Op.words (o : Op) : List Word :=
  [BitVec.ofNat 64 (o.state + (if o.state = opDone then o.status else 0) * 2 ^ 8 + o.opc * 2 ^ 16 + o.memb % 256 * 2 ^ 24
     + o.chunk % 2 ^ 21 * 2 ^ 32 + (o.ring.getD 0) * 2 ^ 53),
   o.user, BitVec.ofNat 64 o.progress, BitVec.ofNat 64 o.final, BitVec.ofNat 64 o.total,
   BitVec.ofNat 64 (o.taint % 2 ^ 32 + o.node % 1024 * 2 ^ 32), o.detail]

/-- Word 7 with an update count. -/
def Op.word7 (o : Op) (upd : Nat) : Word := BitVec.ofNat 64 (upd % 2 ^ 32 + o.seq % 2 ^ 32 * 2 ^ 32)

/-- The address and bytes of a step of an update (R325). -/
def Op.stepWrite (o : Op) (k : Nat) : Nat × List Byte :=
  if k = 1 then (o.sw + 56, leBytes 8 (o.word7 (o.upd + 1)).toNat)
  else if k = 2 then (o.sw, wordsBytes o.body)
  else (o.sw + 56, leBytes 8 (o.word7 (o.upd + 2)).toNat)

/-- A status word lies in the function's own node. -/
def Hub.swHost (h : Hub) (o : Op) : Bool := decide (faNode o.sw = h.funcNode o.func)

/-- An update performed: reported; an operation whose DONE it carried is no longer in flight. -/
def Hub.updateDone (h : Hub) (o : Op) : Hub :=
  let done := bitsGet (o.body.getD 0 0) 0 8 = opDone
  if done then h.dropOp o.id
  else h.mapOp o.id fun o => { o with upd := o.upd + 2, step := 0, tries := 0, retryAt := none }

/-- The write of the step that an update is at, into pool memory. -/
def Hub.stepIssue (h : Hub) (o : Op) : Hub :=
  let w := o.stepWrite o.step
  h.issueD (.statusWriter o.func) { h.request (.statusWriter o.func) w.1 opcWra 0 with payload := w.2 } (.status o.id)

/-- An update begun: three posted writes to host memory, or the first WRA to pool memory (R325). -/
def Hub.updateStart (h : Hub) (id : Nat) : Hub :=
  let h := h.mapOp id fun o => { o with step := 1, body := o.words, again := false, dirty := false, tries := 0 }
  match h.op id with
  | none => h
  | some o =>
    if h.swHost o then
      let h := [1, 2, 3].foldl (fun h k => h.toHost (.write o.id o.func (faOff (o.stepWrite k).1) (o.stepWrite k).2)) h
      h.updateDone o
    else h.stepIssue o

/-- The operation changed: a change of STATE begins an update, or asks for one after the update under way; any other change
waits for the progress update (R325). After DONE nothing is written again. -/
def Hub.opSet (h : Hub) (id : Nat) (f : Op → Op) : Hub :=
  match h.op id with
  | none => h
  | some o =>
    if o.state = opDone then h
    else
      let o' := f o
      let h := h.mapOp id f
      if o'.state ≠ o.state then
        (if o.step = 0 then h.updateStart id else h.mapOp id fun o => { o with again := true })
      else h.mapOp id fun o => { o with dirty := true, dirtyAt := if o.dirty then o.dirtyAt else h.now }

/-- An operation finished with a status. -/
def Hub.opFinish (h : Hub) (id status : Nat) (f : Op → Op) : Hub :=
  h.opSet id fun o => { f o with state := opDone, status := status }

/-- A step's write acknowledged: the next step, or the end of the update (R325). -/
def Hub.statusAck (h : Hub) (id : Nat) : Hub :=
  match h.op id with
  | none => h
  | some o =>
    if o.step = 0 then h
    else if o.step < 3 then
      let h := h.mapOp id fun o => { o with step := o.step + 1, tries := 0 }
      h.stepIssue { o with step := o.step + 1 }
    else
      let h := h.updateDone o
      match h.op id with
      | some o => if o.again then h.updateStart id else h
      | none => h

/-- A step's write failed: reissued 10 µs later up to three times, and without limit for the update that reports DONE, until
its function is reset or the status word's partition removed; else the update is abandoned (R325). -/
def Hub.statusFail (h : Hub) (id : Nat) : Hub :=
  match h.op id with
  | none => h
  | some o =>
    let last := decide (bitsGet (o.body.getD 0 0) 0 8 = opDone)
    if last && o.cut then h.dropOp id
    else if o.tries < 3 || last then
      h.mapOp id fun o => { o with tries := o.tries + 1, retryAt := some (h.now + 10000) }
    else
      let h := h.mapOp id fun o => { o with step := 0, tries := 0, retryAt := none, upd := o.upd + 2 }
      if o.again then h.updateStart id else h

/-- STATUS_WRITE_RETRY (R325). -/
def execStatusWriteRetry (op : Nat) (s : State) : Host.Outcome State Fault Refusal :=
  onHub (fun h =>
    match h.op op with
    | none => h
    | some o =>
      match o.retryAt with
      | some t => if t ≤ h.now ∧ o.step ≠ 0 then (h.mapOp op fun o => { o with retryAt := none }).stepIssue o else h
      | none => h) s

end Sys2Proof.Machine
end

