-- ==== Sys2Proof/Machine/Collective.lean ====
section
/-! DEFINITION. Collectives at the reducing hub: the open and its checks (R162, R163, R198), kerf admission (R166 to R169),
COLR packets (R121, R174), and endings (R183, R184, R210). -/
namespace Sys2Proof.Machine

/-! ### Codes (Tables 6.1, 6.4, 6.11) -/
def kAllreduce : Nat := 0
def kReduce : Nat := 1
def kScatter : Nat := 2
def kGather : Nat := 3
def kBroadcast : Nat := 4
def kRaise : Nat := 5
def stCorrupt : Nat := 0x20
def stMembTimeout : Nat := 0x21
def stProtocol : Nat := 0x22
def stCountMismatch : Nat := 0x23
def stUpdateFail : Nat := 0x25
def stBusy : Nat := 0x30
def stPartDenied : Nat := 0x32

/-- A kind whose contributions are summed (R161). -/
def reducing (k : Nat) : Bool := decide (k ≤ 2) || decide (k = kRaise)

/-! ### The descriptor (Table 6.2) -/

/-- The RSV bits of a collective descriptor are zero. -/
def rsvOk (ws : List Word) : Bool :=
  let w (i : Nat) := ws.getD i 0
  decide (bitsGet (w 0) 52 12 = 0) && decide (bitsGet (w 0) 20 4 = 0) && decide (bitsGet (w 1) 40 24 = 0) &&
  decide (bitsGet (w 2) 57 7 = 0) && decide (bitsGet (w 3) 32 32 = 0) && decide (bitsGet (w 4) 52 12 = 0) &&
  decide (bitsGet (w 5) 52 12 = 0) && decide (w 6 = 0) &&
  (if bitsGet (w 0) 0 4 = kRaise then decide (bitsGet (w 7) 52 12 = 0) else decide (w 7 = 0))

/-- A stall timeout after R162's substitutions. -/
def tmoOf (n : Nat) : Nat := if n = 0 then 50000 else clampNat n 10 10000000

/-- The fields of a collective descriptor, without members and RAISE block. -/
def Hub.parseColl (h : Hub) (ws : List Word) : CollDesc :=
  let w (i : Nat) := ws.getD i 0
  let sp := bitsGet (w 2) 52 5
  let kf := bitsGet (w 2) 32 20
  { part := bitsGet (w 0) 48 4, root := bitsGet (w 0) 40 8, planes := bitsGet (w 0) 24 8, fast := bitAt (w 0) 19,
    wait := bitAt (w 0) 18, rmode := bitsGet (w 0) 16 2, outF := bitsGet (w 0) 12 4, inF := bitsGet (w 0) 8 4,
    op := bitsGet (w 0) 4 4, kind := bitsGet (w 0) 0 4, n := bitsGet (w 1) 0 40,
    sawpits := if sp = 0 then 8 else min sp 16, kerfs := max 1 (if kf = 0 then h.fld rKrfCfg 48 16 else kf),
    tmo := tmoOf (bitsGet (w 2) 0 32), waitUs := bitsGet (w 3) 0 32, status := bitsGet (w 5) 0 52 }

/-- The formats and codes of a descriptor are permitted (R149, R161, R163). -/
def CollDesc.formOk (d : CollDesc) : Bool :=
  decide (d.kind ≤ 5) && decide (d.rmode ≤ 1) && fmtIn d.inF && (!reducing d.kind || decide (d.op ≤ 2)) &&
  (if reducing d.kind then fmtOk d.outF else decide (d.outF = d.inF) || fmtFloat d.outF)

/-- How this hub reaches a node (Table 1.3): an accelerator of a joist, a node of its own, a node of a board peer. -/
inductive Reach where
  | joist (j : Nat)
  | own
  | peer (pair : Nat)
  | none
  deriving DecidableEq, Repr

/-- How this hub reaches a node. -/
def Hub.reach (h : Hub) (n : Node) : Reach :=
  let e := h.routeEntry h.epoch n
  if h.ours n then .own
  else if entryField e 31 1 = 0 ∨ entryField e 29 2 ≠ 1 then .none
  else
    let o := entryField e 22 7
    if o < 72 then .joist o else if o < 78 then .peer ((o - 72) / 2) else .none

/-- A member may take part (R163). -/
def Hub.memberOk (h : Hub) (part : Nat) (n : Node) : Bool :=
  !h.absent n && h.inDset part n && (match h.reach n with
    | .joist j => (tget 0 h.sill.caps j).testBit 3
    | .none => false
    | _ => true)

/-- The member list as node IDs, if its entries are well formed and distinct. -/
def parseMembers (n : Nat) (bs : List Byte) : Option (List Node) :=
  let es := (List.range n).map fun i => leNat (slice bs (2 * i) 2)
  if es.any (fun e => decide (1024 ≤ e)) ∨ ¬ es.Nodup then none else some (es.map (BitVec.ofNat 10 ·))

/-- Who an opener is as a requester. -/
def Hub.openerWho (h : Hub) (o : Opener) : Who :=
  match o with
  | .queue b q => { h.queueWho b 3 q with key := .opening o }
  | .ring id => { agent := .ring (h.opFunc id), key := .opening o }
  | .wright _ => { agent := .wright, key := .opening o, sys := true }

/-- PART is the opener's own partition (R162): the bay's for a queue, also a system queue (R237), the function's for a ring; the wright
may name any. -/
def Hub.openerPart (h : Hub) (o : Opener) (part : Nat) : Bool :=
  match o with
  | .wright _ => true
  | .queue b _ => decide (h.bayPart b = some part)
  | .ring _ => decide (h.agentPart (h.openerWho o).agent = some part)

/-! ### The state segment (R192, R193, R198) -/

/-- The arrays that a header names: address and length, in bytes, of each (Table 7.1). -/
def headerArrays (ws : List Word) : List (Nat × Nat × Nat) :=
  let w (i : Nat) := bitsGet (ws.getD i 0) 0 52
  let n := bitsGet (ws.getD 0 0) 0 40
  let blocks := ceilDiv n 32
  let arr (f el sc : Nat) : List (Nat × Nat × Nat) :=
    if f = 15 then [] else [(el, blocks * blockBytes f, elAlign f), (sc, blocks, 8)]
  arr (bitsGet (ws.getD 0 0) 40 4) (w 1) (w 2) ++ arr (bitsGet (ws.getD 0 0) 44 4) (w 3) (w 4)
    ++ arr (bitsGet (ws.getD 0 0) 48 4) (w 5) (w 6)

/-- The form of a header (Table 7.1). -/
def headerForm (ws : List Word) : Bool :=
  let w (i : Nat) := ws.getD i 0
  let wf := bitsGet (w 0) 40 4
  let m1 := bitsGet (w 0) 44 4
  let m2 := bitsGet (w 0) 48 4
  let mOk (m : Nat) : Bool := decide (m = 15) || (decide (2 ≤ m) && decide (m ≤ 4))
  decide (bitsGet (w 0) 52 12 = 0) && (decide (wf = 3) || decide (wf = 4)) && mOk m1 && mOk m2 &&
  ([1, 2, 3, 4, 5, 6].all fun i => decide (bitsGet (w i) 52 12 = 0)) &&
  (decide (m1 ≠ 15) || (decide (w 3 = 0) && decide (w 4 = 0))) && (decide (m2 ≠ 15) || (decide (w 5 = 0) && decide (w 6 = 0)))

/-- Two ranges have no byte in common. -/
def apart (a b : Nat × Nat) : Bool := decide (a.1 + a.2 ≤ b.1) || decide (b.1 + b.2 ≤ a.1)

/-- Every pair of a list of ranges is apart. -/
def allApart : List (Nat × Nat) → Bool
  | [] => true
  | x :: r => (r.all (apart x)) && allApart r

/-- Both headers meet R192 and R193. -/
def Hub.headersOk (h : Hub) (part cur shd : Nat) (a b : List Word) : Bool :=
  let arrs := headerArrays a ++ headerArrays b
  let spans := [(cur, 64), (shd, 64)] ++ arrs.map fun x => (x.1, x.2.1)
  headerForm a && headerForm b && decide (bitsGet (a.getD 0 0) 0 52 = bitsGet (b.getD 0 0) 0 52) &&
  decide (cur % 64 = 0) && decide (shd % 64 = 0) &&
  (arrs.all fun x => decide (x.1 % x.2.2 = 0)) &&
  (spans.all fun x => h.inPool x.1 && h.inRegions part (faOff x.1) x.2) && allApart spans

/-- The moments that a kernel requires (Table 7.5) are in a header. -/
def momentsOk (kernel : Nat) (ws : List Word) : Bool :=
  let has (lo : Nat) : Bool := decide (bitsGet (ws.getD 0 0) lo 4 ≠ 15)
  if kernel = 1 then has 44 else if kernel = 2 then has 44 && has 48 else true

/-- A bay may be an update bay (R198): enabled and owned by the partition. -/
def Hub.ubayOk (h : Hub) (part b : Nat) : Bool := h.bayOn b && decide (h.bayPart b = some part)

/-- The parameter block of a RAISE, if R198 accepts it. -/
def Hub.parseRaise (h : Hub) (d : CollDesc) (ws : List Word) (hdr shdr : List Word) : Option RaiseDesc :=
  let w (i : Nat) := ws.getD i 0
  let seg := bitsGet (w 0) 40 8
  let kernel := bitsGet (w 0) 32 4
  let ubays := (List.range 64).filter (bitAt (w 1))
  let cur := bitsGet (w 2) 0 52
  let shd := bitsGet (w 3) 0 52
  let consts := (List.range 8).map fun i => w (4 + i)
  let wf := bitsGet (hdr.getD 0 0) 40 4
  let tk := w 12
  let tkOk := if kernel = 3 then decide (bitsGet tk 60 4 = 0) && decide (bitsGet tk 44 4 = 0) && decide (bitsGet tk 22 10 = 0)
      && decide (bitsGet tk 0 22 % 0x80000 = 0) else decide (tk = 0) && ([13, 14, 15].all fun i => decide (w i = 0))
  let eps := w 11
  let ok :=
    decide (bitsGet (w 0) 48 16 = 0) && decide (bitsGet (w 0) 36 4 = 0) && decide (bitsGet (w 0) 0 32 = 0) &&
    decide (bitsGet (w 2) 52 12 = 0) && decide (bitsGet (w 3) 52 12 = 0) && (consts.all fun c => decide (bitsGet c 40 24 = 0)) && tkOk &&
    decide (d.op = 0) && fmtBlock d.inF && (decide (d.outF = wf) || fmtFloat d.outF) &&
    h.bit (rSegDir seg) 63 && decide (h.fld (rSegDir seg) 56 4 = d.part) && decide (h.fld (rSegDir seg) 0 52 = cur) &&
    h.headersOk d.part cur shd hdr shdr && decide (kernel ≤ 3) && momentsOk kernel hdr &&
    (decide (kernel ≠ 2) || (decide (0 < (Dy.ofConst eps).m))) &&
    (consts.all fun c => decide (bitsGet c 32 8 ≠ 255)) && decide (ubays ≠ []) && (ubays.all (h.ubayOk d.part))
  if ok then some { seg := seg, kernel := kernel, ubays := ubays, cur := cur, shd := shd, hdr := hdr, shdr := shdr,
                    consts := consts, tkctl := tk, args := [w 13, w 14, w 15] }
  else none

/-- The RAISE block of an open, read and checked; `ok none` where R198 refuses it. -/
def Hub.readRaise (h : Hub) (c : Who) (d : CollDesc) (fa : Nat) : Got (Option RaiseDesc) × Hub :=
  if fa % 64 ≠ 0 then (.ok none, h)
  else match h.faRead c fa 128 with
  | (.wait, h) => (.wait, h)
  | (.bad e, h) => (.bad e, h)
  | (.ok bs, h) =>
    let ws := leWords 16 bs
    match h.faRead c (bitsGet (ws.getD 2 0) 0 52) 64 with
    | (.wait, h) => (.wait, h)
    | (.bad e, h) => (.bad e, h)
    | (.ok a, h) =>
      match h.faRead c (bitsGet (ws.getD 3 0) 0 52) 64 with
      | (.wait, h) => (.wait, h)
      | (.bad e, h) => (.bad e, h)
      | (.ok b, h) => (.ok (h.parseRaise d ws (leWords 8 a) (leWords 8 b)), h)

/-- The open of a descriptor's words (R163 to R165, R198): the collective, or the code that refuses it. A member list, parameter block
or header that cannot be read is answered with BAD_DESC (DESIGN CHOICE, log entry 37: the spec names no other result for it). -/
def Hub.checkOpen (h : Hub) (o : Opener) (ws : List Word) : Got (CollDesc ⊕ Nat) × Hub :=
  let c := h.openerWho o
  let d := h.parseColl ws
  let n := bitsGet (ws.getD 0 0) 32 8 + 1
  if !h.openerPart o d.part then (.ok (.inr stPartDenied), h)
  else if !rsvOk ws || !d.formOk || decide (n ≤ d.root) || !d.planes.testBit (h.fld rSelfNode 16 3) then (.ok (.inr stBadDesc), h)
  else match h.faRead c (bitsGet (ws.getD 4 0) 0 52) (2 * n) with
    | (.wait, h) => (.wait, h)
    | (.bad _, h) => (.ok (.inr stBadDesc), h)
    | (.ok bs, h) =>
      match parseMembers n bs with
      | none => (.ok (.inr stBadDesc), h)
      | some ms =>
        let d := { d with members := ms }
        if !(ms.all (h.memberOk d.part)) then (.ok (.inr stBadDesc), h)
        else if d.kind ≠ kRaise then (.ok (.inl d), h)
        else match h.readRaise c d (bitsGet (ws.getD 7 0) 0 52) with
          | (.wait, h) => (.wait, h)
          | (.bad _, h) => (.ok (.inr stBadDesc), h)
          | (.ok none, h) => (.ok (.inr stBadDesc), h)
          | (.ok (some r), h) => (.ok (.inl { d with raise := some r }), h)

/-! ### Kerf admission (R166 to R168) -/

/-- A collective slot. -/
def Hub.slot (h : Hub) (c : Nat) : Slot := tget {} h.coll.slots c
/-- The hub with a collective slot set. -/
def Hub.setSlot (h : Hub) (c : Nat) (s : Slot) : Hub := { h with coll := { h.coll with slots := tset {} h.coll.slots c s } }

/-- A slot holds its kerfs: JOINING or RUNNING. -/
def Slot.holds (s : Slot) : Bool := decide (s.state = .joining) || decide (s.state = .running)
/-- The slots that hold kerfs. -/
def Hub.holding (h : Hub) : List Slot := (h.coll.slots.map (·.2)).filter Slot.holds
/-- Fast kerfs not reserved. -/
def Hub.fastFree (h : Hub) : Nat := 6144 - (h.holding.map (·.fastK)).sum
/-- Slow kerfs not reserved. -/
def Hub.slowFree (h : Hub) : Nat := h.fld rKrfCfg 0 21 - (h.holding.map fun s => s.k - s.fastK).sum
/-- Fast kerfs that a partition holds. -/
def Hub.fastUse (h : Hub) (p : Nat) : Nat := ((h.holding.filter fun s => decide (s.desc.part = p)).map (·.fastK)).sum
/-- Slow kerfs that a partition holds. -/
def Hub.slowUse (h : Hub) (p : Nat) : Nat := ((h.holding.filter fun s => decide (s.desc.part = p)).map fun s => s.k - s.fastK).sum

/-- The open collectives of a sawpit. -/
def Hub.sawLoad (h : Hub) (s : Nat) : Nat :=
  (h.coll.slots.filter fun x => decide (x.2.state ≠ .free) && x.2.saws.contains s).length

/-- The sawpit set (R166): the least loaded of the clocked sawpits, ties by the lower index, in ascending index. -/
def Hub.sawSet (h : Hub) (n : Nat) : List Nat :=
  let on := (List.range 16).filter fun s => bitAt (h.reg rClkBlk) s
  let order := on.mergeSort fun a b => decide (h.sawLoad a < h.sawLoad b) || (decide (h.sawLoad a = h.sawLoad b) && decide (a ≤ b))
  (order.take n).mergeSort fun a b => decide (a ≤ b)

/-- The update bays lent to open RAISEs: a collective is open until its slot is FREE again (R169). -/
def Hub.lentBays (h : Hub) : List Nat := h.coll.slots.flatMap fun x => match x.2.desc.raise with
  | some r => if x.2.state = .free then [] else r.ubays
  | none => []

/-- What R198 asks of the segment's entry and of the update bays still holds, as the open is admitted. -/
def Hub.raiseStands (h : Hub) (d : CollDesc) : Bool := match d.raise with
  | none => true
  | some r => h.bit (rSegDir r.seg) 63 && decide (h.fld (rSegDir r.seg) 56 4 = d.part) && decide (h.fld (rSegDir r.seg) 0 52 = r.cur) &&
      r.ubays.all (h.ubayOk d.part)

/-- The kerf ring of a collective (R166). -/
def CollDesc.ring (d : CollDesc) : Nat := ceilDiv d.kerfs d.sawpits * d.sawpits

/-- The fast kerfs that an open would take, if it fits now (R167, R198). -/
def Hub.fits (h : Hub) (d : CollDesc) : Option Nat :=
  let k := d.ring
  let fast := min k (min h.fastFree (bitsGet (h.partWord d.part 5) 0 13 - h.fastUse d.part))
  let slow := k - fast
  let raiseOk : Bool := match d.raise with
    | none => true
    | some r => !h.bit (rSegDir r.seg) 62 && r.ubays.all fun b => !h.lentBays.contains b
  if (h.sawSet d.sawpits).length = d.sawpits ∧ raiseOk ∧ (slow = 0 ∨ (!d.fast ∧ slow ≤ h.slowFree
      ∧ slow ≤ bitsGet (h.partWord d.part 5) 32 21 - h.slowUse d.part)) ∧ (List.range 512).any (fun c => (h.slot c).state = .free)
  then some fast else none

/-- The ticket of a slot (Table 6.3). -/
def Hub.ticket (h : Hub) (cid : Nat) (s : Slot) : Word :=
  BitVec.ofNat 64 (h.self.toNat + cid * 2 ^ 10 + s.gen * 2 ^ 19 + s.desc.tmo * 2 ^ 27)

/-- A completion record written at an FA: a WRA that its writer does not wait for. -/
def Hub.faStore (h : Hub) (c : Who) (fa : Nat) (bs : List Byte) : Hub := (h.writePiece c { ack := true } 3 0 fa bs).2

/-- A 32-byte completion record. -/
def record32 (w0 w1 w2 w3 : Word) : List Byte := wordsBytes [w0, w1, w2, w3]

/-- The result of an open told to its opener (R164, R165, R237). -/
def Hub.openResult (h : Hub) (o : Opener) (statusFa code : Nat) (ticket : Word) : Hub :=
  match o with
  | .queue b q =>
    let x := h.queue b 3 q
    if x.phase = .held then h.setQueue b 3 q { x with phase := .done, status := code, done := ticket.toNat } else h
  | .ring id =>
    if code = 0 then h.opSet id fun o => { o with state := opRunning, detail := ticket } else h.opFinish id code id_
  | .wright _ => h.faStore (h.openerWho o) statusFa (record32 (BitVec.ofNat 64 code) ticket 0 0)
where
  /-- No further change of the operation. -/
  id_ (o : Op) : Op := o

/-- Admission of an open: the lowest FREE slot, its kerfs, and for a RAISE the entry's LOCK, at one edge (R167, R169, R198). -/
def Hub.openSlot (h : Hub) (o : Opener) (d : CollDesc) (fast : Nat) : Hub :=
  match (List.range 512).find? fun c => decide ((h.slot c).state = .free) with
  | none => h
  | some c =>
    let s : Slot := { state := .joining, gen := ((h.slot c).gen + 1) % 256, opener := o, desc := d, saws := h.sawSet d.sawpits,
                      k := d.ring, fastK := fast, pegBase := match d.raise with
                        | some r => (h.peg (bitsGet r.tkctl 48 12)).value
                        | none => 0 }
    let h := h.setSlot c s
    let h := match d.raise with
      | some r => h.setFld (rSegDir r.seg) 62 1 1
      | none => h
    h.openResult o d.status 0 (h.ticket c s)

/-- The oldest waiting open has waited its AGE_US (R168). -/
def Hub.ageReached (h : Hub) : Bool :=
  match h.coll.waiting with
  | [] => false
  | w :: _ => decide (w.at_ + h.fld rKrfCfg 32 16 * 1000 ≤ h.now)

/-- An open that passed its checks: admitted, queued or refused (R168). -/
def Hub.place (h : Hub) (o : Opener) (d : CollDesc) : Hub :=
  match (if h.ageReached then none else h.fits d) with
  | some fast => h.openSlot o d fast
  | none =>
    if !d.wait ∨ 64 ≤ h.coll.waiting.length then h.openResult o d.status stBusy 0
    else
      let w : Waiting := { id := h.coll.nextId, opener := o, desc := d, at_ := h.now,
                           until_ := if d.waitUs = 0 then none else some (h.now + d.waitUs * 1000) }
      let h := { h with coll := { h.coll with waiting := h.coll.waiting ++ [w], nextId := h.coll.nextId + 1 } }
      match o with
      | .ring id => h.opSet id fun o => { o with state := opWaiting }
      | _ => h

/-- KERF_ADMIT (R168): the oldest open that fits; a younger one only while the oldest may be passed. One whose RAISE no longer meets
R198 ends with BAD_DESC. -/
def execKerfAdmit (s : State) : Host.Outcome State Fault Refusal :=
  onHub (fun h =>
    let able (w : Waiting) : Bool := (h.fits w.desc).isSome || !h.raiseStands w.desc
    let pick := match h.coll.waiting with
      | [] => none
      | w :: l => if able w then some w else if h.ageReached then none else l.find? able
    match pick with
    | none => h
    | some w =>
      let h' := { h with coll := { h.coll with waiting := h.coll.waiting.filter fun x => !decide (x.id = w.id) } }
      if h.raiseStands w.desc then h'.openSlot w.opener w.desc ((h.fits w.desc).getD 0)
      else h'.openResult w.opener w.desc.status stBadDesc 0) s

/-- ADMISSION_WAIT_EXPIRY (R168). -/
def execAdmissionWaitExpiry (id : Nat) (s : State) : Host.Outcome State Fault Refusal :=
  onHub (fun h =>
    match h.coll.waiting.find? fun w => decide (w.id = id) with
    | none => h
    | some w =>
      match w.until_ with
      | some t =>
        if t ≤ h.now then
          let h := { h with coll := { h.coll with waiting := h.coll.waiting.filter fun x => !decide (x.id = id) } }
          h.openResult w.opener w.desc.status stBusy 0
        else h
      | none => h) s

/-- An open once its descriptor is read: checked, and admitted, queued or refused; nothing yet while a read is awaited. -/
def Hub.openStep (h : Hub) (o : Opener) (ws : List Word) : Hub :=
  match h.checkOpen o ws with
  | (.wait, h) => h
  | (.bad _, h) => h
  | (.ok (.inr code), h) => (h.endWork (.opening o)).openResult o (bitsGet (ws.getD 5 0) 0 52) code 0
  | (.ok (.inl d), h) => (h.endWork (.opening o)).place o d

/-- An open whose descriptor could not be read. -/
def Hub.openUnread (h : Hub) (o : Opener) : Hub := (h.endWork (.opening o)).openResult o 0 stBadDesc 0

/-- An open from what reading its descriptor gives. -/
def Hub.openFrom (o : Opener) : Got (List Byte) × Hub → Hub
  | (.wait, h) => h
  | (.bad _, h) => h.openUnread o
  | (.ok bs, h) => h.openStep o (leWords 8 bs)

/-- COLLECTIVE_OPEN (R163): the open, of the descriptor at an address, that a queue, a ring or the wright has handed to the kerf
allocator, as far as its reads let it come. The wright's open of a descriptor that cannot be read has no STATUS to write. -/
def execCollectiveOpen (o : Opener) (desc : Word) (s : State) : Host.Outcome State Fault Refusal :=
  onHub (fun h =>
    let c := h.openerWho o
    if !h.alive then h
    else match o with
    | .queue b q =>
      let x := h.queue b 3 q
      if x.phase = .held ∧ (x.desc.getD 7 0).toNat = 8 ∧ leWord (slice x.desc 32 8) = desc ∧ ¬ (h.coll.waiting.any fun w => decide (w.opener = o)) then
        Hub.openFrom o (h.readRange c desc 64)
      else h
    | .ring id =>
      match h.op id with
      | some p =>
        if p.phase = 1 ∧ p.opc = 1 ∧ p.state = opAccepted ∧ bitsGet (p.args.getD 0 0) 0 52 = desc.toNat then
          Hub.openFrom o (h.faRead c desc.toNat 64)
        else h
      | none => h
    | .wright fa =>
      if fa ≠ desc.toNat then h
      else match h.faRead c fa 64 with
        | (.wait, h) => h
        | (.ok bs, h) => h.openStep o (leWords 8 bs)
        | (.bad _, h) => h.endWork (.opening o)) s

/-! ### The result space (R160, R172, R173, R177) -/

/-- The contribution count of a member. -/
def Slot.count (s : Slot) (m : Nat) : Nat := tget 0 s.counts m - 1
/-- The number of members. -/
def Slot.n (s : Slot) : Nat := s.desc.members.length
/-- FIRST_CHUNK of a member (R176). -/
def Slot.firstOf (s : Slot) (m : Nat) : Nat := s.first.getD m 0
/-- The chunks of the result space. -/
def Slot.total (s : Slot) : Nat := ceilDiv s.len 2048
/-- The elements of a chunk of the result space. -/
def Slot.elems (s : Slot) (c : Nat) : Nat := min 2048 (s.len - 2048 * c)

/-- The elements of a chunk within a run of `n` elements that starts at chunk `f`. -/
def runElems (f n c : Nat) : Nat := if c < f then 0 else min 2048 (n - 2048 * (c - f))

/-- The elements that a member contributes to a chunk, by the kind, the root, its first chunk and its count. -/
def contribOf (kind root len m f n c : Nat) : Nat :=
  if kind = kScatter then min 2048 (len - 2048 * c)
  else if kind = kGather then runElems f n c
  else if kind = kBroadcast then (if m = root then runElems 0 n c else 0)
  else runElems 0 n c

/-- Whether a member receives a chunk. -/
def receivesOf (kind root len m f n c : Nat) : Bool :=
  decide (2048 * c < len) &&
  (if kind = kReduce then decide (m = root)
   else if kind = kScatter then decide (0 < runElems f n c)
   else if kind = kBroadcast then decide (m ≠ root)
   else true)

/-- The elements that a member contributes to a chunk. -/
def Slot.contrib (s : Slot) (m c : Nat) : Nat :=
  contribOf s.desc.kind s.desc.root s.len m (s.firstOf m) (s.count m) c
/-- A member receives a chunk. -/
def Slot.receives (s : Slot) (m c : Nat) : Bool :=
  receivesOf s.desc.kind s.desc.root s.len m (s.firstOf m) (s.count m) c
/-- The contributors that cover a chunk. -/
def Slot.coverers (s : Slot) (c : Nat) : List Nat := (List.range s.n).filter fun m => decide (0 < s.contrib m c)

/-- The collective exchanges scales first: a reducing kind with a block-scaled IN_FMT (Table 6.8). -/
def CollDesc.scaled (d : CollDesc) : Bool := reducing d.kind && fmtBlock d.inF
/-- The contributors send PKT 63 scales (Table 6.8, step 4). -/
def CollDesc.sends63 (d : CollDesc) : Bool := !reducing d.kind && fmtBlock d.inF

/-- DATA packets of `e` elements in a format. -/
def dataPackets (f e : Nat) : Nat := ceilDiv (ceilDiv e 32) (blocksPer f)
/-- The payload bytes of DATA packet `i` of `e` elements (R172). -/
def dataLen (f e i : Nat) : Nat := min (blocksPer f) (ceilDiv e 32 - i * blocksPer f) * blockBytes f

/-! ### COLR packets -/

/-- CLOC (Table 2.8). -/
def cloc (cid gen memb chunk pkt : Nat) : Nat := cid * 2 ^ 43 + gen * 2 ^ 35 + memb * 2 ^ 27 + chunk * 2 ^ 6 + pkt

/-- The mask and girt copies for a list of nodes (R121), and how many get no copy. -/
def Hub.trussFor (h : Hub) (p : Packet) (nodes : List Node) : Nat × List (Nat × Nat) × Nat :=
  nodes.foldl (fun (m, via, lost) n =>
    match h.reach n with
    | .own => (m ||| 2 ^ 78, via, lost)
    | .peer pair => (m, h.addVia p via pair 78, lost)
    | .joist j =>
      if h.portUp j then (m ||| 2 ^ j, via, lost)
      else match h.detourOf j with
        | some d => (m, h.addVia p via d.pair j, lost)
        | none => (m, via, lost + 1)
    | .none => (m, via, lost + 1)) (0, [], 0)

/-- A COLR packet of a collective to some of its members, through the truss (R121): the hub, and the packet's identity if any
copy is to be made. FLOW is CHUNK[7:0] (R174). MEMB of its locator is 0. -/
def Hub.sendColr (h : Hub) (cid : Nat) (s : Slot) (ms : List Nat) (md : BitVec 4) (chunk pkt fmt : Nat) (payload : List Byte)
    (rchk : Option Word) : Hub × Option Nat :=
  let p : Packet := h.stamp (some s.desc.part)
    { cls := 2, src := h.self, dst := h.self, opc := opcColr, md := md, mc := true, flow := BitVec.ofNat 8 chunk,
      loc := BitVec.ofNat 52 (cloc cid s.gen 0 chunk pkt), aux40 := BitVec.ofNat 40 (fmt * 2 ^ 36), payload := payload,
      rck := rchk.isSome, rchk := rchk.getD 0 }
  let (m, via, lost) := h.trussFor p (ms.map fun i => s.desc.members.getD i 0)
  let h := h.countBy rTrsNoTarget lost
  if m = 0 ∧ via = [] then (h, none)
  else
    let bits := via.foldl (fun m v => m ||| 2 ^ v.1) m
    let p := Packet.setMask (Packet.sealChk ({ p with rep := h.epoch } : Packet)) bits
    let x : Held := { pid := h.swc.nextPid, ing := .inner, vc := p.chan, at_ := h.now, pkt := p, via := via }
    ({ h with swc := { h.swc with rx := h.swc.rx ++ [x], nextPid := h.swc.nextPid + 1 } }, some h.swc.nextPid)

/-! ### Endings (R183, R184, R210) -/

/-- The FINAL payload (Table 6.10). -/
def finalBytes (status memb chunk taint sent : Nat) : List Byte :=
  wordsBytes [BitVec.ofNat 64 (status + memb % 256 * 2 ^ 8 + chunk % 2 ^ 21 * 2 ^ 16), BitVec.ofNat 64 (taint % 2 ^ 32),
              BitVec.ofNat 64 (sent % 2 ^ 22)]

/-- A packet is still in the hub, not yet transmitted or delivered. -/
def Hub.stillHere (h : Hub) (pid : Nat) : Bool :=
  (h.swc.rx.any fun x => decide (x.pid = pid)) || (h.swc.queues.any fun q => q.2.any fun x => decide (x.pid = pid))

/-- The chunk of a ring slot has left: its results are sent and no copy of them is still here (R174). -/
def Hub.chunkLeft (h : Hub) (x : Chunk) : Bool := x.sent && !(x.pids.any h.stillHere)

/-- SENT: chunks whose results have left the hub. -/
def Hub.sentOf (h : Hub) (s : Slot) : Nat := s.left + (s.chunks.filter fun x => h.chunkLeft x.2).length

/-- Free bytes in a range of this hub's pool memory (log entry 26). -/
def Hub.spoilPool (h : Hub) (fa len : Nat) : Hub :=
  let h := h.fillPages (faOff fa) len
  ({ h with mem := { h.mem with cells := tsetRun 0 h.mem.cells (faOff fa) (fit len (Config.freeBytes h.draw len)) } } : Hub).redraw

/-- A RAISE that did not end with OK leaves its shadow arrays and shadow word 7 undefined (R210). -/
def Hub.spoilShadow (h : Hub) (r : RaiseDesc) : Hub :=
  ((headerArrays r.shdr).foldl (fun h x => h.spoilPool x.1 x.2.1) h).spoilPool (r.shd + 56) 8

/-- A collective ended (R183): FINAL to every member, the opener's status, kerfs and LOCK released, the slot DONE. -/
def Hub.endColl (h : Hub) (cid status memb chunk : Nat) : Hub :=
  let s := h.slot cid
  if !s.holds then h
  else
    let sent := h.sentOf s
    let pay := finalBytes status memb chunk s.taint sent
    let h := if status = stProtocol then h.count rSawProtocol else h
    let h := (h.sendColr cid s (List.range s.n) 3 0 0 s.desc.outF pay none).1
    let h := match s.desc.raise with
      | some r => (if status = 0 then h else h.spoilShadow r).setFld (rSegDir r.seg) 62 1 0
      | none => h
    let h := h.setSlot cid { s with state := .done, chunks := [], ring := [], confirms := [], timer := none, items := [],
                                    left := sent, doneAt := h.now }
    match s.opener with
    | .ring id => h.opFinish id status fun o => { o with memb := memb, chunk := chunk, taint := s.taint, progress := sent,
                                                          total := s.total, final := if status = 0 then s.total else 0 }
    | o => h.faStore (h.openerWho o) s.desc.status (pay ++ leBytes 8 (h.ticket cid s).toNat)

/-- SLOT_DONE_EXPIRY (R169). -/
def execSlotDoneExpiry (cid : Fin 512) (s : State) : Host.Outcome State Fault Refusal :=
  onHub (fun h =>
    let x := h.slot cid.val
    if x.state = .done ∧ x.doneAt + 4 * h.lifetime ≤ h.now then h.setSlot cid.val { state := .free, gen := x.gen } else h) s

/-- SAW_SR_SEED_WRITE (R150): every generator is re-seeded. -/
def Hub.seedWrite (h : Hub) (w : Word) : Hub :=
  let h := h.setReg rSawSeed w
  { h with coll := { h.coll with gens := [] } }

end Sys2Proof.Machine
end

