-- ==== Sys2Proof/Machine/Chunks.lean ====
section
/-! DEFINITION. One chunk at its sawpit (R172 to R180): the sums, the results and the ring. -/
namespace Sys2Proof.Machine

/-- The chunk index that a ring slot has reached. -/
def Slot.chunkAt (s : Slot) (r : Nat) : Nat := r + s.k * tget 0 s.ring r
/-- The chunk of a ring slot. -/
def Slot.chunk (s : Slot) (r : Nat) : Chunk := tget {} s.chunks r
/-- The slot with the chunk of a ring slot set. -/
def Slot.setChunk (s : Slot) (r : Nat) (x : Chunk) : Slot := { s with chunks := tset {} s.chunks r x }
/-- The sawpit of a chunk (R166). -/
def Slot.sawOf (s : Slot) (c : Nat) : Nat := s.saws.getD (c % s.desc.sawpits) 0
/-- The stall timer restarted (R185). -/
def Slot.restart (s : Slot) (now : Nat) : Slot := { s with timer := some (now + s.desc.tmo * 1000) }
/-- A chunk recorded as corrupt (R180). -/
def Slot.blotch (s : Slot) (c : Nat) : Slot := { s with corrupt := some (min c (s.corrupt.getD c)) }

/-- Ring slots whose chunk has left the hub are freed (R174), and the opener's progress follows. -/
def Hub.refresh (h : Hub) (cid : Nat) : Hub :=
  let s := h.slot cid
  let gone := s.chunks.filter fun x => h.chunkLeft x.2
  if gone = [] then h
  else
    let s := gone.foldl (fun (s : Slot) x =>
      { s with ring := tset 0 s.ring x.1 (tget 0 s.ring x.1 + 1), chunks := tdel s.chunks x.1, left := s.left + 1 }) s
    let h := h.setSlot cid s
    match s.opener with
    | .ring id => h.opSet id fun o => { o with progress := s.left }
    | _ => h

/-- A command's write pass or programming is under way: PART_REMOVE, WIPE_REGION and IMAGE_UPDATE (R371, R443). -/
def Hub.passRuns (h : Hub) (c : Cmd) : Bool :=
  decide (c.code = 0x20) || (decide (c.code = 0x13) && h.sec.wipes.any fun x => decide (x.1 = c.func)) ||
  (decide (c.code = 0x11) && (List.range 16).any fun p => match tget none h.sec.removals p with
    | some r => decide (r.func = c.func) && r.wiping
    | none => false)

/-- PROGRESS of a command whose pass is under way: the bytes written so far, which rise by an amount that the spec leaves to the
rate of the pass. -/
def Hub.passMoves (h : Hub) (op : Nat) : Hub :=
  match h.host.cmd.find? fun c => decide (c.op = op) with
  | none => h
  | some c =>
    match h.op op with
    | none => h
    | some o =>
      if h.passRuns c && decide (o.state = opRunning) && decide (o.progress < o.total) then
        h.redraw.opSet op fun o => { o with progress := o.progress + 1 + h.drawn.toNat % (o.total - o.progress) }
      else h

/-- What the hub itself counts of an operation's progress: the chunks of the collectives that it opened which have left, and the
bytes of a command's pass. -/
def Hub.refreshOf (h : Hub) (op : Nat) : Hub :=
  ((h.coll.slots.filter fun x => decide (x.2.opener = .ring op)).foldl (fun h x => h.refresh x.1) h).passMoves op

/-- STATUS_PROGRESS_UPDATE (R325). -/
def execStatusProgressUpdate (op : Nat) (s : State) : Host.Outcome State Fault Refusal :=
  onHub (fun h =>
    let h := h.refreshOf op
    match h.op op with
    | some o => if o.state = opRunning ∧ o.dirty ∧ o.step = 0 then h.updateStart op else h
    | none => h) s

/-! ### Sums (R158, R161, R178) -/

/-- The bytes of block `i` of a member's contribution: within DATA packet i div b. -/
def Chunk.blockBytes (x : Chunk) (f m i : Nat) : List Byte :=
  let b := blocksPer f
  slice ((tget none x.data (64 * m + i / b)).getD []) (i % b * Machine.blockBytes f) (Machine.blockBytes f)

/-- Two sums of a block combined by OP (R161). -/
def combineOp (op : Nat) (a b : List Int) : List Int :=
  if op = 1 then List.zipWith max a b else if op = 2 then List.zipWith min a b else List.zipWith (· + ·) a b

/-- The contribution of one member to a block, and the taint of reading it. -/
def Slot.memberBlock (s : Slot) (x : Chunk) (m c i e : Nat) (r : Rnd) : List Int × Rnd :=
  let n := s.contrib m c
  if 32 * i < n then
    let (_, v, r) := readBlock s.desc.inF e (min 32 (n - 32 * i)) (x.blockBytes s.desc.inF m i) r
    (v, r)
  else (List.replicate 32 0, r)

/-- The scale at which a block's contributions are summed: the agreed one, the contributor's, or that of plain integers. -/
def Slot.scaleOf (s : Slot) (x : Chunk) (c i : Nat) : Nat :=
  if s.desc.scaled then (x.agreed.getD []).getD i 0
  else if s.desc.sends63 then
    match (s.coverers c).find? fun m => decide (32 * i < s.contrib m c) with
    | some m => ((tget [] x.res m).getD i 0).toNat
    | none => 0
  else 127

/-- The blocks of a DATA payload added into the kerf (R178): `n` blocks of member `m` from block `i` on. -/
def Slot.addBlocks (s : Slot) (x : Chunk) (m c : Nat) : Nat → Nat → Rnd → Chunk × Rnd
  | 0, _, r => (x, r)
  | n + 1, i, r =>
    let (v, r) := s.memberBlock x m c i (s.scaleOf x c i) r
    let old := tget [] x.acc i
    s.addBlocks { x with acc := tset [] x.acc i (if old = [] then v else combineOp s.desc.op old v) } m c n (i + 1) r

/-- The sum of a block of a reduction: a member that does not cover it contributes zeros (R177). -/
def Slot.blockSum (s : Slot) (x : Chunk) (c i : Nat) : List Int :=
  let old := tget [] x.acc i
  if old = [] then List.replicate 32 0
  else if (List.range s.n).any fun m => decide (s.contrib m c ≤ 32 * i) then combineOp s.desc.op old (List.replicate 32 0)
  else old

/-- The blocks of a chunk as A48 sums at their scales; of a kind that only passes data on, its one contributor's. -/
def Slot.sumBlocks (s : Slot) (x : Chunk) (c : Nat) : Nat → Nat → Rnd → List (Nat × List Int) × Rnd
  | 0, _, r => ([], r)
  | n + 1, i, r =>
    let e := s.scaleOf x c i
    let r := if e = 255 then r.blot 1 else r
    let e := min e 254
    let (v, r) : List Int × Rnd :=
      if reducing s.desc.kind then (s.blockSum x c i, r)
      else match (s.coverers c).head? with
        | some m => s.memberBlock x m c i e r
        | none => (List.replicate 32 0, r)
    let ea := if !fmtBlock s.desc.inF && v.all (fun q => decide (q = 0)) then 0 else e
    let (rest, r) := s.sumBlocks x c n (i + 1) r
    ((ea, v) :: rest, r)

/-- The result blocks of a chunk in OUT_FMT (R158, R161): scale and bytes of each. -/
def resultBlocks (summed : Bool) (f elems : Nat) : List (Nat × List Int) → Nat → Rnd → List (Nat × List Byte) × Rnd
  | [], _, r => ([], r)
  | (ea, v) :: rest, i, r =>
    let n := min 32 (elems - 32 * i)
    let (e, b, r) := if summed then writeSums f ea n v r else writePassed f ea n v r
    let (out, r) := resultBlocks summed f elems rest (i + 1) r
    ((e, b) :: out, r)

/-! ### Results (R172 to R174, R180) -/

/-- A list cut into lists of `n`, at most `fuel` of them. -/
def chunksOf {α : Type} (n : Nat) : Nat → List α → List (List α)
  | 0, _ => []
  | fuel + 1, l => if l = [] then [] else l.take n :: chunksOf n fuel (l.drop n)

/-- The results of a chunk sent: scales, DATA with RCHK on the last, releases; then the ring slot waits for them to leave. -/
def Hub.sendResults (h : Hub) (cid r : Nat) (blocks : List (Nat × List Byte)) : Hub :=
  let s := h.slot cid
  let x := s.chunk r
  let c := s.chunkAt r
  let f := s.desc.outF
  let all := List.range s.n
  let rx := all.filter fun m => s.receives m c
  let free := (s.coverers c).filter fun m => !s.receives m c
  let pays := (chunksOf (blocksPer f) 62 blocks).map fun g => (g.map (·.2)).flatten
  let scales : List Byte := blocks.map fun b => BitVec.ofNat 8 b.1
  let chk := crc64 (pays.flatten ++ (if fmtBlock f then scales else []))
  let rchk := if x.corrupt || s.marked.contains c then ~~~ chk else chk
  let (h, p1) := if fmtBlock f ∧ rx ≠ [] then h.sendColr cid s rx 1 c 63 f scales none else (h, none)
  let (h, ps) := (pays.zipIdx).foldl (fun (acc : Hub × List (Option Nat)) (y : List Byte × Nat) =>
    if rx = [] then acc
    else
      let (h, p) := acc.1.sendColr cid s rx 0 c y.2 f y.1 (if y.2 + 1 = pays.length then some rchk else none)
      (h, p :: acc.2)) (h, [])
  let (h, p2) := if free ≠ [] then h.sendColr cid s free 0 c 0 f [] none else (h, none)
  let x := { x with sent := true, data := [], acc := [], pids := (p1 :: p2 :: ps).filterMap id }
  h.setSlot cid ((s.setChunk r x).restart h.now)

/-- Every expected step-1 packet of a chunk is in. -/
def Slot.scalesIn (s : Slot) (x : Chunk) (c : Nat) : Bool := (s.coverers c).all fun m => decide (tget [] x.own m ≠ [])

/-- Every DATA packet, and every PKT 63 scale, of a chunk is in. -/
def Slot.dataIn (s : Slot) (x : Chunk) (c : Nat) : Bool :=
  (s.coverers c).all fun m =>
    ((List.range (dataPackets s.desc.inF (s.contrib m c))).all fun i => (tget none x.data (64 * m + i)).isSome) &&
    (!s.desc.sends63 || decide (tget [] x.res m ≠ []))

/-- The agreed scales of a chunk (R156): the largest of the members' scales, 255 read as 254 with a taint. -/
def Slot.agree (s : Slot) (x : Chunk) (c : Nat) : List Nat × Nat :=
  let cov := s.coverers c
  let blocks := ceilDiv ((cov.map fun m => s.contrib m c).foldl max 0) 32
  let at_ (i m : Nat) : Nat := ((tget [] x.own m).getD i 0).toNat
  ((List.range blocks).map fun i => (cov.map fun m => min 254 (at_ i m)).foldl max 0,
   ((List.range blocks).map fun i => (cov.filter fun m => decide (at_ i m = 255)).length).sum)

end Sys2Proof.Machine
end

