-- ==== Sys2Proof/Machine/Raise.lean ====
section
/-! DEFINITION. RAISE (chapter 7): items to update bays, the supplied kernels, conversion of the new weights, commit. -/
namespace Sys2Proof.Machine

/-- The update bay of a chunk (R201). -/
def RaiseDesc.bayOf (r : RaiseDesc) (c : Nat) : Nat := r.ubays.getD (c % r.ubays.length) 0
/-- WFMT of the headers. -/
def RaiseDesc.wfmt (r : RaiseDesc) : Nat := bitsGet (r.hdr.getD 0 0) 40 4

/-- Offsets of a buffer within ITEM_AREA: sums, scales, output, output scales (DESIGN CHOICE, log entry 14). -/
def itemBuf (area k : Nat) : Nat × Nat × Nat × Nat :=
  let b := area + 0x1000 + k % 16 * 0x7000
  (b, b + 0x4000, b + 0x4400, b + 0x6400)

/-- Items of a bay among those posted before an index. -/
def Slot.bayIndex (s : Slot) (r : RaiseDesc) (b n : Nat) : Nat :=
  ((s.items.take n).filter fun c => decide (r.bayOf c = b)).length

/-- Where a RAISE keeps its buffers in the loft of an update bay: ITEM_AREA of a tenant kernel, the range that R201 gives a supplied
one. -/
def RaiseDesc.area (r : RaiseDesc) : Nat := if r.kernel = 3 then bitsGet r.tkctl 0 22 else 0x300000

/-- Step U1: the sums and scales of a chunk copied into the update bay's loft (R200, R206). -/
def Hub.copyItem (h : Hub) (s : Slot) (r : RaiseDesc) (c n : Nat) (blocks : List (Nat × List Int)) : Hub :=
  let b := r.bayOf c
  let (sum, sc, _, _) := itemBuf r.area (s.bayIndex r b n)
  let h := h.memPut (loftOff b sum) ((blocks.map fun x => packBlock fA48 x.2).flatten)
  h.memPut (loftOff b sc) (fit 64 (blocks.map fun x => BitVec.ofNat 8 x.1))

/-- Step U1 for a tenant kernel: sums, scales and work item written into the loft, then ITEM_PEG advanced (R206). -/
def Hub.postItem (h : Hub) (s : Slot) (r : RaiseDesc) (c n : Nat) : Hub :=
  let b := r.bayOf c
  let k := s.bayIndex r b n
  let area := r.area
  let (sum, sc, out, osc) := itemBuf area k
  let item := [BitVec.ofNat 64 (c + s.elems c * 2 ^ 21), BitVec.ofNat 64 (sum + sc * 2 ^ 22), BitVec.ofNat 64 (out + osc * 2 ^ 22),
    r.hdr.getD 7 0 + 1] ++ r.args ++ [0]
  let h := h.memPut (loftOff b (area + k % 16 * 64)) (wordsBytes item)
  h.advancePeg (bitsGet r.tkctl 32 12) 1

/-- Chunks posted to a bay and not finished. -/
def Slot.bayBusy (s : Slot) (r : RaiseDesc) (b : Nat) : Nat :=
  (s.chunks.filter fun x => x.2.item.isSome && x.2.weights.isNone && decide (r.bayOf (s.chunkAt x.1) = b)).length

/-- Step U1 (R200, R201): every summed chunk whose bay has room is posted. -/
def Hub.raisePost (h : Hub) (cid : Nat) : Hub :=
  (h.slot cid).chunks.foldl (fun h x =>
    let s := h.slot cid
    match s.desc.raise, x.2.sums, x.2.item with
    | some r, some blocks, none =>
      let c := s.chunkAt x.1
      if s.bayBusy r (r.bayOf c) < 16 then
        let n := s.items.length
        let h := h.setSlot cid { s.setChunk x.1 { x.2 with item := some n } with items := s.items ++ [c] }
        let h := h.copyItem s r c n blocks
        if r.kernel = 3 then h.postItem s r c n else h
      else h
    | _, _, _ => h) h

/-! ### The supplied kernels (R204, R205) -/

/-- One element of raise_update: new weight and moments, and the taint of a nonpositive x. -/
def kernelElem (kernel : Nat) (k : Nat → Dy) (g w m1 m2 : Dy) : Dy × Dy × Dy × Nat :=
  let lr := k 0
  let wd := k 2
  let k1 := k 3
  let step (d : Dy) : Dy := w.sub (lr.mul (d.add (wd.mul w)))
  if kernel = 0 then (step g, m1, m2, 0)
  else if kernel = 1 then
    let m1 := (k1.mul m1).add g
    (step m1, m1, m2, 0)
  else
    let m1 := (k1.mul m1).add ((Dy.one.sub k1).mul g)
    let m2 := ((k 4).mul m2).add ((Dy.one.sub (k 4)).mul (g.mul g))
    let x := (m2.mul (k 6)).add (k 7)
    let t := if x.m ≤ 0 then 1 else 0
    let x := if x.m ≤ 0 then k 7 else x
    (step ((m1.mul (k 5)).mul x.rsq), m1, m2, t)

/-- A block of an array: its scale and integers, from its bytes. -/
def blockDys (f n : Nat) (sc : Byte) (bs : List Byte) (r : Rnd) : List Dy × Rnd :=
  let (e, qs, r) := readBlock f sc.toNat n bs r
  (qs.map fun q => Dy.ofScaled q e, r)

/-- Whether a kernel writes the first moment, and the second. -/
def uses1 (kernel : Nat) : Bool := decide (kernel = 1) || decide (kernel = 2)
def uses2 (kernel : Nat) : Bool := decide (kernel = 2)

/-- A block that a kernel carries unchanged: its first `n` elements, and zeros beyond (R146, R205). -/
def carried (f n : Nat) (bs : List Byte) : List Byte :=
  if f = 15 then [] else leBytes (blockBytes f) (leNat (fit (blockBytes f) bs) % 2 ^ (n * fmtWidth f))

/-- One block of a chunk updated: inputs (scale, bytes) of weights and moments, outputs likewise (R204, R205). -/
def kernelBlock (rd : RaiseDesc) (n : Nat) (sum : Nat × List Int) (w m1 m2 : Byte × List Byte) (r : Rnd) :
    (Nat × List Byte) × (Nat × List Byte) × (Nat × List Byte) × Rnd :=
  let f0 := bitsGet (rd.hdr.getD 0 0) 40 4
  let f1 := bitsGet (rd.hdr.getD 0 0) 44 4
  let f2 := bitsGet (rd.hdr.getD 0 0) 48 4
  let k (i : Nat) : Dy := Dy.ofConst (rd.consts.getD i 0)
  let (ws, r) := blockDys f0 n w.1 w.2 r
  let (as, r) := if uses1 rd.kernel then blockDys f1 n m1.1 m1.2 r else ([], r)
  let (bs, r) := if uses2 rd.kernel then blockDys f2 n m2.1 m2.2 r else ([], r)
  let zero : Dy := { m := 0, e := 0 }
  let outs := (List.range n).map fun i =>
    let g := (k 1).mul (Dy.ofScaled (sum.2.getD i 0) sum.1)
    kernelElem rd.kernel k g (ws.getD i zero) (as.getD i zero) (bs.getD i zero)
  let r := r.blot (outs.map fun o => o.2.2.2).sum
  let (e0, b0, r) := writeBlock f0 (outs.map (·.1)) r
  let (o1, r) := if uses1 rd.kernel then
      let (e, b, r) := writeBlock f1 (outs.map (·.2.1)) r
      ((e, b), r)
    else ((m1.1.toNat, carried f1 n m1.2), r)
  let (o2, r) := if uses2 rd.kernel then
      let (e, b, r) := writeBlock f2 (outs.map (·.2.2.1)) r
      ((e, b), r)
    else ((m2.1.toNat, carried f2 n m2.2), r)
  ((e0, b0), o1, o2, r)

/-- Bytes of this hub's pool memory, where a RAISE's state lies (R192); none where the word is uncorrectable or the memory is not
there. -/
def Hub.poolRead (h : Hub) (fa len : Nat) : Option (List Byte) × Hub :=
  if h.memThere (faOff fa) len then h.memRead (faOff fa) len else (none, h)

/-- Bytes written in this hub's pool memory; false where the write would be NAKed. -/
def Hub.poolWrite (h : Hub) (fa : Nat) (bs : List Byte) : Bool × Hub :=
  if h.memThere (faOff fa) bs.length then
    match h.memWrite (faOff fa) bs with
    | (some h, _) => (true, h)
    | (none, h) => (false, h)
  else (false, h)

/-- A chunk's part of an array of a header: element bytes and scale bytes; none where it cannot be read. -/
def Hub.arrayRead (h : Hub) (f el sc chunk nb : Nat) : Option (List Byte × List Byte) × Hub :=
  if f = 15 then (some ([], []), h)
  else match h.poolRead (el + 64 * chunk * blockBytes f) (nb * blockBytes f) with
    | (none, h) => (none, h)
    | (some a, h) =>
      match h.poolRead (sc + 64 * chunk) nb with
      | (none, h) => (none, h)
      | (some b, h) => (some (a, b), h)

/-- A chunk's part of a shadow array written; false where a write fails. -/
def Hub.arrayWrite (h : Hub) (f el sc chunk : Nat) (blocks : List (Nat × List Byte)) : Bool × Hub :=
  if f = 15 then (true, h)
  else match h.poolWrite (el + 64 * chunk * blockBytes f) ((blocks.map (·.2)).flatten) with
    | (false, h) => (false, h)
    | (true, h) => h.poolWrite (sc + 64 * chunk) (blocks.map fun b => BitVec.ofNat 8 b.1)

/-- The block of an array's bytes. -/
def blockAt (f : Nat) (x : List Byte × List Byte) (i : Nat) : Byte × List Byte :=
  (x.2.getD i 0, slice x.1 (i * blockBytes f) (blockBytes f))

/-- Every block of a chunk updated in order. -/
def kernelBlocks (rd : RaiseDesc) (elems : Nat) (w m1 m2 : List Byte × List Byte) :
    List (Nat × List Int) → Nat → Rnd → List ((Nat × List Byte) × (Nat × List Byte) × (Nat × List Byte)) × Rnd
  | [], _, r => ([], r)
  | s :: rest, i, r =>
    let f (lo : Nat) := bitsGet (rd.hdr.getD 0 0) lo 4
    let (a, b, c, r) := kernelBlock rd (min 32 (elems - 32 * i)) s (blockAt (f 40) w i) (blockAt (f 44) m1 i) (blockAt (f 48) m2 i) r
    let (out, r) := kernelBlocks rd elems w m1 m2 rest (i + 1) r
    ((a, b, c) :: out, r)

/-- The update fails (R211): the bay's number and the chunk. -/
def Hub.updateFail (h : Hub) (cid b c : Nat) : Hub := h.endColl cid stUpdateFail b c

/-- An exception of a supplied kernel (R276, R303): one of its threads, of the model's free choice, faults with MEM_UNCORR, and the
RAISE ends with UPDATE_FAIL (R211). -/
def Hub.kernelFault (h : Hub) (cid b c : Nat) : Hub :=
  let t := 12 + h.drawn.toNat % 4
  let x := h.thread b t
  let h := h.redraw.setThread b t { x with epc := x.pc % 2 ^ 20, cause := 0x08, info := h.redraw.drawn }
  (h.redraw.leaveRun b t .faulted).updateFail cid b c

/-- The sums and scales of a chunk as its update bay's loft holds them (R200); none at an uncorrectable word. -/
def Hub.itemSums (h : Hub) (s : Slot) (r : RaiseDesc) (x : Chunk) (c nb : Nat) : Option (List (Nat × List Int)) × Hub :=
  let b := r.bayOf c
  let (sum, sc, _, _) := itemBuf r.area (s.bayIndex r b (x.item.getD 0))
  match h.memRead (loftOff b sum) (nb * 256) with
  | (none, h) => (none, h)
  | (some el, h) =>
    match h.memRead (loftOff b sc) nb with
    | (none, h) => (none, h)
    | (some es, h) =>
      (some ((List.range nb).map fun i =>
        let (e, qs, _) := readBlock fA48 (es.getD i 0).toNat 32 (slice el (256 * i) 256) { gen := 0 }
        (e, qs)), h)

/-- The new weight blocks of a chunk put into the output buffer of its update bay (R200). -/
def Hub.putOutput (h : Hub) (s : Slot) (r : RaiseDesc) (x : Chunk) (c : Nat) (ws : List (Nat × List Byte)) : Hub :=
  let b := r.bayOf c
  let (_, _, out, osc) := itemBuf r.area (s.bayIndex r b (x.item.getD 0))
  (h.memPut (loftOff b out) ((ws.map (·.2)).flatten)).memPut (loftOff b osc) (ws.map fun w => BitVec.ofNat 8 w.1)

/-- Whether a posted chunk is the oldest unfinished one of its bay (R201). -/
def Slot.oldestItem (s : Slot) (r : RaiseDesc) (x : Chunk) (c : Nat) : Bool :=
  !(s.chunks.any fun y => y.2.weights.isNone && decide (r.bayOf (s.chunkAt y.1) = r.bayOf c) &&
    decide (y.2.item.isSome) && decide (y.2.item.getD 0 < x.item.getD 0))

/-- The inputs of a chunk's update: its sums from the loft, and the current weights and moments from pool memory (R200). -/
def Hub.kernelInputs (h : Hub) (s : Slot) (rd : RaiseDesc) (x : Chunk) (chunk nb : Nat) :
    Option (List (Nat × List Int) × (List Byte × List Byte) × (List Byte × List Byte) × (List Byte × List Byte)) × Hub :=
  let f (lo : Nat) := bitsGet (rd.hdr.getD 0 0) lo 4
  let a (i : Nat) := bitsGet (rd.hdr.getD i 0) 0 52
  match h.itemSums s rd x chunk nb with
  | (none, h) => (none, h)
  | (some sums, h) =>
    match h.arrayRead (f 40) (a 1) (a 2) chunk nb with
    | (none, h) => (none, h)
    | (some w, h) =>
      match h.arrayRead (f 44) (a 3) (a 4) chunk nb with
      | (none, h) => (none, h)
      | (some m1, h) =>
        match h.arrayRead (f 48) (a 5) (a 6) chunk nb with
        | (none, h) => (none, h)
        | (some m2, h) => (some (sums, w, m1, m2), h)

/-- The outputs of a chunk's update written into the shadow arrays (R200); false where a write is NAKed. -/
def Hub.kernelOutputs (h : Hub) (rd : RaiseDesc) (chunk : Nat)
    (outs : List ((Nat × List Byte) × (Nat × List Byte) × (Nat × List Byte))) : Bool × Hub :=
  let f (lo : Nat) := bitsGet (rd.hdr.getD 0 0) lo 4
  let o (i : Nat) := bitsGet (rd.shdr.getD i 0) 0 52
  match h.arrayWrite (f 40) (o 1) (o 2) chunk (outs.map (·.1)) with
  | (false, h) => (false, h)
  | (true, h) =>
    match h.arrayWrite (f 44) (o 3) (o 4) chunk (outs.map (·.2.1)) with
    | (false, h) => (false, h)
    | (true, h) => h.arrayWrite (f 48) (o 5) (o 6) chunk (outs.map (·.2.2))

/-- Step U2 by a supplied kernel (R200, R204); a failed residue check marks the chunk corrupt (R202). -/
def Hub.runKernel (h : Hub) (kernel cid chunk : Nat) : Hub :=
  let s := h.slot cid
  let k := chunk % max 1 s.k
  let x := s.chunk k
  match s.desc.raise, x.sums with
  | some rd, some posted =>
    if !s.holds || decide (rd.kernel ≠ kernel) || decide (s.chunkAt k ≠ chunk) || x.item.isNone || x.weights.isSome
        || !s.oldestItem rd x chunk || !h.alive then h
    else
      let b := rd.bayOf chunk
      match h.kernelInputs s rd x chunk posted.length with
      | (none, h) => h.kernelFault cid b chunk
      | (some (sums, w, m1, m2), h) =>
        let (outs, r) := kernelBlocks rd (s.elems chunk) w m1 m2 sums 0 (h.rnd (17 + b) s.desc.rmode)
        let h := h.saveRnd (17 + b) r
        let inj := h.injected (fltBay b) 6
        let slip : Bool := decide (inj ≠ 0)
        let h := if slip then (h.injectDone inj).reportInternal (fltBay b) 6 else h
        match h.kernelOutputs rd chunk outs with
        | (false, h) => h.updateFail cid b chunk
        | (true, h) =>
          let h := h.putOutput s rd x chunk (outs.map (·.1))
          let s := h.slot cid
          let s := if slip then s.blotch chunk else s
          h.setSlot cid { s.setChunk k { x with weights := some (outs.map (·.1)), corrupt := x.corrupt || slip } with
            taint := min (s.taint + r.taint) (2 ^ 32 - 1) }
  | _, _ => h

/-- VE_UPD_SCALED (R204). -/
def execVeUpdScaled (cid : Fin 512) (chunk : Nat) (s : State) : Host.Outcome State Fault Refusal :=
  onHub (fun h => h.runKernel 0 cid.val chunk) s
/-- VE_UPD_MOM (R204). -/
def execVeUpdMom (cid : Fin 512) (chunk : Nat) (s : State) : Host.Outcome State Fault Refusal :=
  onHub (fun h => h.runKernel 1 cid.val chunk) s
/-- VE_UPD_ADAPT2 (R204). -/
def execVeUpdAdapt2 (cid : Fin 512) (chunk : Nat) (s : State) : Host.Outcome State Fault Refusal :=
  onHub (fun h => h.runKernel 2 cid.val chunk) s

/-! ### Step U3 (R203) and the commit (R208) -/

/-- An item is finished: by its supplied kernel, or as the tenant's DONE_PEG says (R206). -/
def Hub.itemDone (h : Hub) (s : Slot) (r : RaiseDesc) (x : Chunk) : Bool :=
  if r.kernel = 3 then decide (x.item.getD 0 < ((h.peg (bitsGet r.tkctl 48 12)).value - s.pegBase).toNat) else x.weights.isSome

/-- The new weight blocks of a finished item, from its output buffer (R203, R206). -/
def Hub.itemOut (h : Hub) (s : Slot) (r : RaiseDesc) (x : Chunk) (c nb : Nat) : Option (List (Nat × List Byte)) × Hub :=
  let b := r.bayOf c
  let (_, _, out, osc) := itemBuf r.area (s.bayIndex r b (x.item.getD 0))
  let f := r.wfmt
  match h.memRead (loftOff b out) (nb * blockBytes f) with
  | (none, h) => (none, h)
  | (some el, h) =>
    match h.memRead (loftOff b osc) nb with
    | (none, h) => (none, h)
    | (some sc, h) => (some ((List.range nb).map fun i => ((sc.getD i 0).toNat, slice el (i * blockBytes f) (blockBytes f))), h)

/-- The new weight blocks converted to H16 or B16 (R203). -/
def convertAll (wf f elems : Nat) : List (Nat × List Byte) → Nat → Rnd → List (Nat × List Byte) × Rnd
  | [], _, r => ([], r)
  | (e, b) :: rest, i, r =>
    let (e', qs, r) := readBlock wf e (min 32 (elems - 32 * i)) b r
    let (cs, r) := if e' = 0 then (qs.map fun _ => 0, r) else floatAll f ((e' : Int) - 127) qs r
    let (out, r) := convertAll wf f elems rest (i + 1) r
    ((0, packBlock f (cs.map (Int.ofNat ·))) :: out, r)

/-- Step U3 of a chunk from its new weight blocks: converted under the collective's RMODE, and sent. -/
def Hub.convertSend (h : Hub) (cid k chunk : Nat) (rd : RaiseDesc) (blocks : List (Nat × List Byte)) : Hub :=
  let s := h.slot cid
  let x := s.chunk k
  let (out, r) := if s.desc.outF = rd.wfmt then (blocks, h.rnd (1 + s.sawOf chunk) s.desc.rmode)
    else convertAll rd.wfmt s.desc.outF (s.elems chunk) blocks 0 (h.rnd (1 + s.sawOf chunk) s.desc.rmode)
  let h := h.saveRnd (1 + s.sawOf chunk) r
  let s := h.slot cid
  let h := h.setSlot cid { s.setChunk k { x with weights := some blocks } with taint := min (s.taint + r.taint) (2 ^ 32 - 1) }
  (h.sendResults cid k out).raisePost cid

/-- RAISE_U3_CONVERT (R203): once the item is finished, the chunk completes and its new weights are sent. An output buffer that cannot be
read marks the chunk corrupt (DEDUCED, log entry 14: R305 gives fast kerfs that handling). -/
def execRaiseU3Convert (cid : Fin 512) (chunk : Nat) (s : State) : Host.Outcome State Fault Refusal :=
  onHub (fun h =>
    let s := h.slot cid.val
    let k := chunk % max 1 s.k
    let x := s.chunk k
    match s.desc.raise, x.sums with
    | some rd, some sums =>
      if !s.holds || decide (s.chunkAt k ≠ chunk) || x.sent || x.item.isNone || !h.itemDone s rd x || !h.alive then h
      else match h.itemOut s rd x chunk sums.length with
        | (some blocks, h) => h.convertSend cid.val k chunk rd blocks
        | (none, h) =>
          let s := h.slot cid.val
          let h := h.setSlot cid.val ((s.setChunk k { x with corrupt := true }).blotch chunk)
          h.convertSend cid.val k chunk rd (List.replicate sums.length (0, zeros (blockBytes rd.wfmt)))
    | _, _ => h) s

/-- Step 1 of the commit (R208): NSTEP written into word 7 of the shadow header, by the agent that R73 names for it. -/
def Hub.commit (h : Hub) (cid : Nat) (r : RaiseDesc) : Hub :=
  let a : Agent := .raiseCommit cid
  let h := h.setSlot cid { h.slot cid with closing := true, timer := none }
  h.issueD a { h.request a (r.shd + 56) opcWra 0 with payload := leBytes 8 (r.hdr.getD 7 0 + 1).toNat } (.commit cid)

/-- Steps 2 and 3 of the commit, once that write is performed (R208): the entry moved to the shadow header, and the end with OK. Where
the write failed R208 states no other outcome, so the commit goes on (DESIGN CHOICE, log entry 14). -/
def Hub.commitEnd (h : Hub) (cid : Nat) : Hub :=
  let s := h.slot cid
  match s.desc.raise with
  | some r => if s.holds && s.closing then (h.setFld (rSegDir r.seg) 0 52 r.shd).endColl cid 0 0 0 else h
  | none => h

/-- A bay whose threads 12 to 15 belong to a supplied kernel (R201, R276). -/
def Hub.kernelBay (h : Hub) (b : Nat) : Bool :=
  h.holding.any fun s => match s.desc.raise with
    | some r => decide (r.kernel ≠ 3) && r.ubays.contains b
    | none => false

/-- The collective whose supplied kernel owns a thread. -/
def Hub.kernelSlot (h : Hub) (b t : Nat) : Option Nat :=
  if t < 12 then none
  else (List.range 512).find? fun c => (h.slot c).holds && (match (h.slot c).desc.raise with
    | some r => decide (r.kernel ≠ 3) && r.ubays.contains b
    | none => false)

end Sys2Proof.Machine
end

