-- ==== Sys2Proof/Machine/Sawpit.lean ====
section
/-! DEFINITION. The sawpits' commands (R45, R174 to R187): COLC packets, the stall timer, the segment directory. -/
namespace Sys2Proof.Machine

/-- CID of a locator (Table 2.8). -/
def Packet.cid (p : Packet) : Nat := p.loc.toNat >>> 43
/-- GEN of a locator. -/
def Packet.gen (p : Packet) : Nat := (p.loc.toNat >>> 35) % 256
/-- MEMB of a locator. -/
def Packet.memb (p : Packet) : Nat := (p.loc.toNat >>> 27) % 256
/-- CHUNK of a locator. -/
def Packet.chunkIx (p : Packet) : Nat := (p.loc.toNat >>> 6) % 2 ^ 21
/-- PKT of a locator. -/
def Packet.pktIx (p : Packet) : Nat := p.loc.toNat % 64

/-- A collective ended with PROTOCOL, naming the member (R181). -/
def Hub.protocol (h : Hub) (p : Packet) : Hub := h.endColl p.cid stProtocol p.memb 0

/-- The ring slot of a packet's chunk. -/
def Slot.ringOf (s : Slot) (p : Packet) : Nat := p.chunkIx % max 1 s.k

/-- The packet is of the collective's partition and format, from one of its members (R181). -/
def Slot.belongs (s : Slot) (p : Packet) : Bool :=
  decide (p.part.toNat = s.desc.part) && !p.isSystem && decide (p.fmt = s.desc.inF) && decide (p.memb < s.n)

/-- What a DATA or SCALE packet is to its collective (R174, R181). -/
inductive Arrival where
  | protocol
  | repeat_
  | take
  deriving DecidableEq, Repr

/-- The member covers the packet's chunk, and its chunk has that packet. -/
def Slot.covers (s : Slot) (p : Packet) : Bool :=
  let e := s.contrib p.memb p.chunkIx
  decide (e ≠ 0) && (if p.md = 0 then decide (p.pktIx < dataPackets s.desc.inF e)
    else (decide (p.pktIx = 62) && s.desc.scaled) || (decide (p.pktIx = 63) && s.desc.sends63))

/-- A chunk holds the packet already. -/
def Chunk.has (x : Chunk) (p : Packet) : Bool :=
  if p.md = 0 then (tget none x.data (64 * p.memb + p.pktIx)).isSome
  else if p.pktIx = 62 then decide (tget [] x.own p.memb ≠ []) else decide (tget [] x.res p.memb ≠ [])

/-- The judgement of a DATA or SCALE packet. A packet of a chunk already finished repeats one received. -/
def Slot.judge (s : Slot) (p : Packet) : Arrival :=
  let c := p.chunkIx
  let r := s.ringOf p
  let x := s.chunk r
  let e := s.contrib p.memb c
  let data := decide (p.md = 0)
  if s.state ≠ .running ∨ ¬ s.belongs p ∨ ¬ s.covers p then .protocol
  else if c < s.chunkAt r then .repeat_
  else if s.chunkAt r < c then .protocol
  else if x.has p || x.sent || x.sums.isSome then .repeat_
  else if data && decide (p.len ≠ dataLen s.desc.inF e p.pktIx) then .protocol
  else if !data && decide (p.len ≠ ceilDiv e 32) then .protocol
  else if data && s.desc.scaled && x.agreed.isNone then .protocol
  else .take

/-! ### The kerf as guarded memory (R303, R305) -/

/-- The OFFSET of a block of sums, 256 bytes, in the slow kerf of a ring slot (R297). -/
def Hub.kerfOff (h : Hub) (cid r i : Nat) : Nat :=
  h.hbmVisible + Config.kerfPlace cid r % max 1 (h.fld rKrfCfg 0 21) * 16384 + i * 256

/-- The sawpit reads `n` blocks of sums from block `i` on of a ring slot's kerf: whether the words mend, and the hub after the events. A
bad word counts as a failed residue check of the chunk. Ring slots below the fast kerfs taken have one of those. -/
def Hub.kerfRead (h : Hub) (cid r i n : Nat) : Bool × Hub :=
  let s := h.slot cid
  let x := s.chunk r
  if r < s.fastK then
    match x.bad with
    | none => (true, h)
    | some (j, k) =>
      if j < i ∨ i + n ≤ j then (true, h)
      else if codeMends k then (true, (h.report fltKrf .corrected 41).setSlot cid (s.setChunk r { x with bad := none }))
      else (false, (h.count rSawResidue).reportInternal fltKrf 41)
  else
    match h.memRead (h.kerfOff cid r i) (256 * n) with
    | (some _, h) => (true, h)
    | (none, h) => (false, (h.count rSawResidue).reportInternal (fltSaw (s.sawOf (s.chunkAt r))) 6)

/-- The sawpit writes sums from block `i` on into a ring slot's kerf (R379): a bad word of a fast kerf stays until the ring slot is used
again (R305), one of a slow kerf is replaced. -/
def Hub.kerfWrite (h : Hub) (cid r i n : Nat) : Hub :=
  let s := h.slot cid
  let x := s.chunk r
  if r < s.fastK then
    let k := h.injected fltKrf 41
    if k = 0 ∨ x.bad.isSome then h else (h.injectDone k).setSlot cid (s.setChunk r { x with bad := some (i, k) })
  else h.wordsPut (h.kerfOff cid r i) (256 * n)

/-- A chunk complete (R178): summed, and its results sent, or for a RAISE posted to its update bay. -/
def Hub.chunkDone (h : Hub) (cid r : Nat) : Hub :=
  let (good, h) := h.kerfRead cid r 0 64
  let s := h.slot cid
  let x := { s.chunk r with corrupt := (s.chunk r).corrupt || !good }
  let c := s.chunkAt r
  let u := 1 + s.sawOf c
  let (blocks, rd) := s.sumBlocks x c (ceilDiv (s.elems c) 32) 0 (h.rnd u s.desc.rmode)
  let s := if x.corrupt then s.blotch c else s
  match s.desc.raise with
  | some _ =>
    let h := h.saveRnd u rd
    let h := h.setSlot cid { s.setChunk r { x with sums := some blocks, data := [], acc := [] } with
      taint := min (s.taint + rd.taint) (2 ^ 32 - 1) }
    h.raisePost cid
  | none =>
    let (out, rd) := resultBlocks (reducing s.desc.kind) s.desc.outF (s.elems c) blocks 0 rd
    let h := h.saveRnd u rd
    let h := h.setSlot cid { s with taint := min (s.taint + rd.taint) (2 ^ 32 - 1) }
    h.sendResults cid r out

/-- A chunk after an arrival: step 2 once every scale is in, completion once every DATA is. -/
def Hub.chunkStep (h : Hub) (cid r : Nat) : Hub :=
  let s := h.slot cid
  let x := s.chunk r
  let c := s.chunkAt r
  if s.desc.scaled && x.agreed.isNone then
    if s.scalesIn x c then
      let (ag, t) := s.agree x c
      let h := h.setSlot cid ({ s.setChunk r { x with agreed := some ag } with
        taint := min (s.taint + t) (2 ^ 32 - 1) }.restart h.now)
      let s := h.slot cid
      (h.sendColr cid s (s.coverers c) 1 c 62 s.desc.inF (ag.map (BitVec.ofNat 8 ·)) none).1
    else h
  else if s.dataIn x c then h.chunkDone cid r
  else h

/-- A DATA or SCALE packet put into its chunk; of one that fails CHK only that it has arrived (R180). The DATA of a reduction is added
into the kerf as it arrives (R178). -/
def Slot.put (s : Slot) (p : Packet) (bad : Bool) (r : Rnd) : Chunk × Rnd :=
  let x := s.chunk (s.ringOf p)
  let pay := if bad then zeros p.len else p.payload
  if p.md = 0 then
    let x := { x with data := tset none x.data (64 * p.memb + p.pktIx) (some pay) }
    let b := blocksPer s.desc.inF
    if bad || !reducing s.desc.kind then (x, r)
    else s.addBlocks x p.memb p.chunkIx (min b (ceilDiv (s.contrib p.memb p.chunkIx) 32 - p.pktIx * b)) (p.pktIx * b) r
  else if p.pktIx = 62 then ({ x with own := tset [] x.own p.memb (if pay = [] then [0] else pay) }, r)
  else ({ x with res := tset [] x.res p.memb (if pay = [] then [0] else pay) }, r)

/-- A DATA or SCALE packet taken into its chunk; a failed residue check marks the chunk corrupt (R179, R180). -/
def Hub.takePiece (h : Hub) (p : Packet) (bad : Bool) : Hub :=
  let sums := decide (p.md = 0) && !bad
  let r := (h.slot p.cid).ringOf p
  let b := blocksPer (h.slot p.cid).desc.inF
  let (good, h) := if sums then h.kerfRead p.cid r (p.pktIx * b) b else (true, h)
  let s := h.slot p.cid
  let saw := s.sawOf p.chunkIx
  let inj := h.injected (fltSaw saw) 6
  let slip := inj ≠ 0 ∧ p.md = 0
  let (x, rd) := s.put p bad (h.rnd (1 + saw) s.desc.rmode)
  let h := h.saveRnd (1 + saw) rd
  let x := { x with corrupt := x.corrupt || bad || decide slip || !good }
  let s := { s.setChunk r x with taint := min (s.taint + rd.taint) (2 ^ 32 - 1) }
  let s := if x.corrupt then s.blotch p.chunkIx else s
  let h := h.setSlot p.cid s
  let h := if sums then h.kerfWrite p.cid r (p.pktIx * b) b else h
  let h := if slip then ((h.injectDone inj).count rSawResidue).reportInternal (fltSaw saw) 6 else h
  h.chunkStep p.cid r

/-- The oldest COLC packet of the sawpits' intake taken where the command names its kind: CHK comes before every other check (R62), then
the slot's state answers (R45, R186). A NAK of it whose route is rejected counts at the ingress of the COLC (R65). -/
def Hub.serveColc (h : Hub) (md : BitVec 4) (bad ok : Packet → Hub → Hub) : Hub :=
  match h.sill.colc with
  | [] => h
  | x :: rest =>
    let p := x.pkt
    if !h.alive || decide (p.md ≠ md) then h
    else
      let h := { h with sill := { h.sill with colc := rest } }
      let h := h.refresh p.cid
      let s := h.slot p.cid
      if !p.chkOk then bad p ((h.count rSawChk).report (fltSaw (s.sawOf p.chunkIx)) .contained 7)
      else if s.state = .free ∨ s.gen ≠ p.gen then h.injectFor (some x.ing) (h.ingressOf p.dst) (p.nakOf nakColl h.self)
      else if s.state = .done then h.count rSawLate
      else ok p h

/-- A DATA or SCALE packet by its judgement. -/
def Hub.colcPiece (p : Packet) (h : Hub) : Hub :=
  match (h.slot p.cid).judge p with
  | .protocol => h.protocol p
  | .repeat_ => h.count rSawDup
  | .take => h.takePiece p false

/-- A DATA or SCALE packet that fails CHK (R62, R180): it is discarded before every other check, counts as arrived where its chunk is
under way and lacks it, and marks its chunk corrupt, under way, to come or already sent. -/
def Hub.colcBad (p : Packet) (h : Hub) : Hub :=
  let s := h.slot p.cid
  let r := s.ringOf p
  let x := s.chunk r
  let c := p.chunkIx
  if s.state ≠ .running ∨ s.gen ≠ p.gen ∨ s.total ≤ c then h
  else if s.chunkAt r = c ∧ s.covers p ∧ ¬ x.has p ∧ ¬ x.sent ∧ x.sums.isNone then h.takePiece p true
  else if s.chunkAt r = c then h.setSlot p.cid ((s.setChunk r { x with corrupt := true }).blotch c)
  else if s.chunkAt r < c then h.setSlot p.cid ({ s with marked := c :: s.marked.filter fun m => !decide (m = c) }.blotch c)
  else h.setSlot p.cid (s.blotch c)

/-- COLC_DATA (R178). -/
def execColcData (s : State) : Host.Outcome State Fault Refusal :=
  onHub (fun h => h.serveColc 0 Hub.colcBad Hub.colcPiece) s

/-- COLC_SCALE (R156). -/
def execColcScale (s : State) : Host.Outcome State Fault Refusal :=
  onHub (fun h => h.serveColc 1 Hub.colcBad Hub.colcPiece) s

/-! ### The counts exchange (R175 to R177, R199) -/

/-- FIRST_CHUNK of every member (R176). -/
def firstChunks (kind : Nat) (counts : List Nat) : List Nat :=
  if kind = kScatter ∨ kind = kGather then (List.range counts.length).map fun m => ((counts.take m).map fun c => ceilDiv c 2048).sum
  else counts.map fun _ => 0

/-- L (Table 6.1). -/
def resultLen (kind root : Nat) (counts : List Nat) : Nat :=
  if kind = kScatter ∨ kind = kGather then 2048 * (counts.map fun c => ceilDiv c 2048).sum
  else if kind = kBroadcast then counts.getD root 0
  else counts.foldl max 0

/-- The COLR COUNT payload (R176, Table 6.9). -/
def countPayload (s : Slot) : List Byte :=
  let d := s.desc
  leBytes 8 (s.len + s.k * 2 ^ 33) ++
  leBytes 8 (d.kind + d.op * 2 ^ 4 + d.inF * 2 ^ 8 + d.outF * 2 ^ 12 + d.rmode * 2 ^ 16 + (s.n - 1) * 2 ^ 18 + d.root * 2 ^ 26) ++
  (s.first.map fun f => leBytes 3 f).flatten

/-- A receiver's CAP is below the length it would receive (R177). -/
def Slot.capShort (s : Slot) (m : Nat) : Bool :=
  let need := if s.desc.kind = kScatter then 2048 * ceilDiv (s.count m) 2048
    else if s.desc.kind = kReduce then (if m = s.desc.root then s.len else 0)
    else if s.desc.kind = kBroadcast then (if m = s.desc.root then 0 else s.len)
    else s.len
  decide (tget 0 s.caps m < need)

/-- Every COUNT is in: the layout is fixed and announced, or the collective ends with COUNT_MISMATCH (R176, R177, R199). -/
def Hub.fixCounts (h : Hub) (cid : Nat) : Hub :=
  let s := h.slot cid
  let counts := (List.range s.n).map s.count
  let s := { s with len := resultLen s.desc.kind s.desc.root counts, first := firstChunks s.desc.kind counts }
  let short := (List.range s.n).find? s.capShort
  let param := match s.desc.raise with
    | some r => decide (s.len ≠ bitsGet (r.hdr.getD 0 0) 0 40)
    | none => false
  if 2 ^ 32 < s.len ∨ 2 ^ 21 < s.total ∨ short.isSome ∨ param = true then
    (h.setSlot cid s).endColl cid stCountMismatch (if 2 ^ 32 < s.len ∨ 2 ^ 21 < s.total ∨ param = true then 0 else short.getD 0) 0
  else
    let s := { s with state := .running }.restart h.now
    let h := h.setSlot cid s
    let h := (h.sendColr cid s (List.range s.n) 2 0 0 s.desc.outF (countPayload s) none).1
    match s.opener with
    | .ring id => h.opSet id fun o => { o with total := s.total }
    | _ => h

/-- COLC_COUNT (R175). One that fails CHK belongs to no chunk and is discarded. -/
def execColcCount (s : State) : Host.Outcome State Fault Refusal :=
  onHub (fun h => h.serveColc 2 (fun _ h => h) (fun p h =>
    let s := h.slot p.cid
    let m := p.memb
    if ¬ s.belongs p ∨ p.len ≠ 16 ∨ p.chunkIx ≠ 0 ∨ p.pktIx ≠ 0 ∨ tget 0 s.counts m ≠ 0 then h.protocol p
    else
      let s := { s with counts := tset 0 s.counts m (leNat (p.payload.take 4) + 1),
                        caps := tset 0 s.caps m (leNat (slice p.payload 8 8) % 2 ^ 33) }
      let s := if s.timer.isNone then s.restart h.now else s
      let h := h.setSlot p.cid s
      if (List.range s.n).all fun i => decide (tget 0 s.counts i ≠ 0) then h.fixCounts p.cid else h)) s

/-! ### Close (R182 to R184, R208) -/

/-- The lowest bad chunk that members or sawpits found, and the lowest member that reported it (Table 6.10). -/
def Slot.worst (s : Slot) : Option (Nat × Nat) :=
  let reps := (List.range s.n).filterMap fun m => match tget none s.confirms m with
    | some (bad, first) => if bad = 0 then none else some (first, m)
    | none => none
  let all := (match s.corrupt with
    | some c => [c]
    | none => []) ++ reps.map (·.1)
  match all with
  | [] => none
  | a :: l =>
    let c := l.foldl min a
    some (c, match reps.find? fun r => decide (r.1 = c) with
      | some r => r.2
      | none => 0xFF)

/-- Every CONFIRM is in (R184, R208). -/
def Hub.close (h : Hub) (cid : Nat) : Hub :=
  let s := h.slot cid
  match s.worst with
  | some (c, m) => h.endColl cid stCorrupt m c
  | none =>
    match s.desc.raise with
    | some r => h.commit cid r
    | none => h.endColl cid 0 0 0

/-- COLC_CONFIRM (R182). -/
def execColcConfirm (s : State) : Host.Outcome State Fault Refusal :=
  onHub (fun h => h.serveColc 3 (fun _ h => h) (fun p h =>
    let s := h.slot p.cid
    let m := p.memb
    if s.state ≠ .running ∨ ¬ s.belongs p ∨ p.len ≠ 16 ∨ p.chunkIx ≠ 0 ∨ p.pktIx ≠ 0 ∨ (tget none s.confirms m).isSome then
      h.protocol p
    else
      let w := leNat (p.payload.take 8)
      let bad := (w >>> 22) % 2 ^ 22
      let first := leNat (slice p.payload 8 8) % 2 ^ 21
      let s := { s with confirms := tset none s.confirms m (some (bad, first)) }.restart h.now
      let h := h.setSlot p.cid s
      if (List.range s.n).all fun i => (tget none s.confirms i).isSome then h.close p.cid else h)) s

/-! ### The stall timer (R185, R211) -/

/-- The member whose packet of a chunk is missing from its oldest unfinished step, if one is. -/
def Slot.missing (s : Slot) (r : Nat) : Option Nat :=
  let x := s.chunk r
  let c := s.chunkAt r
  let cov := s.coverers c
  if x.sums.isSome ∨ x.sent then none
  else if s.desc.scaled ∧ ¬ s.scalesIn x c then cov.find? fun m => decide (tget [] x.own m = [])
  else cov.find? fun m =>
    !((List.range (dataPackets s.desc.inF (s.contrib m c))).all fun i => (tget none x.data (64 * m + i)).isSome) ||
    (s.desc.sends63 && decide (tget [] x.res m = []))

/-- The chunk indices that the ring is at, in rising order. -/
def Slot.current (s : Slot) : List Nat :=
  (((List.range (min s.k s.total)).map s.chunkAt).filter fun c => decide (c < s.total)).mergeSort fun a b => decide (a ≤ b)

/-- The end that an expired stall timer gives (R185, R211): status, MEMB and CHUNK. -/
def Slot.stalled (s : Slot) : Nat × Nat × Nat :=
  if s.state = .joining then
    (stMembTimeout, ((List.range s.n).find? fun m => decide (tget 0 s.counts m = 0)).getD 0, 0)
  else
    let k := max 1 s.k
    match s.current.find? fun c => (s.missing (c % k)).isSome || ((s.chunk (c % k)).sums.isSome && !(s.chunk (c % k)).sent) with
    | some c =>
      match s.missing (c % k), s.desc.raise with
      | some m, _ => (stMembTimeout, m, 0)
      | none, some r => (stUpdateFail, r.bayOf c, c)
      | none, none => (stMembTimeout, 0, 0)
    | none => (stMembTimeout, ((List.range s.n).find? fun m => (tget none s.confirms m).isNone).getD 0, 0)

/-- STALL_TIMER_EXPIRY (R185). -/
def execStallTimerExpiry (cid : Fin 512) (s : State) : Host.Outcome State Fault Refusal :=
  onHub (fun h =>
    let h := h.refresh cid.val
    let x := h.slot cid.val
    match x.timer with
    | some t => if x.holds ∧ t ≤ h.now then h.endColl cid.val x.stalled.1 x.stalled.2.1 x.stalled.2.2 else h
    | none => h) s

/-! ### Registers of the sawpits (R150, R194) -/

/-- The byte lanes that an access names (R6). -/
def Half.lanes : Half → Word
  | .full => 0xFFFFFFFFFFFFFFFF
  | .low => 0x00000000FFFFFFFF
  | .high => 0xFFFFFFFF00000000
  | .other => 0

/-- A register's value with the RW bits of an access's lanes written. -/
def Access.merge (a : Access) (rw old : Word) : Word :=
  (old &&& ~~~ (rw &&& a.half.lanes)) ||| (a.value &&& rw &&& a.half.lanes)

/-- SAW_SR_SEED_WRITE (R150). -/
def execSawSrSeedWrite (a : Access) (s : State) : Host.Outcome State Fault Refusal :=
  onHub (fun h => h.writeAt rSawSeed a fun h => h.seedWrite (a.merge (rwMask rSawSeed) (h.reg rSawSeed))) s

/-- A write of a segment-directory entry (R194): ignored while LOCK is 1. -/
def Hub.segWrite (h : Hub) (n : Nat) (a : Access) : Hub :=
  if h.bit (rSegDir n) 62 then h else h.setReg (rSegDir n) (a.merge (rwMask (rSegDir n)) (h.reg (rSegDir n)))

/-- SAW_SEG_DIR_WRITE (R194). -/
def execSawSegDirWrite (n : Fin 256) (a : Access) (s : State) : Host.Outcome State Fault Refusal :=
  onHub (fun h => h.writeAt (rSegDir n.val) a fun h => h.segWrite n.val a) s

end Sys2Proof.Machine
end

