-- ==== Sys2Proof/Machine/Member.lean ====
section
/-! DEFINITION. The member behaviour of the sill for nodes of this hub (R59, R62, R64, R157, R170 to R175, R182, R187, R238). -/
namespace Sys2Proof.Machine

/-- Who a local member is as a requester: the sill, for the queue or the operation whose member it is (R73, R238). -/
def Hub.memberWho (h : Hub) (m : Member) : Who :=
  match m.of_ with
  | .queue b q => { h.queueWho b 3 q with agent := .member m.of_, key := .member m.id }
  | o => { agent := .member o, key := .member m.id }

/-- The hub with a local member changed. -/
def Hub.setMember (h : Hub) (m : Member) : Hub :=
  { h with coll := { h.coll with members := h.coll.members.map fun x => if x.id = m.id then m else x } }

/-- The chunks of the result space. -/
def Member.total (m : Member) : Nat := ceilDiv m.len 2048
/-- The elements that the member contributes to a chunk. -/
def Member.contrib (m : Member) (c : Nat) : Nat := contribOf m.kind m.root m.len m.memb (m.first.getD m.memb 0) m.count c
/-- The member receives a chunk. -/
def Member.receives (m : Member) (c : Nat) : Bool := receivesOf m.kind m.root m.len m.memb (m.first.getD m.memb 0) m.count c
/-- The elements of a chunk of the result space. -/
def Member.elems (m : Member) (c : Nat) : Nat := min 2048 (m.len - 2048 * c)
/-- Scales go first. -/
def Member.scaled (m : Member) : Bool := reducing m.kind && fmtBlock m.inF
/-- The chunk of its input that a chunk of the result space is. -/
def Member.inPos (m : Member) (c : Nat) : Nat := if m.kind = kGather then c - m.first.getD m.memb 0 else c
/-- The chunk of its output that a chunk of the result space is. -/
def Member.outPos (m : Member) (c : Nat) : Nat := if m.kind = kScatter then c - m.first.getD m.memb 0 else c
/-- The chunk at a member's ring slot. -/
def Member.chunkAt (m : Member) (r : Nat) : Nat := r + m.k * (tget {} m.chunks r).round
/-- The ticket of a local member (Table 6.3). -/
def Member.ticket (m : Member) : Word :=
  BitVec.ofNat 64 (m.hub.toNat + m.cid * 2 ^ 10 + m.gen * 2 ^ 19 + m.tmo * 2 ^ 27)

/-- A COLC packet of a local member to the reducing hub (R170). -/
def Hub.sendColc (h : Hub) (m : Member) (md : BitVec 4) (chunk pkt fmt : Nat) (payload : List Byte) : Hub :=
  h.inject (Packet.sealChk (h.stamp (h.agentPart (h.memberWho m).agent)
    { cls := 1, src := m.node, dst := m.hub, opc := opcColc, md := md, aux40 := BitVec.ofNat 40 (fmt * 2 ^ 36),
      loc := BitVec.ofNat 52 (cloc m.cid m.gen m.memb chunk pkt), payload := payload }))

/-- A local member ends (R187, R237, R238, R323): its descriptor or ring operation completes. The completion also reports the taint of
the member's own reading and quantising (chapter 5). -/
def Hub.memberEnd (h : Hub) (m : Member) (status memb chunk taint sent : Nat) : Hub :=
  let h := { h with coll := { h.coll with members := h.coll.members.filter fun x => !decide (x.id = m.id) } }
  let h := h.endWork (.member m.id)
  let status := if status = 0 then m.status else status
  let taint := min (taint + m.taint) (2 ^ 32 - 1)
  match m.of_ with
  | .queue b q =>
    let x := h.queue b 3 q
    if x.phase = .held then
      h.setQueue b 3 q { x with phase := .done, status := status,
                                extra := leWords 3 (finalBytes status memb chunk taint sent) ++ [m.ticket] }
    else h
  | .ring id => h.opFinish id status fun o => { o with memb := memb, chunk := chunk, taint := taint, progress := m.nsent, node := m.at_,
                                                        total := m.total, final := if status = 0 then m.total else 0 }
  | .wright _ => h

/-- A write of a member, or a COLC that it sent, failed: its completion reports the first such failure where the FINAL says OK (Table
8.7). -/
def Hub.memberLost (h : Hub) (o : Opener) (status node : Nat) : Hub :=
  { h with coll := { h.coll with members := h.coll.members.map fun m =>
      if m.of_ = o ∧ m.status = 0 then { m with status := status, at_ := node } else m } }

/-- The operation of a ring's member told of its progress (R324, R325). -/
def Hub.memberTold (h : Hub) (m : Member) : Hub := match m.of_ with
  | .ring id => h.opSet id fun o => { o with progress := m.nsent, total := m.total }
  | _ => h

/-- The local open of a member (R170, R175): the member block bound, and COUNT sent. FMT of that COUNT is the collective's IN_FMT,
which this hub knows where it reduces the collective itself (log entry 15). -/
def Hub.memberOpen (h : Hub) (of_ : Opener) (node : Node) (ws : List Word) : Hub :=
  let t := ws.getD 0 0
  let hub := BitVec.ofNat 10 (bitsGet t 0 10)
  let cid := bitsGet t 10 9
  let m : Member := { id := h.coll.nextId, of_ := of_, node := node, hub := hub, cid := cid, gen := bitsGet t 19 8,
                      tmo := bitsGet t 27 24, memb := bitsGet (ws.getD 1 0) 0 8, cap := bitsGet (ws.getD 1 0) 8 33,
                      count := bitsGet (ws.getD 2 0) 0 32, arrays := (ws.drop 3).take 4,
                      deadline := h.now + 2 * bitsGet t 27 24 * 1000 }
  let fmt := if hub = h.self then (h.slot cid).desc.inF else Config.formatAt t % 8
  let h := { h with coll := { h.coll with members := h.coll.members ++ [m], nextId := h.coll.nextId + 1 } }
  h.sendColc m 2 0 0 fmt (leBytes 8 m.count ++ leBytes 8 m.cap)

/-- The RSV bits of a member block are zero (Table 8.13). -/
def memberRsvOk (ws : List Word) : Bool :=
  decide (bitsGet (ws.getD 0 0) 51 13 = 0) && decide (bitsGet (ws.getD 1 0) 41 23 = 0) &&
  decide (bitsGet (ws.getD 2 0) 32 32 = 0) && decide (ws.getD 7 0 = 0)

/-- Array `i` of the member block from byte `off` on. -/
def Member.array (m : Member) (i off : Nat) : Word := bitsPut (m.arrays.getD i 0) 0 62 (bitsGet (m.arrays.getD i 0) 0 62 + off)

/-- Where a chunk's input lies: its elements, where wanted, and its scales. -/
def Member.inRanges (m : Member) (c : Nat) (els : Bool) : List (Word × Nat × Nat × Nat) :=
  let nb := ceilDiv (m.contrib c) 32
  let bb := blockBytes m.inF
  let pos := m.inPos c
  (if els then [(m.array 0 (64 * pos * bb), nb * bb, needR, 0)] else []) ++
    (if fmtBlock m.inF then [(m.array 1 (64 * pos), nb, needR, 0)] else [])

/-- Ranges of a member read; what was read is forgotten where `last` says that it is not needed again. -/
def Hub.memberRead (h : Hub) (m : Member) (l : List (Word × Nat × Nat × Nat)) (last : Bool) : Got (List (List Byte)) × Hub :=
  let c := h.memberWho m
  match h.mapTile c false l with
  | (.wait, h) => (.wait, h)
  | (.bad e, h) => (.bad e, h)
  | (.ok ps, h) =>
    match h.gather c (ps.map fun p => (false, p)) with
    | (.ok ds, h) => (.ok ds, if last then h.forget c ps.flatten else h.setWork c.key [] (h.work c.key).got)
    | x => x

/-- Scales as a member passes them on, and the taint of reading them: 255 acts as 254 (R141). -/
def passScales (sc : List Byte) : List Byte × Nat :=
  (sc.map fun b => if b = 0xFF#8 then 0xFE#8 else b, (sc.filter fun b => decide (b = 0xFF#8)).length)

/-- The blocks of a chunk as the member sends them: quantised to the agreed scales where there are any (R157), in the symmetric range
of the format (R142, R146). The scales are those of `passScales`. -/
def Member.blocksOut (m : Member) (c : Nat) (el sc : List Byte) (agreed : Option (List Nat)) :
    Nat → Nat → Rnd → List (List Byte) × Rnd
  | 0, _, r => ([], r)
  | n + 1, i, r =>
    let e := if fmtBlock m.inF then (sc.getD i 0).toNat else 127
    let (e', qs, r) := readBlock m.inF e (min 32 (m.contrib c - 32 * i)) (slice el (i * blockBytes m.inF) (blockBytes m.inF)) r
    let (qs, r) := match agreed with
      | some ag => quantise m.inF e' (ag.getD i 0) qs r
      | none => satAll (fmtMin m.inF) (fmtMax m.inF) qs r
    let (rest, r) := m.blocksOut c el sc agreed n (i + 1) r
    (packBlock m.inF qs :: rest, r)

/-- Step 3 (and 4) of a chunk: DATA, and the scales of an ALLGATHER or BROADCAST (Table 6.8). -/
def Hub.memberData (h : Hub) (m : Member) (r : Nat) (agreed : Option (List Nat)) : Hub :=
  let c := m.chunkAt r
  match h.memberRead m (m.inRanges c true) true with
  | (.wait, h) => h
  | (.bad e, h) => h.memberEnd m e.status m.memb 0 0 0
  | (.ok ds, h) =>
    let (sc, t) := passScales (ds.getD 1 [])
    let (bs, rd) := m.blocksOut c (ds.getD 0 []) sc agreed (ceilDiv (m.contrib c) 32) 0 (h.rnd 0 m.rmode)
    let h := h.saveRnd 0 rd
    let h := ((chunksOf (blocksPer m.inF) 62 bs).zipIdx).foldl (fun h y => h.sendColc m 0 c y.2 m.inF y.1.flatten) h
    let h := if !m.scaled && fmtBlock m.inF then h.sendColc m 1 c 63 m.inF sc else h
    let m := { m with chunks := tset {} m.chunks r { tget {} m.chunks r with sent := true }, nsent := m.nsent + 1,
                      taint := min (m.taint + rd.taint + (if m.scaled then 0 else t)) (2 ^ 32 - 1) }
    (h.setMember m).memberTold m

/-- The member with the identity, as the hub holds it now. -/
def Hub.member (h : Hub) (id : Nat) : Option Member := h.coll.members.find? fun m => decide (m.id = id)

/-- The next step of the chunk at a ring slot, once the window admits it (R173, R174): its scales where scales come first, and its DATA
once they are agreed. -/
def Hub.memberBegin (h : Hub) (id r : Nat) : Hub :=
  match h.member id with
  | none => h
  | some m =>
    let c := m.chunkAt r
    let x := tget {} m.chunks r
    if m.total ≤ c ∨ m.contrib c = 0 ∨ x.sent then h
    else if !m.scaled then h.memberData m r none
    else match x.agreed with
      | some ag => h.memberData m r (some ag)
      | none =>
        if x.scales then h
        else match h.memberRead m (m.inRanges c false) false with
          | (.wait, h) => h
          | (.bad e, h) => h.memberEnd m e.status m.memb 0 0 0
          | (.ok ds, h) =>
            let (sc, t) := passScales (ds.getD 0 [])
            (h.sendColc m 1 c 62 m.inF sc).setMember { m with
              chunks := tset {} m.chunks r { x with scales := true }, taint := min (m.taint + t) (2 ^ 32 - 1) }

/-- CONFIRM, once everything is sent and received (R182). -/
def Hub.memberConfirm (h : Hub) (id : Nat) : Hub :=
  match h.member id with
  | none => h
  | some m =>
    let all := List.range m.total
    let cov := (all.filter fun c => decide (0 < m.contrib c)).length
    let due := (all.filter fun c => m.receives c || decide (0 < m.contrib c)).length
    if m.confirmed ∨ m.nsent < cov ∨ m.rcvd < due then h
    else
      let h := h.sendColc m 3 0 0 m.inF (leBytes 8 (m.rcvd + m.bad * 2 ^ 22) ++ leBytes 8 m.firstBad)
      h.setMember { m with confirmed := true }

/-- A chunk received at a ring slot (R174): counted, the ring slot advanced, the next chunk begun. -/
def Hub.memberGot (h : Hub) (m : Member) (r : Nat) (isBad : Bool) : Hub :=
  let c := m.chunkAt r
  let x := tget {} m.chunks r
  let m := { m with chunks := tset {} m.chunks r { round := x.round + 1 }, rcvd := m.rcvd + 1,
                    bad := m.bad + bit01 isBad,
                    firstBad := if isBad then (if m.bad = 0 then c else min m.firstBad c) else m.firstBad }
  ((h.setMember m).memberBegin m.id r).memberConfirm m.id

/-- The DATA packets that a result chunk has. -/
def Member.resultPkts (m : Member) (c : Nat) : Nat := dataPackets m.outF (m.elems c)

/-- Where a result chunk goes: its elements and its scales. -/
def Member.outRanges (m : Member) (c : Nat) (pays : List (List Byte)) : List (Word × Nat × Nat × Nat) :=
  let pos := m.outPos c
  ([(0, 64 * pos * blockBytes m.outF), (1, 64 * pos)].zip pays).map fun y => (m.array (2 + y.1.1) y.1.2, y.2.length, needW, 1)

/-- A good result chunk written (R174, R238); false while a translation is awaited. -/
def Hub.memberWrite (h : Hub) (m : Member) (c : Nat) (pays : List (List Byte)) : Got Unit × Hub :=
  let w := h.memberWho m
  match h.mapTile w false (m.outRanges c pays) with
  | (.wait, h) => (.wait, h)
  | (.bad e, h) => (.bad e, h)
  | (.ok ps, h) =>
    match (h.setWork w.key [] (h.work w.key).got).writeAll w { ack := true } (ps.zip pays) 0 with
    | ((some e, _), h) => (.bad e, h)
    | ((none, _), h) => (.ok (), h)

/-- A result chunk whose every packet is held: verified, written if good, counted (R64, R174). -/
def Hub.memberResult (h : Hub) (m : Member) (r : Nat) : Hub :=
  let c := m.chunkAt r
  let x := tget {} m.chunks r
  let n := m.resultPkts c
  let blk := fmtBlock m.outF
  let held (i : Nat) : Option (Option (List Byte)) := tget none x.held i
  if !m.receives c || !((List.range n).all fun i => (held i).isSome) || (blk && (held 63).isNone) then h
  else
    let pays := (List.range n).map fun i => (held i).join
    let sc := if blk then (held 63).join else some []
    let flat := (pays.map fun p => p.getD []).flatten
    let good := pays.all Option.isSome && sc.isSome && decide (x.rchk = some (crc64 (flat ++ sc.getD [])))
    if good then
      match h.memberWrite m c ([flat] ++ if blk then [sc.getD []] else []) with
      | (.wait, h) => h
      | (.bad e, h) => h.memberEnd m e.status m.memb 0 0 0
      | (.ok _, h) => h.memberGot m r false
    else h.memberGot m r true

/-- A local member goes on as far as it can: each ring slot's next step, the results it holds, its CONFIRM. -/
def Hub.memberPump (h : Hub) (id : Nat) : Hub :=
  match h.member id with
  | none => h
  | some m =>
    if !m.begun then h
    else ((List.range (min m.k m.total)).foldl (fun h r =>
      let h := h.memberBegin id r
      match h.member id with
      | some m => if (tget {} m.chunks r).held = [] then h else h.memberResult m r
      | none => h) h).memberConfirm id

/-- The elements that a member's input holds. -/
def Member.inLen (m : Member) : Nat := if m.kind = kScatter then m.len else if m.kind = kBroadcast then (if m.memb = m.root then m.count else 0)
  else m.count

/-- The arrays of a member against the formats that the COLR COUNT names: LOFT ranges within the loft (R217), and R145's alignment. -/
def Member.formStatus (m : Member) (sys : Bool) : Nat :=
  let arr (f i n : Nat) : List (Bool × Bool) :=
    let el := m.arrays.getD i 0
    let sc := m.arrays.getD (i + 1) 0
    if n = 0 then [] else
    [(adOk sys el (ceilDiv n 32 * blockBytes f) && (!fmtBlock f || adOk sys sc (ceilDiv n 32)),
      decide (bitsGet el 0 62 % elAlign f = 0) && (!fmtBlock f || decide (bitsGet sc 0 62 % 8 = 0)))]
  let l := arr m.inF 0 m.inLen ++ arr m.outF 2 m.cap
  if l.any fun x => !x.1 then stBadDesc else if l.any fun x => !x.2 then nakAlign else 0

/-- COLR COUNT at a member (R176): the layout, the check of the arrays against it, then the first chunks of the window. -/
def Hub.memberCount (h : Hub) (m : Member) (p : Packet) : Hub :=
  let w0 := leWord p.payload
  let w1 := leWord (p.payload.drop 8)
  let n := bitsGet w1 18 8
  if m.begun then h
  else
    let m := { m with begun := true, k := bitsGet w0 33 21, len := bitsGet w0 0 33, kind := bitsGet w1 0 4, op := bitsGet w1 4 4,
                      inF := bitsGet w1 8 4, outF := bitsGet w1 12 4, rmode := bitsGet w1 16 2, nmemb := n,
                      root := bitsGet w1 26 8,
                      first := (List.range (n + 1)).map fun i => leNat (slice p.payload (16 + 3 * i) 3) % 2 ^ 21 }
    let st := m.formStatus ((h.memberWho m).sys || (match m.of_ with
      | .ring _ => true
      | _ => false))
    if st ≠ 0 then (h.setMember m).memberEnd m st m.memb 0 0 0
    else ((h.setMember m).memberTold m).memberPump m.id

/-- COLR SCALE or DATA at a member. -/
def Hub.memberPiece (h : Hub) (m : Member) (p : Packet) (ok : Bool) : Hub :=
  let c := p.chunkIx
  let r := c % max 1 m.k
  let x := tget {} m.chunks r
  if !m.begun || decide (m.chunkAt r ≠ c) || decide (m.total ≤ c) then h
  else if p.md = 1 ∧ p.pktIx = 62 then
    if m.scaled ∧ 0 < m.contrib c ∧ x.scales ∧ ¬ x.sent ∧ ok then
      let m := { m with chunks := tset {} m.chunks r { x with agreed := some (p.payload.map BitVec.toNat) } }
      ((h.setMember m).memberBegin m.id r).memberConfirm m.id
    else h
  else if m.receives c then
    if p.md = 0 ∧ p.len = 0 then h
    else
      let x := { x with held := tset none x.held p.pktIx (some (if ok then some p.payload else none)),
                        rchk := if p.rck then some p.rchk else x.rchk }
      let m := { m with chunks := tset {} m.chunks r x }
      (h.setMember m).memberResult m r
  else if p.md = 0 ∧ p.len = 0 ∧ 0 < m.contrib c ∧ x.sent then h.memberGot m r false
  else h

/-- The local members that a COLR packet is for (R123). -/
def Hub.membersOf (h : Hub) (p : Packet) : List Member :=
  h.coll.members.filter fun m => decide (m.hub = p.src) && decide (m.cid = p.cid) && decide (m.gen = p.gen)

/-- The oldest COLR packet at the sill taken where the command names its kind, and given to every local member of its
collective, whose local timer it restarts (R187). One that is for none is discarded and counted (R59). -/
def Hub.serveColr (h : Hub) (md : BitVec 4) (act : Member → Packet → Bool → Hub → Hub) : Hub :=
  match h.sill.colr with
  | [] => h
  | x :: rest =>
    let p := x.pkt
    if !h.alive || decide (p.md ≠ md) then h
    else
      let h : Hub := { h with sill := { h.sill with colr := rest } }
      let ok := p.chkOk
      let h := if ok then h else h.chkFailed
      match h.membersOf p with
      | [] => h.count rSilDiscard
      | ms => ms.foldl (fun (h : Hub) m =>
          match h.member m.id with
          | none => h
          | some m =>
            let m := { m with deadline := h.now + 2 * m.tmo * 1000 }
            act m p ok (h.setMember m)) h

/-- COLR_COUNT (R176). -/
def execColrCount (s : State) : Host.Outcome State Fault Refusal :=
  onHub (fun h => h.serveColr 2 fun m p ok h => if ok then h.memberCount m p else h) s
/-- COLR_SCALE (R157). -/
def execColrScale (s : State) : Host.Outcome State Fault Refusal :=
  onHub (fun h => h.serveColr 1 fun m p ok h => h.memberPiece m p ok) s
/-- COLR_DATA (R174). -/
def execColrData (s : State) : Host.Outcome State Fault Refusal :=
  onHub (fun h => h.serveColr 0 fun m p ok h => h.memberPiece m p ok) s
/-- COLR_FINAL (R183). -/
def execColrFinal (s : State) : Host.Outcome State Fault Refusal :=
  onHub (fun h => h.serveColr 3 fun m p ok h =>
    if ok then
      let w0 := leWord p.payload
      h.memberEnd m (bitsGet w0 0 8) (bitsGet w0 8 8) (bitsGet w0 16 21) (bitsGet (leWord (p.payload.drop 8)) 0 32)
        (bitsGet (leWord (p.payload.drop 16)) 0 22)
    else h) s

/-- MEMBER_LOCAL_TIMEOUT (R187). -/
def execMemberLocalTimeout (id : Nat) (s : State) : Host.Outcome State Fault Refusal :=
  onHub (fun h =>
    match h.member id with
    | some m => if m.deadline ≤ h.now then h.memberEnd m stMembTimeout m.memb 0 0 0 else h
    | none => h) s

end Sys2Proof.Machine
end

