-- ==== Sys2Proof/Machine/Threads.lean ====
section
/-! DEFINITION. Scalar threads (chapter 9): instruction words, fetch, exceptions, and how remote instructions complete. -/
namespace Sys2Proof.Machine

/-! ### Instruction words (Table 9.4) -/

/-- OPC. -/
def iOpc (w : Nat) : Nat := w / 2 ^ 26 % 64
/-- N of the guard. -/
def iN (w : Nat) : Bool := w.testBit 25
/-- P of the guard. -/
def iP (w : Nat) : Nat := w / 2 ^ 22 % 8
/-- RD or RS. -/
def iRd (w : Nat) : Nat := w / 2 ^ 17 % 32
/-- RA. -/
def iRa (w : Nat) : Nat := w / 2 ^ 12 % 32
/-- RB. -/
def iRb (w : Nat) : Nat := w / 2 ^ 7 % 32
/-- FN. -/
def iFn (w : Nat) : Nat := w % 128
/-- IMM, sign-extended to 64 bits. -/
def iImm (w : Nat) : Word := BitVec.ofInt 64 (signed 12 w)
/-- OFF, sign-extended. -/
def iOff (w : Nat) : Int := signed 22 w
/-- PD of the C and P formats. -/
def iPd (w : Nat) : Nat := w / 2 ^ 19 % 8

/-- The rows of the opcode table that instruction words spell (R250, Tables 9.6 and 9.9). -/
inductive AugerRow where
  | alu | addi | andi | ori | xori | shi | movz | movk | cmp | cmpi | plog
  | lb | lbu | lh | lhu | lw | lwu | ld | sb | sh | sw | sd | br | call | jmpr
  | rld | rst | rat | fenceLoft | fenceNode | fenceAll | cinvTag | cinvLine
  | padv | pwait | prd | mput | mget | ecmd | nop | halt | trap | eret | mfs | mts | tstart
  | reserved
  deriving DecidableEq, Repr

/-- The row of an instruction word. A reserved opcode, fence kind or SYS function is `reserved`. -/
def augerRow (w : Nat) : AugerRow :=
  match iOpc w with
  | 0x01 => .alu | 0x02 => .addi | 0x03 => .andi | 0x04 => .ori | 0x05 => .xori | 0x06 => .shi
  | 0x07 => .movz | 0x08 => .movk | 0x09 => .cmp | 0x0A => .cmpi | 0x0B => .plog
  | 0x10 => .lb | 0x11 => .lbu | 0x12 => .lh | 0x13 => .lhu | 0x14 => .lw | 0x15 => .lwu | 0x16 => .ld
  | 0x18 => .sb | 0x19 => .sh | 0x1A => .sw | 0x1B => .sd | 0x20 => .br | 0x21 => .call | 0x22 => .jmpr
  | 0x28 => .rld | 0x29 => .rst | 0x2A => .rat
  | 0x2C => (match w % 4 with | 0 => .fenceLoft | 1 => .fenceNode | 2 => .fenceAll | _ => .reserved)
  | 0x2D => if w % 2 = 0 then .cinvTag else .cinvLine
  | 0x30 => .padv | 0x31 => .pwait | 0x32 => .prd | 0x34 => .mput | 0x35 => .mget | 0x38 => .ecmd
  | 0x3C => (match iFn w with
    | 0x00 => .nop | 0x01 => .halt | 0x03 => .trap | 0x04 => .eret | 0x08 => .mfs | 0x09 => .mts | 0x0A => .tstart
    | _ => .reserved)
  | _ => .reserved

/-- FN of ALU with one operand (R251). -/
def aluUnary (fn : Nat) : Bool := [0x20, 0x21, 0x22, 0x24, 0x25, 0x26, 0x28, 0x29, 0x2A].contains fn
/-- FN of ALU with two operands (Table 9.7). -/
def aluBinary (fn : Nat) : Bool :=
  [0x00, 0x01, 0x02, 0x03, 0x04, 0x05, 0x08, 0x09, 0x0A, 0x10, 0x11, 0x12, 0x14, 0x15, 0x16, 0x17, 0x18, 0x19, 0x1A, 0x1B].contains fn

/-- The encoding of a word is legal: no reserved function, condition, operation or register index, no set RSV bit, no odd pair
register (R247, Table 9.11 ILLEGAL). -/
def augerLegal (w : Nat) : Bool :=
  match augerRow w with
  | .reserved => false
  | .alu => aluBinary (iFn w) || (aluUnary (iFn w) && decide (iRb w = 0))
  | .shi => decide (w / 2 ^ 8 % 16 = 0) && decide (w / 2 ^ 6 % 4 ≠ 3)
  | .movz => decide (w / 2 ^ 16 % 8 = 0)
  | .movk => decide (w / 2 ^ 16 % 8 = 0)
  | .cmp => decide (w / 2 ^ 17 % 4 = 0) && decide (w / 2 ^ 3 % 16 = 0) && decide (w % 8 < 6)
  | .plog => decide (w / 2 ^ 10 % 8 < 5) && decide (w % 2 ^ 10 = 0)
  | .jmpr => decide (iFn w = 0) && decide (iRb w = 0)
  | .rld => decide (iFn w < 32) && decide (iRb w = 0)
  | .rst => decide (iFn w < 64) && (w.testBit 5 || decide (iRd w = 0))
  | .rat => decide (iFn w < 64)
  | .fenceLoft => decide (iFn w % 16 / 4 = 0) && decide (iFn w < 32) && decide (iRb w = 0)
  | .fenceNode => decide (iFn w % 16 / 4 = 0) && decide (iFn w < 32) && decide (iRb w = 0)
  | .fenceAll => decide (iFn w % 16 / 4 = 0) && decide (iFn w < 32) && decide (iRb w = 0)
  | .cinvTag => decide (iFn w < 2) && decide (iRd w = 0) && decide (iRb w = 0)
  | .cinvLine => decide (iFn w < 2) && decide (iRd w = 0) && decide (iRb w = 0)
  | .padv => decide (iFn w < 2) && decide (iRd w = 0)
  | .pwait => decide (iFn w = 0)
  | .prd => decide (iFn w = 0) && decide (iRb w = 0)
  | .mput => decide (iFn w < 2) && decide (iRb w = 0) && decide (iRd w % 2 = 0)
  | .mget => decide (iFn w < 8) && decide (iRb w = 0) && decide (iRd w % 2 = 0)
  | .ecmd => decide (iFn w < 2)
  | .nop => decide (iRd w = 0) && decide (iRa w = 0) && decide (iRb w = 0)
  | .halt => decide (iRd w = 0) && decide (iRa w = 0) && decide (iRb w = 0)
  | .eret => decide (iRd w = 0) && decide (iRa w = 0) && decide (iRb w = 0)
  | .trap => decide (iRd w = 0) && decide (iRb w = 0)
  | .mfs => decide (iRa w = 0) && decide (iRb w < 9)
  | .mts => decide (iRd w = 0) && decide (iRb w < 9)
  | _ => true

/-- A thread is enabled for a word by its guard (R248); the W format has none. -/
def augerEnabled (x : Thread) (w : Nat) : Bool :=
  match augerRow w with
  | .movz => true
  | .movk => true
  | _ => xor (x.p (iP w)) (iN w)

/-! ### Leaving RUN (R274, R275) -/

/-- SYS of a thread. -/
def Hub.threadSys (h : Hub) (b t : Nat) : Bool := h.bit (rTctl b t) 61

/-- A thread at an instruction boundary: a STOP takes effect (R275). -/
def Hub.boundary (h : Hub) (b t : Nat) : Hub :=
  let x := h.thread b t
  if x.state = .run ∧ x.stop then h.leaveRun b t .stopped else h

/-- The thread goes on after an instruction at an address; the word of that instruction is no longer held (R246). -/
def Hub.goTo (h : Hub) (b t pc : Nat) (x : Thread) : Hub :=
  (h.setThread b t { x with pc := pc, wait := .ready, ahead := x.ahead.filter fun a => !decide (a.1 = x.pc) }).boundary b t

/-- The thread goes on with its next instruction. -/
def Hub.goOn (h : Hub) (b t : Nat) (x : Thread) : Hub := h.goTo b t (x.pc + 1) x

/-! ### Exceptions (R273, R274, R276) -/
def exIllegal : Nat := 0x01
def exFetch : Nat := 0x02
def exBadaddr : Nat := 0x03
def exMisalign : Nat := 0x04
def exPriv : Nat := 0x05
def exDenied : Nat := 0x06
def exRemoteFail : Nat := 0x07
def exMemUncorr : Nat := 0x08
def exTrap : Nat := 0x09
def exXlate : Nat := 0x0A

/-- The oldest unfinished chunk of an update bay, which the exception of a kernel's thread ends the RAISE with (R201, R211); where none is
posted R211 names none, and the model gives chunk 0 (DESIGN CHOICE, log entry 14). -/
def Slot.oldestChunk (s : Slot) (b : Nat) : Nat := match s.desc.raise with
  | none => 0
  | some r => ((s.chunks.find? fun y => y.2.item.isSome && y.2.weights.isNone && decide (r.bayOf (s.chunkAt y.1) = b) &&
      s.oldestItem r y.2 (s.chunkAt y.1)).map fun y => s.chunkAt y.1).getD 0

/-- An exception of a thread (R274): EPC, CAUSE and INFO recorded; the handler runs, or the thread faults. A kernel thread
runs no handler and ends its RAISE (R211, R276). -/
def Hub.exception (h : Hub) (b t cause : Nat) (info : Word) : Hub :=
  let x := h.thread b t
  let x := { x with epc := x.pc % 2 ^ 20, cause := cause, info := info, wait := .ready }
  let hvec := h.fld (rTctl b t) 20 20
  let h := h.setThread b t x
  match h.kernelSlot b t with
  | some cid => (h.leaveRun b t .faulted).updateFail cid b ((h.slot cid).oldestChunk b)
  | none =>
    if hvec ≠ 0 ∧ ¬ x.hmode then h.goTo b t hvec { x with hmode := true }
    else h.leaveRun b t .faulted

/-! ### Fetch (R245, R246) -/

/-- The word at a word address, from the words fetched ahead or from the loft; none at an uncorrectable error, which a word fetched
ahead keeps until its instruction is reached (R245, R246). -/
def Hub.fetchWord (h : Hub) (b : Nat) (x : Thread) : Option Nat × Hub :=
  let o := loftOff b (4 * x.pc)
  match x.ahead.find? fun a => decide (a.1 = x.pc) with
  | some (_, some w) => (some w.toNat, h)
  | some (_, none) => (none, h.readMark false (o / 32) 7)
  | none =>
    match h.memRead o 4 with
    | (none, h) => (none, h)
    | (some bs, h) => (some (leNat bs), h)

/-- A word of the loft as a fetch ahead of its use finds it; its error counts when its instruction is reached. -/
def Hub.peekWord (h : Hub) (b a : Nat) : Option Word :=
  let o := loftOff b (4 * a)
  if (h.marksIn o 4).any fun m => !codeMends m.2 then none else some (BitVec.ofNat 64 (leNat (h.bytes o 4)))

/-- The word at `pc` and the words fetched ahead after it: those already held stay as they are, the rest come from the loft. -/
def Hub.aheadOf (h : Hub) (b pc w : Nat) (old : List (Nat × Option Word)) : List (Nat × Option Word) :=
  (pc, some (BitVec.ofNat 64 w)) :: (List.range (Config.fetchAhead % 5)).filterMap fun i =>
    let a := pc + 1 + i
    if 2 ^ 20 ≤ a then none
    else match old.find? fun y => decide (y.1 = a) with
      | some y => some y
      | none => some (a, h.peekWord b a)

/-- The SE may issue for a thread: the hub and the bay run, the thread is in RUN and ready (R239). -/
def Hub.mayIssue (h : Hub) (b t : Nat) : Bool :=
  let x := h.thread b t
  h.alive && h.bayOn b && decide (x.state = .run) && (match x.wait with
    | .ready => true
    | .walked _ _ _ => true
    | _ => false)

/-- One instruction of a thread (R245 to R248): fetched; FETCH, MEM_UNCORR and ILLEGAL raised; skipped if not enabled; else
its effect. A word of another row than the command's is left alone. -/
def Hub.auger (h : Hub) (b t : Nat) (row : AugerRow) (act : Nat → Thread → Hub → Hub) : Hub :=
  if !h.mayIssue b t then h
  else
    let x := h.thread b t
    if 2 ^ 20 ≤ x.pc then h.exception b t exFetch (BitVec.ofNat 64 (4 * x.pc))
    else match h.fetchWord b x with
      | (none, h) => h.exception b t exMemUncorr (BitVec.ofNat 64 (4 * x.pc))
      | (some w, h') =>
        if augerRow w ≠ row then h
        else
          let x := { x with ahead := h'.aheadOf b x.pc w x.ahead }
          let h := h'.setThread b t x
          if !augerLegal w then h.exception b t exIllegal (BitVec.ofNat 64 w)
          else if !augerEnabled x w then h.goOn b t x
          else act w x h

/-! ### Completion of remote instructions (R260) -/

/-- RSTAT with a status and node. -/
def rstatOf (status node : Nat) : Word := BitVec.ofNat 64 (status % 256 + node % 1024 * 256)

/-- An instruction of R260 completes: RSTAT, then its results, or on failure the Q rule. `dropped` is what a failure with
Q = 1 writes. -/
def Hub.remoteEnd (h : Hub) (b t status node : Nat) (q : Bool) (good dropped : Thread → Thread) : Hub :=
  let x := { h.thread b t with rstat := rstatOf status node }
  let h := h.setThread b t x
  if status = 0 then h.goOn b t (good x)
  else if q then h.goOn b t (dropped x)
  else h.exception b t exRemoteFail x.rstat

/-- A loaded value of 2^SZ bytes, extended (R254, R257). -/
def extend (sx : Bool) (bs : List Byte) : Word :=
  if sx then BitVec.ofInt 64 (signed (8 * bs.length) (leNat bs)) else leWord bs

/-- Who a thread is as a requester. -/
def Hub.threadWho (h : Hub) (b t : Nat) : Who :=
  { agent := .thread b t, key := .thread b t, bay := some b, ctx := h.fld (rTctl b t) 40 8, sys := h.threadSys b t }

/-- Where a remote instruction's bay address leads. -/
inductive Target where
  | loft (off : Nat)
  | remote (fa : Nat) (nc : Bool)
  | wait (h : Hub)
  | raise (h : Hub)

/-- A bay address of a remote instruction of `size` bytes (R256), with the exceptions in the order of Table 9.11. -/
def Hub.target (h : Hub) (b t : Nat) (w : Nat) (a : Word) (size need : Nat) : Target × Hub :=
  let x := h.thread b t
  let bad (cause : Nat) : Target := .raise (h.exception b t cause a)
  let sp := adSpace a
  if sp = 2 ∧ ¬ h.threadSys b t then (.raise (h.exception b t exPriv (BitVec.ofNat 64 w)), h)
  else if sp = 3 then (bad exBadaddr, h)
  else if sp = 0 then
    if bitsGet a 22 40 ≠ 0 ∨ 0x400000 < bitsGet a 0 22 + size then (bad exBadaddr, h)
    else if bitsGet a 0 22 % size ≠ 0 then (bad exMisalign, h)
    else (.loft (bitsGet a 0 22), h)
  else if sp = 2 then
    if bitsGet a 52 10 ≠ 0 then (bad exBadaddr, h)
    else
      let fa := bitsGet a 0 52
      if fa % size ≠ 0 then (bad exMisalign, h)
      else if h.inLoft b fa then (.loft ((faOff fa - loftBase) % 0x400000), h)
      else (.remote fa false, h)
  else
    let va := bitsGet a 0 57
    let place (fa : Nat) (nc : Bool) (h : Hub) : Target × Hub :=
      if h.inLoft b fa then (.loft ((faOff fa - loftBase) % 0x400000), h) else (.remote fa nc, h)
    if bitsGet a 57 5 ≠ 0 then (bad exBadaddr, h)
    else if va % size ≠ 0 then (bad exMisalign, h)
    else
      let ctx := h.fld (rTctl b t) 40 8
      let look : Xlate × Hub :=
        match x.wait with
        | .walked v fa at_ => if v = va then (.ok fa at_, h) else h.tryXlate b ctx (h.threadSys b t) (h.bayPart b) va need
        | _ => h.tryXlate b ctx (h.threadSys b t) (h.bayPart b) va need
      match look with
      | (.ok fa at_, h) => place fa (decide (8 ≤ at_)) h
      | (.fault cause lvl, h) =>
        (.raise ((h.latchXlate b ctx 15 t 0 lvl cause va).exception b t exXlate (BitVec.ofNat 64 va)), h)
      | (.miss, h) =>
        let m : Miss := { bay := b, who := .thread t, ctx := ctx, va := va, need := need }
        if 256 ≤ h.scr.misses.length then (.wait h, h)
        else (.wait ((h.setThread b t { x with wait := .walk }).addMiss m), h)

/-! ### Loft accesses (R254) -/

/-- A loft load of a thread into a register. -/
def Hub.loftLoad (h : Hub) (b t : Nat) (x : Thread) (off size rd : Nat) (sx : Bool) : Hub :=
  match h.memRead (loftOff b off) size with
  | (none, h) => h.exception b t exMemUncorr (BitVec.ofNat 64 off)
  | (some bs, h) => h.goOn b t (x.setG rd (extend sx bs))

/-- Bytes stored in a bay's loft by one of its threads: words fetched ahead keep what they held (R246). A store into part of an
uncorrectable word writes nothing; it is posted, so the plumb alone learns of it. -/
def Hub.loftStore (h : Hub) (b off : Nat) (bs : List Byte) : Hub :=
  match h.memWrite (loftOff b off) bs with
  | (some h, _) => h
  | (none, h) => h

/-- A thread started at a word address (R242, R244). -/
def Hub.startThread (h : Hub) (b t pc : Nat) : Hub :=
  let x := h.thread b t
  h.setThread b t { x with state := .run, pc := pc, hmode := false, regs := [], preds := 0, rstat := 0, wait := .ready,
                           ahead := [], stop := false }

end Sys2Proof.Machine
end

