-- ==== Sys2Proof/Machine/Auger.lean ====
section
/-! DEFINITION. Auger instructions that stay within the thread and its loft (R251 to R255, R271, R272), and thread control
(R242, R243, R275). -/
namespace Sys2Proof.Machine

/-! ### Integer instructions -/

/-- ALU functions (Table 9.7, R251). -/
def aluResult (fn : Nat) (a b : Word) : Word :=
  match fn with
  | 0x00 => a + b
  | 0x01 => a - b
  | 0x02 => a &&& b
  | 0x03 => a ||| b
  | 0x04 => a ^^^ b
  | 0x05 => a &&& ~~~ b
  | 0x08 => a <<< (b.toNat % 64)
  | 0x09 => a >>> (b.toNat % 64)
  | 0x0A => a.sshiftRight (b.toNat % 64)
  | 0x10 => a * b
  | 0x11 => BitVec.ofInt 64 (a.toInt * b.toInt / (2 ^ 64 : Nat))
  | 0x12 => BitVec.ofNat 64 (a.toNat * b.toNat / 2 ^ 64)
  | 0x14 => if b = 0 then -1 else BitVec.ofInt 64 (a.toInt.tdiv b.toInt)
  | 0x15 => if b = 0 then -1 else a / b
  | 0x16 => if b = 0 then a else BitVec.ofInt 64 (a.toInt.tmod b.toInt)
  | 0x17 => if b = 0 then a else a % b
  | 0x18 => if a.slt b then a else b
  | 0x19 => if a.slt b then b else a
  | 0x1A => if a.ult b then a else b
  | 0x1B => if a.ult b then b else a
  | 0x20 => BitVec.ofInt 64 (signed 8 a.toNat)
  | 0x21 => BitVec.ofInt 64 (signed 16 a.toNat)
  | 0x22 => BitVec.ofInt 64 (signed 32 a.toNat)
  | 0x24 => BitVec.ofNat 64 (a.toNat % 2 ^ 8)
  | 0x25 => BitVec.ofNat 64 (a.toNat % 2 ^ 16)
  | 0x26 => BitVec.ofNat 64 (a.toNat % 2 ^ 32)
  | 0x28 => BitVec.ofNat 64 (((List.range 64).find? fun i => a.getLsbD (63 - i)).getD 64)
  | 0x29 => BitVec.ofNat 64 (((List.range 64).find? fun i => a.getLsbD i).getD 64)
  | _ => BitVec.ofNat 64 ((List.range 64).filter fun i => a.getLsbD i).length

/-- ALU (R251). -/
def execAlu (b : Fin 64) (t : Fin 16) (s : State) : Host.Outcome State Fault Refusal :=
  onHub (fun h => h.auger b.val t.val .alu fun w x h =>
    h.goOn b.val t.val (x.setG (iRd w) (aluResult (iFn w) (x.g (iRa w)) (x.g (iRb w))))) s

/-- An immediate instruction: g[RD] := f g[RA] sext(IMM) (R252). -/
def Hub.immediate (h : Hub) (b t : Nat) (row : AugerRow) (f : Word → Word → Word) : Hub :=
  h.auger b t row fun w x h => h.goOn b t (x.setG (iRd w) (f (x.g (iRa w)) (iImm w)))

/-- ADDI (R252). -/
def execAddi (b : Fin 64) (t : Fin 16) (s : State) : Host.Outcome State Fault Refusal :=
  onHub (fun h => h.immediate b.val t.val .addi (· + ·)) s
/-- ANDI (R252). -/
def execAndi (b : Fin 64) (t : Fin 16) (s : State) : Host.Outcome State Fault Refusal :=
  onHub (fun h => h.immediate b.val t.val .andi (· &&& ·)) s
/-- ORI (R252). -/
def execOri (b : Fin 64) (t : Fin 16) (s : State) : Host.Outcome State Fault Refusal :=
  onHub (fun h => h.immediate b.val t.val .ori (· ||| ·)) s
/-- XORI (R252). -/
def execXori (b : Fin 64) (t : Fin 16) (s : State) : Host.Outcome State Fault Refusal :=
  onHub (fun h => h.immediate b.val t.val .xori (· ^^^ ·)) s

/-- The shift that an SHI word selects (R252). -/
def shiResult (w : Nat) (a : Word) : Word :=
  let k := w % 64
  if w / 64 % 4 = 0 then a <<< k else if w / 64 % 4 = 1 then a >>> k else a.sshiftRight k

/-- SHI (R252). -/
def execShi (b : Fin 64) (t : Fin 16) (s : State) : Host.Outcome State Fault Refusal :=
  onHub (fun h => h.auger b.val t.val .shi fun w x h =>
    h.goOn b.val t.val (x.setG (iRd w) (shiResult w (x.g (iRa w))))) s

/-- RD of the W format. -/
def iRdW (w : Nat) : Nat := w / 2 ^ 19 % 32
/-- HW of the W format. -/
def iHw (w : Nat) : Nat := w / 2 ^ 24 % 4

/-- MOVZ (R252). -/
def execMovz (b : Fin 64) (t : Fin 16) (s : State) : Host.Outcome State Fault Refusal :=
  onHub (fun h => h.auger b.val t.val .movz fun w x h =>
    h.goOn b.val t.val (x.setG (iRdW w) (BitVec.ofNat 64 (w % 65536 * 2 ^ (16 * iHw w))))) s

/-- MOVK (R252). -/
def execMovk (b : Fin 64) (t : Fin 16) (s : State) : Host.Outcome State Fault Refusal :=
  onHub (fun h => h.auger b.val t.val .movk fun w x h =>
    h.goOn b.val t.val (x.setG (iRdW w) (bitsPut (x.g (iRdW w)) (16 * iHw w) 16 (w % 65536)))) s

/-- CMP conditions (Table 9.8). -/
def cmpHolds (c : Nat) (a b : Word) : Bool :=
  if c = 0 then decide (a = b) else if c = 1 then decide (a ≠ b) else if c = 2 then a.slt b
  else if c = 3 then !(a.slt b) else if c = 4 then a.ult b else !(a.ult b)

/-- CMP (R253). -/
def execCmp (b : Fin 64) (t : Fin 16) (s : State) : Host.Outcome State Fault Refusal :=
  onHub (fun h => h.auger b.val t.val .cmp fun w x h =>
    h.goOn b.val t.val (x.setP (iPd w) (cmpHolds (w % 8) (x.g (iRa w)) (x.g (iRb w))))) s

/-- CMPI (R253): CC 0 EQ, 1 NE, 2 LT, 3 LTU. -/
def execCmpi (b : Fin 64) (t : Fin 16) (s : State) : Host.Outcome State Fault Refusal :=
  onHub (fun h => h.auger b.val t.val .cmpi fun w x h =>
    let cc := w / 2 ^ 17 % 4
    h.goOn b.val t.val (x.setP (iPd w) (cmpHolds (if cc = 3 then 4 else cc) (x.g (iRa w)) (iImm w)))) s

/-- PLOG operations (R253). -/
def plogResult (op : Nat) (a b : Bool) : Bool :=
  if op = 0 then a && b else if op = 1 then a || b else if op = 2 then xor a b else if op = 3 then a && !b else a || !b

/-- PLOG (R253). -/
def execPlog (b : Fin 64) (t : Fin 16) (s : State) : Host.Outcome State Fault Refusal :=
  onHub (fun h => h.auger b.val t.val .plog fun w x h =>
    h.goOn b.val t.val (x.setP (iPd w) (plogResult (w / 2 ^ 10 % 8) (x.p (w / 2 ^ 16 % 8)) (x.p (w / 2 ^ 13 % 8))))) s

/-! ### Loft loads and stores (R254) -/

/-- The checks of a loft access of `size` bytes at an address, then the access. -/
def Hub.loftChecked (h : Hub) (b t : Nat) (a : Word) (size : Nat) (act : Nat → Hub) : Hub :=
  if 0x400000 < a.toNat + size then h.exception b t exBadaddr a
  else if a.toNat % size ≠ 0 then h.exception b t exMisalign a
  else act a.toNat

/-- A loft load. -/
def Hub.load (h : Hub) (b t : Nat) (row : AugerRow) (size : Nat) (sx : Bool) : Hub :=
  h.auger b t row fun w x h =>
    h.loftChecked b t (x.g (iRa w) + iImm w) size fun off => h.loftLoad b t x off size (iRd w) sx

/-- LB (R254). -/
def execLb (b : Fin 64) (t : Fin 16) (s : State) : Host.Outcome State Fault Refusal :=
  onHub (fun h => h.load b.val t.val .lb 1 true) s
/-- LBU (R254). -/
def execLbu (b : Fin 64) (t : Fin 16) (s : State) : Host.Outcome State Fault Refusal :=
  onHub (fun h => h.load b.val t.val .lbu 1 false) s
/-- LH (R254). -/
def execLh (b : Fin 64) (t : Fin 16) (s : State) : Host.Outcome State Fault Refusal :=
  onHub (fun h => h.load b.val t.val .lh 2 true) s
/-- LHU (R254). -/
def execLhu (b : Fin 64) (t : Fin 16) (s : State) : Host.Outcome State Fault Refusal :=
  onHub (fun h => h.load b.val t.val .lhu 2 false) s
/-- LW (R254). -/
def execLw (b : Fin 64) (t : Fin 16) (s : State) : Host.Outcome State Fault Refusal :=
  onHub (fun h => h.load b.val t.val .lw 4 true) s
/-- LWU (R254). -/
def execLwu (b : Fin 64) (t : Fin 16) (s : State) : Host.Outcome State Fault Refusal :=
  onHub (fun h => h.load b.val t.val .lwu 4 false) s
/-- LD (R254). -/
def execLd (b : Fin 64) (t : Fin 16) (s : State) : Host.Outcome State Fault Refusal :=
  onHub (fun h => h.load b.val t.val .ld 8 false) s

/-- A loft store. -/
def Hub.storeLoft (h : Hub) (b t : Nat) (row : AugerRow) (size : Nat) : Hub :=
  h.auger b t row fun w x h =>
    h.loftChecked b t (x.g (iRa w) + iImm w) size fun off =>
      (h.loftStore b off (leBytes size (x.g (iRd w)).toNat)).goOn b t x

/-- SB (R254). -/
def execSb (b : Fin 64) (t : Fin 16) (s : State) : Host.Outcome State Fault Refusal :=
  onHub (fun h => h.storeLoft b.val t.val .sb 1) s
/-- SH (R254). -/
def execSh (b : Fin 64) (t : Fin 16) (s : State) : Host.Outcome State Fault Refusal :=
  onHub (fun h => h.storeLoft b.val t.val .sh 2) s
/-- SW (R254). -/
def execSw (b : Fin 64) (t : Fin 16) (s : State) : Host.Outcome State Fault Refusal :=
  onHub (fun h => h.storeLoft b.val t.val .sw 4) s
/-- SD (R254). -/
def execSd (b : Fin 64) (t : Fin 16) (s : State) : Host.Outcome State Fault Refusal :=
  onHub (fun h => h.storeLoft b.val t.val .sd 8) s

/-! ### Branches (R255) -/

/-- The word address that a branch at `pc` leads to; one beyond the loft raises FETCH when it is fetched. -/
def branchTo (pc : Nat) (off : Int) : Nat := ofInt 62 (pc + off)

/-- BR (R255). -/
def execBr (b : Fin 64) (t : Fin 16) (s : State) : Host.Outcome State Fault Refusal :=
  onHub (fun h => h.auger b.val t.val .br fun w x h => h.goTo b.val t.val (branchTo x.pc (iOff w)) x) s

/-- CALL (R255). -/
def execCall (b : Fin 64) (t : Fin 16) (s : State) : Host.Outcome State Fault Refusal :=
  onHub (fun h => h.auger b.val t.val .call fun w x h =>
    h.goTo b.val t.val (branchTo x.pc (iOff w)) (x.setG 31 (BitVec.ofNat 64 (4 * (x.pc + 1))))) s

/-- JMPR (R255). -/
def execJmpr (b : Fin 64) (t : Fin 16) (s : State) : Host.Outcome State Fault Refusal :=
  onHub (fun h => h.auger b.val t.val .jmpr fun w x h =>
    let a := x.g (iRa w)
    if bitsGet a 0 2 ≠ 0 ∨ bitsGet a 22 42 ≠ 0 then h.exception b.val t.val exFetch a
    else h.goTo b.val t.val (bitsGet a 2 20) (x.setG (iRd w) (BitVec.ofNat 64 (4 * (x.pc + 1))))) s

/-! ### System instructions (R271, R272) -/

/-- SYS_NOP (R271). -/
def execSysNop (b : Fin 64) (t : Fin 16) (s : State) : Host.Outcome State Fault Refusal :=
  onHub (fun h => h.auger b.val t.val .nop fun _ x h => h.goOn b.val t.val x) s

/-- HALT (R271): FENCE.ALL, then HALTED when it completes. -/
def execHalt (b : Fin 64) (t : Fin 16) (s : State) : Host.Outcome State Fault Refusal :=
  onHub (fun h => h.auger b.val t.val .halt fun _ x h =>
    (h.setThread b.val t.val { x with wait := .fence .halt }).fenceStart (.thread b.val t.val) none .thread) s

/-- TRAP (R271). -/
def execTrap (b : Fin 64) (t : Fin 16) (s : State) : Host.Outcome State Fault Refusal :=
  onHub (fun h => h.auger b.val t.val .trap fun w x h => h.exception b.val t.val exTrap (x.g (iRa w))) s

/-- ERET (R271). -/
def execEret (b : Fin 64) (t : Fin 16) (s : State) : Host.Outcome State Fault Refusal :=
  onHub (fun h => h.auger b.val t.val .eret fun w x h =>
    if x.hmode then h.goTo b.val t.val x.epc { x with hmode := false }
    else h.exception b.val t.val exIllegal (BitVec.ofNat 64 w)) s

/-- A special register (Table 9.10). -/
def Hub.special (h : Hub) (b t : Nat) (x : Thread) (i : Nat) : Word :=
  match i with
  | 0 => BitVec.ofNat 64 (16 * b + t)
  | 1 => BitVec.ofNat 64 (16 * bit01 (h.threadSys b t) + (if h.threadSys b t then 0 else (h.bayPart b).getD 0))
  | 2 => BitVec.ofNat 64 (x.preds ||| 1)
  | 3 => x.rstat
  | 4 => BitVec.ofNat 64 (tget 0 h.bays.cycles b)
  | 5 => BitVec.ofNat 64 h.now
  | 6 => BitVec.ofNat 64 x.epc
  | 7 => BitVec.ofNat 64 x.cause
  | _ => x.info

/-- MFS (R272). -/
def execMfs (b : Fin 64) (t : Fin 16) (s : State) : Host.Outcome State Fault Refusal :=
  onHub (fun h => h.auger b.val t.val .mfs fun w x h =>
    h.goOn b.val t.val (x.setG (iRd w) (h.special b.val t.val x (iRb w)))) s

/-- MTS (R272). -/
def execMts (b : Fin 64) (t : Fin 16) (s : State) : Host.Outcome State Fault Refusal :=
  onHub (fun h => h.auger b.val t.val .mts fun w x h =>
    let v := x.g (iRa w)
    match iRb w with
    | 2 => h.goOn b.val t.val { x with preds := v.toNat % 256 / 2 * 2 }
    | 3 => h.goOn b.val t.val { x with rstat := 0 }
    | 6 => h.goOn b.val t.val { x with epc := v.toNat % 2 ^ 20 }
    | _ => h.exception b.val t.val exPriv (BitVec.ofNat 64 w)) s

/-- TSTART (R271, R276). -/
def execTstart (b : Fin 64) (t : Fin 16) (s : State) : Host.Outcome State Fault Refusal :=
  onHub (fun h => h.auger b.val t.val .tstart fun w x h =>
    let ra := x.g (iRa w)
    let rb := x.g (iRb w)
    let u := bitsGet ra 0 4
    if bitsGet ra 4 60 ≠ 0 ∨ bitsGet rb 20 44 ≠ 0 then h.exception b.val t.val exIllegal (BitVec.ofNat 64 w)
    else if (h.kernelSlot b.val u).isSome then h.exception b.val t.val exPriv (BitVec.ofNat 64 w)
    else if (h.thread b.val u).state = .run then h.goOn b.val t.val (x.setG (iRd w) 1)
    else (h.startThread b.val u (bitsGet rb 0 20)).goOn b.val t.val (x.setG (iRd w) 0)) s

/-- RESERVED_OPCODE (R250): ILLEGAL. -/
def execReservedOpcode (b : Fin 64) (t : Fin 16) (s : State) : Host.Outcome State Fault Refusal :=
  onHub (fun h => h.auger b.val t.val .reserved fun w _ h => h.exception b.val t.val exIllegal (BitVec.ofNat 64 w)) s

/-! ### Thread control (R242, R243, R275, R276) -/

/-- A write of BAY_TCTL to a thread that is not in RUN (R242, R243). -/
def Hub.tctlWrite (h : Hub) (b t : Nat) (a : Access) : Hub :=
  if !h.bayOn b || (h.kernelSlot b t).isSome || decide ((h.thread b t).state = .run) then h
  else
    let o := rTctl b t
    let h := h.setReg o (a.merge (rwMask o) (h.reg o))
    if bitAt (a.value &&& a.half.lanes) 63 then h.startThread b t (h.fld o 0 20) else h

/-- BAY_TCTL_START (R242, R243): a write of BAY_TCTL; in RUN every field but STOP is ignored, and START is. -/
def execBayTctlStart (b : Fin 64) (t : Fin 16) (a : Access) (s : State) : Host.Outcome State Fault Refusal :=
  onHub (fun h => h.writeAt (rTctl b.val t.val) a fun h => h.tctlWrite b.val t.val a) s

/-- A STOP of a thread (R275): at once where the thread is ready, or waits on a peg or for room; else at its next boundary. -/
def Hub.tctlStop (h : Hub) (b t : Nat) : Hub :=
  let x := h.thread b t
  if !h.bayOn b || (h.kernelSlot b t).isSome || decide (x.state ≠ .run) then h
  else
    let ag : Agent := .thread b t
    match x.wait with
    | .ready => h.leaveRun b t .stopped
    | .room _ _ _ _ => h.leaveRun b t .stopped
    | .peg _ =>
      let h := { h with pegs := { h.pegs with waits := h.pegs.waits.filter fun w => !decide (w.agent = ag) } }
      h.leaveRun b t .stopped
    | _ => h.setThread b t { x with stop := true }

/-- BAY_TCTL_STOP (R275). -/
def execBayTctlStop (b : Fin 64) (t : Fin 16) (s : State) : Host.Outcome State Fault Refusal :=
  onHub (fun h => h.tctlStop b.val t.val) s

end Sys2Proof.Machine
end

