-- ==== Sys2Proof/Machine/AugerRemote.lean ====
section
/-! DEFINITION. Auger instructions that reach outside the thread (R256 to R269): remote accesses, fences, pegs, mortises,
engine commands, and what follows when their answers or fences come. -/
namespace Sys2Proof.Machine

/-- A tagged request of a thread, and the thread that waits for it; a thread that finds no tag waits, and issues the same instruction
later (R72). -/
def Hub.threadIssue (h : Hub) (b t : Nat) (x : Thread) (p : Packet) (w : TWait) : Hub :=
  match h.issue (.thread b t) p .thread with
  | none => h
  | some h => h.setThread b t { x with wait := w }

/-- Act on where a remote instruction leads. -/
def Hub.atTarget (h : Hub) (b t w : Nat) (a : Word) (size need : Nat) (loft : Nat → Thread → Hub → Hub)
    (remote : Nat → Bool → Thread → Hub → Hub) : Hub :=
  match h.target b t w a size need with
  | (.loft off, h) => loft off (h.thread b t) h
  | (.remote fa nc, h) => remote fa nc (h.thread b t) h
  | (.wait h, _) => h
  | (.raise h, _) => h

/-- RLD (R257). -/
def execRld (b : Fin 64) (t : Fin 16) (s : State) : Host.Outcome State Fault Refusal :=
  onHub (fun h => h.auger b.val t.val .rld fun w x h =>
    let fn := iFn w
    let size := 2 ^ (fn % 4)
    let sx := fn.testBit 2
    let acq := fn.testBit 3
    let q := fn.testBit 4
    h.atTarget b.val t.val w (x.g (iRa w)) size needR
      (fun off x h => h.loftLoad b.val t.val { x with rstat := 0 } off size (iRd w) sx)
      (fun fa nc x h =>
        let c := h.threadWho b.val t.val
        let tag := h.agentTag c.agent
        let may := !acq && h.cacheable c { fa := fa, len := size, nc := nc }
        match (if may then h.cacheLine b.val fa tag else (none, h)) with
        | (some l, h) => h.goOn b.val t.val (({ x with rstat := 0 } : Thread).setG (iRd w) (extend sx (slice l.data (fa % 64) size)))
        | (none, h) =>
          let at_ := if may then fa / 64 * 64 else fa
          let len := if may then 64 else size
          h.threadIssue b.val t.val x { h.request c.agent at_ opcRd 0 with aux40 := BitVec.ofNat 40 len }
            (.load (iRd w) size sx acq q fa tag may))) s

/-- The packet of a store of a thread. -/
def Hub.rstPacket (h : Hub) (b t w : Nat) (x : Thread) (fa size : Nat) : Packet :=
  let fn := iFn w
  let pg := if fn.testBit 5 then (x.g (iRd w)).toNat else 0
  { h.request (.thread b t) fa (if fn.testBit 2 then opcWra else opcWr) 0 with
    payload := leBytes size (x.g (iRb w)).toNat, peg := BitVec.ofNat 12 pg, pgm := BitVec.ofNat 2 (pg / 4096) }

/-- A store of a thread goes out: as a WRA that it waits for, or as a posted WR, complete once accepted (R258). -/
def Hub.storeOut (h : Hub) (b t : Nat) (x : Thread) (p : Packet) (ack q : Bool) : Hub :=
  let h := h.invalidateLine b p.loc.toNat
  if ack then h.threadIssue b t x p (.store q) else (h.post (.thread b t) p).goOn b t x

/-- RST (R258). -/
def execRst (b : Fin 64) (t : Fin 16) (s : State) : Host.Outcome State Fault Refusal :=
  onHub (fun h => h.auger b.val t.val .rst fun w x h =>
    let fn := iFn w
    let size := 2 ^ (fn % 4)
    let ack := fn.testBit 2
    let rel := fn.testBit 3
    let q := fn.testBit 4
    let ag : Agent := .thread b.val t.val
    let release (p : Packet) (loft : Bool) (x : Thread) (h : Hub) : Hub :=
      (h.setThread b.val t.val { x with wait := .fence (.release p ack q loft) }).fenceStart ag none .thread
    h.atTarget b.val t.val w (x.g (iRa w)) size needW
      (fun off x h =>
        let bs := leBytes size (x.g (iRb w)).toNat
        if rel then release { h.request ag (faOf h.self (loftOff b.val off)) opcWr 0 with payload := bs } true x h
        else (h.loftStore b.val off bs).goOn b.val t.val (if ack then { x with rstat := 0 } else x))
      (fun fa _ x h =>
        let p := h.rstPacket b.val t.val w x fa size
        if rel then release p false x h else h.storeOut b.val t.val x p ack q)) s

/-- The payload of a RAT: for CAS the compare value g[RD] and then the swap value g[RB]. -/
def ratPayload (md n : Nat) (rd rb : Word) : List Byte :=
  if md = 5 then leBytes n rd.toNat ++ leBytes n rb.toNat else leBytes n rb.toNat

/-- A fetched old value as RAT writes it: sign-extended for I32 (R259). -/
def ratOld (wide : Bool) (bs : List Byte) : Word := if wide then leWord bs else extend true (bs.take 4)

/-- RAT (R259). -/
def execRat (b : Fin 64) (t : Fin 16) (s : State) : Host.Outcome State Fault Refusal :=
  onHub (fun h => h.auger b.val t.val .rat fun w x h =>
    let fn := iFn w
    let md := fn % 8
    let wide := fn.testBit 3
    let fetch := fn.testBit 4
    let q := fn.testBit 5
    let n := if wide then 8 else 4
    let pay (x : Thread) := ratPayload md n (x.g (iRd w)) (x.g (iRb w))
    h.atTarget b.val t.val w (x.g (iRa w)) n needA
      (fun off x h =>
        match h.memRead (loftOff b.val off) n with
        | (none, h) => h.exception b.val t.val exMemUncorr (BitVec.ofNat 64 off)
        | (some old, h) =>
          let p := pay x
          let v := atResult md n (leNat old) (leNat (p.take n)) (leNat (p.drop n))
          let x := { x with rstat := 0 }
          (h.loftStore b.val off (leBytes n v)).goOn b.val t.val (if fetch then x.setG (iRd w) (ratOld wide old) else x))
      (fun fa _ x h =>
        let h := h.invalidateLine b.val fa
        h.threadIssue b.val t.val x
          { h.request (.thread b.val t.val) fa opcAt (BitVec.ofNat 4 md) with
            payload := pay x, aux40 := BitVec.ofNat 40 (bit01 wide + 2 * bit01 fetch) }
          (.atomic (iRd w) wide fetch q))) s

/-! ### Fences and the read cache (R261, R262) -/

/-- FENCE_LOFT (R261): loft accesses are performed as they issue; the words fetched ahead are discarded (R246). -/
def execFenceLoft (b : Fin 64) (t : Fin 16) (s : State) : Host.Outcome State Fault Refusal :=
  onHub (fun h => h.auger b.val t.val .fenceLoft fun w x h =>
    h.goOn b.val t.val ((({ x with rstat := 0, ahead := [] } : Thread)).setG (iRd w) 0)) s

/-- A remote fence of a thread. -/
def Hub.threadFenceStart (h : Hub) (b t : Nat) (x : Thread) (dst : Option Node) (u : FenceUse) : Hub :=
  (h.setThread b t { x with wait := .fence u }).fenceStart (.thread b t) dst .thread

/-- FENCE_NODE (R261). -/
def execFenceNode (b : Fin 64) (t : Fin 16) (s : State) : Host.Outcome State Fault Refusal :=
  onHub (fun h => h.auger b.val t.val .fenceNode fun w x h =>
    h.threadFenceStart b.val t.val x (some (BitVec.ofNat 10 (bitsGet (x.g (iRa w)) 0 10))) (.instr (iRd w) ((iFn w).testBit 4))) s

/-- FENCE_ALL (R261). -/
def execFenceAll (b : Fin 64) (t : Fin 16) (s : State) : Host.Outcome State Fault Refusal :=
  onHub (fun h => h.auger b.val t.val .fenceAll fun w x h =>
    h.threadFenceStart b.val t.val x none (.instr (iRd w) ((iFn w).testBit 4))) s

/-- CINV_TAG (R262). -/
def execCinvTag (b : Fin 64) (t : Fin 16) (s : State) : Host.Outcome State Fault Refusal :=
  onHub (fun h => h.auger b.val t.val .cinvTag fun _ x h =>
    (h.invalidateTag b.val (h.agentTag (.thread b.val t.val))).goOn b.val t.val x) s

/-- CINV_LINE (R262): an address by the rules of R256; the line goes if it is cached under the thread's tag. -/
def execCinvLine (b : Fin 64) (t : Fin 16) (s : State) : Host.Outcome State Fault Refusal :=
  onHub (fun h => h.auger b.val t.val .cinvLine fun w x h =>
    h.atTarget b.val t.val w (x.g (iRa w)) 1 0 (fun _ x h => h.goOn b.val t.val x)
      (fun fa _ x h =>
        let tag := h.agentTag (.thread b.val t.val)
        (h.invalidate b.val fun l g => decide (l = fa / 64 * 64) && decide (g = tag)).goOn b.val t.val x)) s

/-! ### Pegs (R263 to R266) -/

/-- The peg that a thread names in g[RA][11:0], after the check of R263. -/
def Hub.withPeg (h : Hub) (b t : Nat) (ra : Word) (act : Nat → Hub) : Hub :=
  let n := bitsGet ra 0 12
  if h.agentOwnsPeg (.thread b t) n then act n else h.exception b t exDenied (BitVec.ofNat 64 n)

/-- PADV (R264). -/
def execPadv (b : Fin 64) (t : Fin 16) (s : State) : Host.Outcome State Fault Refusal :=
  onHub (fun h => h.auger b.val t.val .padv fun w x h =>
    h.withPeg b.val t.val (x.g (iRa w)) fun n =>
      h.threadFenceStart b.val t.val x none (.padv n (x.g (iRb w)) ((iFn w).testBit 0))) s

/-- A wait's time-out in ns: none for 0, else held between 10 µs and 10 s (R225, R265). -/
def waitNs (us : Nat) : Option Nat := if us = 0 then none else some (clampNat us 10 10000000 * 1000)

/-- PWAIT (R265). -/
def execPwait (b : Fin 64) (t : Fin 16) (s : State) : Host.Outcome State Fault Refusal :=
  onHub (fun h => h.auger b.val t.val .pwait fun w x h =>
    h.withPeg b.val t.val (x.g (iRa w)) fun n =>
      let thr := x.g (iRb w)
      if reached (h.peg n).value thr then (h.acquire (.thread b.val t.val)).goOn b.val t.val (x.setG (iRd w) 0)
      else
        let d := (waitNs (bitsGet (x.g (iRd w)) 0 32)).map (h.now + ·)
        let pw : PegWait := { agent := .thread b.val t.val, peg := n, thresh := thr, deadline := d }
        let h := { h with pegs := { h.pegs with waits := h.pegs.waits ++ [pw] } }
        h.setThread b.val t.val { x with wait := .peg (iRd w) }) s

/-- PRD (R266). -/
def execPrd (b : Fin 64) (t : Fin 16) (s : State) : Host.Outcome State Fault Refusal :=
  onHub (fun h => h.auger b.val t.val .prd fun w x h =>
    h.withPeg b.val t.val (x.g (iRa w)) fun n => h.goOn b.val t.val (x.setG (iRd w) (h.peg n).value)) s

/-! ### Mortises (R267, R268) -/

/-- MPUT (R267). -/
def execMput (b : Fin 64) (t : Fin 16) (s : State) : Host.Outcome State Fault Refusal :=
  onHub (fun h => h.auger b.val t.val .mput fun w x h =>
    let bs (x : Thread) := leBytes 8 (x.g (iRd w)).toNat ++ leBytes 8 (x.g (iRd w + 1)).toNat
    h.atTarget b.val t.val w (x.g (iRa w)) 16 needW
      (fun off x h => (h.loftStore b.val off (bs x)).goOn b.val t.val { x with rstat := 0 })
      (fun fa _ x h =>
        let h := h.invalidateLine b.val fa
        h.threadIssue b.val t.val x { h.request (.thread b.val t.val) fa opcWra 0 with payload := bs x }
          (.store ((iFn w).testBit 0)))) s

/-- A thread owns a mortise (R268). -/
def Hub.threadOwnsMortise (h : Hub) (b t n : Nat) : Bool :=
  if h.bit (rMtsCfg n) 62 then h.threadSys b t else decide (h.agentPart (.thread b t) = some (h.fld (rMtsCfg n) 58 4))

/-- MGET (R268); a mortise received by a host (RX_HOST = 1) gives bays nothing (R334). -/
def execMget (b : Fin 64) (t : Fin 16) (s : State) : Host.Outcome State Fault Refusal :=
  onHub (fun h => h.auger b.val t.val .mget fun w x h =>
    let n := bitsGet (x.g (iRa w)) 0 8
    let m := h.mortise n
    if !h.threadOwnsMortise b.val t.val n || h.bit (rMtsCfg n) 57 then h.exception b.val t.val exDenied (BitVec.ofNat 64 n)
    else if m.full then
      let x := ((x.setG (iRd w) (leWord m.notice)).setG (iRd w + 1) (leWord (m.notice.drop 8))).setP (iFn w) true
      (h.mtsTake n).goOn b.val t.val x
    else h.goOn b.val t.val (x.setP (iFn w) false)) s

/-! ### Engine commands (R269) -/

/-- Another thread of a bay is between the slot and the peg of its ECMD: ECMDs of one bay are serialised (R270). -/
def Hub.ecmdBusy (h : Hub) (b t : Nat) : Bool := (List.range 16).any fun u => decide (u ≠ t) && (match (h.thread b u).wait with
  | .fence (.ecmd ..) => true
  | _ => false)

/-- The loop of ECMD from the check of EN on. -/
def Hub.ecmdTry (h : Hub) (b t rd ra rb : Nat) (q : Bool) : Hub :=
  let x := h.thread b t
  let e := bitsGet (x.g rb) 2 2
  let k := bitsGet (x.g rb) 0 2
  let cfg := rQcfgBay b e k
  if h.ecmdBusy b t then h.setThread b t { x with wait := .room rd ra rb q }
  else if !h.bit cfg 63 then h.remoteEnd b t stQueueOff 0 q id id
  else
    let prod := h.fld cfg 24 12
    let p := (h.peg prod).value
    let c := (h.peg (h.fld cfg 36 12)).value
    let n := 2 ^ h.fld cfg 20 4
    if (p - c).toNat < n then
      let off := (x.g ra).toNat
      match h.memRead (loftOff b off) 128 with
      | (none, h) => h.exception b t exMemUncorr (BitVec.ofNat 64 off)
      | (some bs, h) =>
        let h := h.loftStore b (h.fld cfg 0 15 * 128 + p.toNat % n * 128) bs
        h.threadFenceStart b t (h.thread b t) none (.ecmd rd prod p q)
    else h.setThread b t { x with wait := .room rd ra rb q }

/-- ECMD (R269, R276). -/
def execEcmd (b : Fin 64) (t : Fin 16) (s : State) : Host.Outcome State Fault Refusal :=
  onHub (fun h => h.auger b.val t.val .ecmd fun w x h =>
    let a := x.g (iRa w)
    let r := x.g (iRb w)
    let e := bitsGet r 2 2
    let cfg := rQcfgBay b.val e (bitsGet r 0 2)
    let owner := if h.bit cfg 62 then none else h.bayPart b.val
    let bad := [h.fld cfg 24 12, h.fld cfg 36 12].find? fun n => decide (h.pegPart n ≠ owner)
    if e = 2 ∨ bitsGet r 4 60 ≠ 0 then h.exception b.val t.val exIllegal (BitVec.ofNat 64 w)
    else if h.kernelBay b.val && Config.kernelQueue (bitsGet r 0 4) then h.exception b.val t.val exPriv (BitVec.ofNat 64 w)
    else if 0x3FFF80 < a.toNat then h.exception b.val t.val exBadaddr a
    else if a.toNat % 128 ≠ 0 then h.exception b.val t.val exMisalign a
    else match bad with
      | some n => h.exception b.val t.val exDenied (BitVec.ofNat 64 n)
      | none => h.ecmdTry b.val t.val (iRd w) (iRa w) (iRb w) ((iFn w).testBit 0)) s

/-- ECMD_RESUME (R269): a change of either peg or of EN is looked at by a thread that waits for room. -/
def execEcmdResume (b : Fin 64) (t : Fin 16) (s : State) : Host.Outcome State Fault Refusal :=
  onHub (fun h =>
    match (h.thread b.val t.val).wait with
    | .room rd ra rb q => if h.alive && h.bayOn b.val then h.ecmdTry b.val t.val rd ra rb q else h
    | _ => h) s

/-! ### What follows an answer or a fence -/

/-- A thread's tagged request completes (R257 to R260): the data of an RSP DATA, a status and a node. -/
def Hub.threadAnswer (h : Hub) (b t status node : Nat) (data : List Byte) : Hub :=
  match (h.thread b t).wait with
  | .load rd size sx acq q fa tag install =>
    let h := if acq then h.acquire (.thread b t) else h
    let whole := decide (64 ≤ data.length) && decide (size < 64)
    let h := if install && whole && decide (status = 0) then h.cacheInstall b { fa := fa / 64 * 64, tag := tag, data := data } else h
    let v := extend sx (if whole then slice data (fa % 64) size else data.take size)
    h.remoteEnd b t status node q (·.setG rd v) (·.setG rd 0)
  | .store q => h.remoteEnd b t status node q id id
  | .atomic rd wide fetch q => h.remoteEnd b t status node q (fun x => if fetch then x.setG rd (ratOld wide data) else x) id
  | _ => h

/-- A thread's remote fence completes (R258, R261, R264, R269, R271). -/
def Hub.threadFence (h : Hub) (b t status node : Nat) : Hub :=
  let x := h.thread b t
  match x.wait with
  | .fence (.instr rd q) =>
    let v := rstatOf status node
    if status = 0 ∨ q then h.goOn b t (({ x with rstat := v } : Thread).setG rd v)
    else (h.setThread b t { x with rstat := v }).exception b t exRemoteFail v
  | .fence (.padv n add q) =>
    let h := if status = 0 then h.advancePeg n add else h
    h.remoteEnd b t status node q id id
  | .fence (.release p ack q loft) =>
    if status ≠ 0 then h.remoteEnd b t status node q id id
    else if loft then
      (h.loftStore b ((faOff p.loc.toNat - loftBase) % 0x400000) p.payload).remoteEnd b t 0 0 q id id
    else
      let h := h.invalidateLine b p.loc.toNat
      if ack then
        match h.issue (.thread b t) p .thread with
        | some h => h.setThread b t { x with wait := .store q }
        | none => (h.issueD (.thread b t) p .thread).setThread b t { x with wait := .store q }
      else (h.post (.thread b t) p).remoteEnd b t 0 0 q id id
  | .fence (.ecmd rd n p q) =>
    let h := if status = 0 then h.advancePeg n 1 else h
    h.remoteEnd b t status node q (·.setG rd p) id
  | .fence .halt => (h.setThread b t { x with info := rstatOf status node }).leaveRun b t .halted
  | _ => h

end Sys2Proof.Machine
end

