-- ==== Sys2Proof/Machine/Image.lean ====
section
/-! DEFINITION. The configuration image (R430 to R436): its header, sections, command keys, trusted roots and CONFIG records. -/
namespace Sys2Proof.Machine

/-- The number in `n` bytes of an image from an offset. -/
def imgNum (img : List Byte) (off n : Nat) : Nat := leNat (slice img off n)

/-- MAGIC and FORMAT are right (Table 16.3). -/
def imgHeadOk (img : List Byte) : Bool := decide (imgNum img 0 4 = 0x4B4C5649) && decide (imgNum img 4 2 = 1)
/-- LENGTH. -/
def imgLen (img : List Byte) : Nat := imgNum img 8 4
/-- ROLLBACK. -/
def imgRollback (img : List Byte) : Nat := imgNum img 12 1
/-- A bit of FLAGS: 0 ADVANCE, 1 TEST, 2 VERIFY_WIPE, 3 LPD_REQ, 4 SIGNER. -/
def imgFlag (img : List Byte) (i : Nat) : Bool := (imgNum img 13 1).testBit i

/-- An entry of the section table: type, version, offset, length, digest. -/
def imgEntry (img : List Byte) (i : Nat) : Nat × Nat × Nat × Nat × List Byte :=
  let o := 64 + 96 * i
  (imgNum img o 2, imgNum img (o + 4) 4, imgNum img (o + 8) 4, imgNum img (o + 12) 4, slice img (o + 32) 64)

/-- The section of a type; empty where there is none. -/
def imgSection (img : List Byte) (ty : Nat) : List Byte :=
  match ((List.range 8).map (imgEntry img)).find? fun e => decide (e.1 = ty) with
  | some e => slice img e.2.2.1 e.2.2.2.1
  | none => []

/-- The types of Table 16.4. -/
def sectionTypes : List Nat := [0x01, 0x02, 0x03, 0x04, 0x10, 0x11, 0x12, 0x13]

/-- Two spans do not overlap. -/
def spansApart (a b : Nat × Nat) : Bool := decide (a.1 + a.2 ≤ b.1) || decide (b.1 + b.2 ≤ a.1)

/-- The section table holds each type once, at 64-byte offsets, without overlap and within the image (R431). -/
def imgTableOk (img : List Byte) : Bool :=
  let es := (List.range 8).map (imgEntry img)
  let spans := es.map fun e => (e.2.2.1, e.2.2.2.1)
  decide (imgNum img 6 2 = 8) && decide (imgLen img ≤ 0x1000000) && decide (832 + 114 ≤ imgLen img) &&
  sectionTypes.all (fun t => decide ((es.filter fun e => decide (e.1 = t)).length = 1)) &&
  es.all (fun e => decide (e.2.2.1 % 64 = 0) && decide (832 ≤ e.2.2.1) && decide (e.2.2.1 + e.2.2.2.1 ≤ imgLen img - 114)) &&
  (List.range 8).all fun i => (List.range 8).all fun j => decide (j ≤ i) || spansApart (spans.getD i (0, 0)) (spans.getD j (0, 0))

/-- A firmware section's version and Broef signature (R431). The key is one that the boot ROM holds. -/
def firmwareOk (key : List Byte) (e : Nat × Nat × Nat × Nat × List Byte) (sec : List Byte) : Bool :=
  if e.1 ≤ 4 then
    decide (114 + 4 ≤ sec.length) && decide (leNat (sec.take 4) = e.2.1) &&
      Config.ed448Verify key (sec.take (sec.length - 114)) (sec.drop (sec.length - 114))
  else true

/-- Digests and firmware signatures of every section (R430, R431, R435). -/
def imgSectionsOk (key : List Byte) (img : List Byte) : Bool :=
  ((List.range 8).map (imgEntry img)).all fun e =>
    let sec := slice img e.2.2.1 e.2.2.2.1
    decide (Config.shake256 64 sec = e.2.2.2.2) && firmwareOk key e sec

/-- The image signature under a public key (R430, R432). -/
def imgSigned (key : List Byte) (img : List Byte) : Bool :=
  Config.ed448Verify key (img.take (imgLen img - 114)) (slice img (imgLen img - 114) 114)

/-- A version of the running combination (R436): types 1 to 4. -/
def imgVersion (img : List Byte) (ty : Nat) : Nat := leNat ((imgSection img ty).take 4)

/-- Some COMPAT row equals the combination of a stepping and an image's versions (R436). -/
def imgCompat (stepping : Nat) (img : List Byte) : Bool :=
  let c := imgSection img 0x10
  (List.range (min 256 (c.length / 24))).any fun i =>
    let r := slice c (24 * i) 24
    decide (leNat (r.take 2) = stepping) &&
      [1, 2, 3, 4].all fun t => decide (leNat (slice r (4 * t) 4) = imgVersion img t)

/-- A command-key entry (Table 16.5). -/
def keyEntry (img : List Byte) (k : Nat) : List Byte := slice (imgSection img 0x11) (192 * k) 192

/-- A bit of a field of bytes. -/
def byteBit (bs : List Byte) (off i : Nat) : Bool := ((slice bs (off + i / 8) 1).headD 0).getLsbD (i % 8)

/-- A root-certificate digest is trusted for a port kind: 0 joist, 1 girt, 2 rafter (Table 16.4, R351). -/
def trusted (img : List Byte) (digest : List Byte) (kind : Nat) : Bool :=
  let t := imgSection img 0x12
  (List.range (min 32 (t.length / 72))).any fun i => decide (slice t (72 * i) 64 = digest) && byteBit t (72 * i + 64) kind

/-- The records of CONFIG (R434): type and body, of at most `fuel` records. -/
def configRecords : Nat → List Byte → List (Nat × List Byte)
  | 0, _ => []
  | k + 1, bs =>
    if bs.length < 4 then []
    else
      let n := leNat (slice bs 2 2)
      (leNat (bs.take 2), slice bs 4 n) :: configRecords k (bs.drop (4 + (n + 7) / 8 * 8))

/-- CONFIG of an image. -/
def imgConfig (img : List Byte) : List (Nat × List Byte) := configRecords (imgSection img 0x13).length (imgSection img 0x13)

/-- The bodies of the records of a type. -/
def configOf (img : List Byte) (ty : Nat) : List (List Byte) := ((imgConfig img).filter fun r => decide (r.1 = ty)).map (·.2)

/-- The pairs of a REGS record: offset and value. -/
def regPairs : Nat → List Byte → List (Nat × Word)
  | 0, _ => []
  | k + 1, bs =>
    if bs.length < 16 then []
    else (leNat (bs.take 8) % 2 ^ 26, leWord (slice bs 8 8)) :: regPairs k (bs.drop 16)

end Sys2Proof.Machine
end

