-- ==== Sys2Proof/Machine/ScribeCmd.lean ====
section
/-! DEFINITION. The commands of the Scribe (R277 to R294): contexts, invalidations and the walkers. -/
namespace Sys2Proof.Machine

/-! ### Contexts and invalidations -/

/-- What two contexts that share a tag must agree in (R278): all but VALID and TAG, and the root. -/
def Hub.ctxSame (h : Hub) (n m : Nat) (w : Word) : Bool :=
  decide ((h.reg (rCtxCfg m)) >>> 16 = w >>> 16) && decide (h.reg (rCtxRoot m) = h.reg (rCtxRoot n))

/-- A context may not become valid (R278). -/
def Hub.ctxRefused (h : Hub) (n : Nat) (w : Word) : Bool :=
  ((List.range 256).any fun m => decide (m ≠ n) && h.ctxBit m 63 && decide (h.ctxTag m = bitsGet w 0 16) && !h.ctxSame n m w) ||
  (bitAt w 62 && !(h.funcOn (bitsGet w 55 5) && decide (h.funcPart (bitsGet w 55 5) = some (bitsGet w 48 4))))

/-- SCR_INV.REFUSED set. -/
def Hub.invRefused (h : Hub) : Hub := h.setFld rScrInv 62 1 1

/-- A context's configuration written (R278, R294). -/
def Hub.ctxWrite (h : Hub) (n : Nat) (a : Access) : Hub :=
  let old := h.reg (rCtxCfg n)
  let w := a.merge (rwMask (rCtxCfg n)) old
  if bitAt old 63 then
    (if bitAt w 63 then h
     else if h.bit rScrInv 63 then h.invRefused
     else (h.setReg (rCtxCfg n) (bitsPut old 63 1 0)).invalidateStart (bitsGet old 0 16))
  else if bitAt w 63 && h.ctxRefused n w then h.invRefused
  else h.setReg (rCtxCfg n) w

/-- SCR_CTX_CFG_WRITE (R278). -/
def execScrCtxCfgWrite (n : Fin 256) (a : Access) (s : State) : Host.Outcome State Fault Refusal :=
  onHub (fun h => h.writeAt (rCtxCfg n.val) a fun h => h.ctxWrite n.val a) s

/-- A writer may invalidate a tag (R315, R463): the wright any; a function that of a valid context bound to it, a PF that of
one bound to any function of its port. -/
def Hub.mayInvalidate (h : Hub) (w : Writer) (tag : Nat) : Bool :=
  match w with
  | .wright => true
  | .func f => (List.range 256).any fun n => h.ctxBit n 63 && h.ctxHost n && decide (h.ctxTag n = tag) &&
      (decide (h.ctxFunc n = f.val) || (isPf f.val && decide (h.ctxFunc n / 16 = f.val / 16)))

/-- A write of SCR_INV (Table 10.10, R294, R463). -/
def Hub.invWrite (h : Hub) (w : Writer) (a : Access) : Hub :=
  let v := a.value &&& a.half.lanes
  let tag := if a.half = .high then h.fld rScrInv 0 16 else bitsGet v 0 16
  if bitAt v 61 then
    (if h.bit rScrInv 63 || !h.mayInvalidate w tag then h.invRefused
     else
       let h := if bitAt v 62 then h.setFld rScrInv 62 1 0 else h
       (h.setFld rScrInv 0 16 tag).invalidateStart tag)
  else
    let h := if bitAt v 62 then h.setFld rScrInv 62 1 0 else h
    h.setFld rScrInv 0 16 tag

/-- SCR_INV_GO (R294). -/
def execScrInvGo (w : Writer) (a : Access) (s : State) : Host.Outcome State Fault Refusal :=
  onHub (fun h => h.writeAt rScrInv a fun h => h.invWrite w a) s

/-- The tile that an invalidation waits for has been performed, or has failed: its descriptor has ended, or is past it with no write of
the queue in flight. -/
def Hub.tileOver (h : Hub) (key : Nat) (count : Word) (tile : Nat) : Bool :=
  let x := tget {} h.bays.queues key
  decide (x.phase = .none) || decide (x.phase = .waiting) || decide (x.count ≠ count) ||
    (decide (x.tile ≠ tile) && !h.mustFence (.queue (key / 16) (key % 16 / 4) (key % 4)))

/-- What an invalidation waits for has ended (R294). -/
def Hub.invOver (h : Hub) : Bool :=
  (h.scr.busyReq.all fun r => !(h.sill.out.any fun o => decide (o.tag = r.1) && decide (o.deadline = r.2))) &&
  (h.scr.busyQ.all fun q => h.tileOver q.1 q.2.1 q.2.2) &&
  (h.scr.busyTh.all fun t =>
    let x := tget {} h.bays.threads t.1
    decide (x.pc ≠ t.2) || !(x.accessing || h.waitsTag (.thread (t.1 / 16) (t.1 % 16)))) &&
  (h.scr.busyMem.all fun m => decide ((h.work (.member m)).xl = [])) &&
  (h.scr.busyPid.all fun p => !((h.swc.rx ++ h.swc.queues.flatMap (·.2) ++ h.sill.reqs).any fun x => decide (x.pid = p)))

/-- SCR_INV_DONE (R294). -/
def execScrInvDone (s : State) : Host.Outcome State Fault Refusal :=
  onHub (fun h =>
    if h.bit rScrInv 63 && h.invOver then
      ({ h with scr := { h.scr with busyReq := [], busyQ := [], busyTh := [], busyPid := [], busyMem := [] } } : Hub).setFld rScrInv 63 1 0
    else h) s

/-! ### Walkers (R280, R281, R290) -/

/-- A walker that is free. -/
def Hub.freeWalker (h : Hub) : Option Nat := (List.range 16).find? fun w => decide (tget none h.scr.walks w = none)
/-- The hub with a walker's walk set. -/
def Hub.setWalk (h : Hub) (w : Nat) (x : Option Walk) : Hub := { h with scr := { h.scr with walks := tset none h.scr.walks w x } }

/-- A miss answered by a fault. A thread raises it (R256, R292); an operation keeps it until every page of its tile is known, and reports
it then (R291). A prefetch stops its stream's prefetching and reports nothing (R290). -/
def Hub.missFault (h : Hub) (m : Miss) (cause level : Nat) : Hub :=
  match m.who with
  | .thread t =>
    if (h.thread m.bay t).wait = .walk then
      (h.latchXlate m.bay m.ctx 15 t 0 level cause m.va).exception m.bay t exXlate (BitVec.ofNat 64 m.va)
    else h
  | .reader r => h.noteXlate r m.va m.need (.fault cause level)
  | .ahead q n => { h with scr := { h.scr with noAhead := h.scr.noAhead ++ [(q, n)] } }

/-- A miss answered by an entry: installed unless an invalidation has overtaken the walk (R294), and handed to its thread or
operation. -/
def Hub.missFound (h : Hub) (stale : Bool) (m : Miss) (x : Lookaside) : Hub :=
  let h := if stale then h else h.installLeaf m.bay x
  match m.who with
  | .thread t =>
    let y := h.thread m.bay t
    if y.wait = .walk then h.setThread m.bay t { y with wait := .walked m.va (x.fetch m.va) x.attrs } else h
  | .reader r => h.noteXlate r m.va m.need (.ok (x.fetch m.va) x.attrs)
  | .ahead _ _ => h

/-- The local members that waited for some of the misses go on. -/
def Hub.missPump (h : Hub) (ms : List Miss) : Hub :=
  ms.foldl (fun h m => match m.who with
    | .reader (.member id) => h.memberPump id
    | _ => h) h

/-- Every miss of a walk faults. -/
def Hub.walkFault (h : Hub) (ms : List Miss) (cause level : Nat) : Hub :=
  (ms.foldl (fun h m => h.missFault m cause level) h).missPump ms

/-- A walk with the table it reads next: refused where the table is out of place (R286). -/
def Hub.walkOn (h : Hub) (w : Nat) (x : Walk) : Hub :=
  match x.misses with
  | [] => h.setWalk w none
  | m :: _ =>
    if h.tableOk m.ctx x.table then h.setWalk w (some x)
    else (h.setWalk w none).walkFault x.misses xlTableDenied x.level

/-- A walk begun for some misses on a walker (R289). -/
def Hub.walkBegin (h : Hub) (w : Nat) (ms : List Miss) : Hub :=
  match ms with
  | [] => h
  | m :: _ =>
    match h.walkStart m.bay m.ctx m.va with
    | ((lvl, t, r), h) => h.walkOn w { misses := ms, level := lvl, table := t, rights := r }

/-- The walker whose walk a miss can share (R290): over the same leaf group, and not overtaken by an invalidation (R294). -/
def Hub.sharedWalk (h : Hub) (m : Miss) : Option (Nat × Walk) :=
  h.scr.walks.findSome? fun w => match w.2 with
    | some x => if !x.stale && x.misses.any (h.shareWalk m) then some (w.1, x) else none
    | none => none

/-- WALK_START (R290): the oldest pending demand miss, with those that share its walk. A walk in progress over the same leaf
group takes them too. -/
def execWalkStart (s : State) : Host.Outcome State Fault Refusal :=
  onHub (fun h =>
    match h.scr.misses with
    | [] => h
    | m :: _ =>
      if !h.alive then h
      else
        let ms := h.scr.misses.filter (h.shareWalk m)
        let g : Hub := { h with scr := { h.scr with misses := h.scr.misses.filter fun x => !h.shareWalk m x } }
        match h.sharedWalk m, h.freeWalker with
        | some (w, x), _ => g.setWalk w (some { x with misses := x.misses ++ ms })
        | none, some w => g.walkBegin w ms
        | none, none => h) s

/-- The group of a level that a walk reads: from pool memory, or as the host's completion gives it; none where the read fails
(R286). -/
def Hub.walkRead (h : Hub) (c fa : Nat) (words : Option (List Word)) : Option (List Word) × Hub :=
  if h.ctxHost c then (if h.funcAvail (h.ctxFunc c) then (words.map fun l => (l ++ List.replicate 16 0).take 16, h) else (none, h))
  else h.poolGroup fa

/-- One miss of a walk at the level just read: it faults or finds its leaf. -/
def Hub.missLevel (h : Hub) (x : Walk) (g : List Word) (m : Miss) : Hub :=
  match h.walkLevel m.ctx m.va m.need x.level x.rights g with
  | .fault cause l => h.missFault m cause l
  | .found y => h.missFound x.stale m y
  | .next _ _ => h

/-- WALK_TABLE_READ_RETURN (R280, R281). -/
def execWalkTableReadReturn (w : Fin 16) (words : Option (List Word)) (s : State) : Host.Outcome State Fault Refusal :=
  onHub (fun h =>
    match tget none h.scr.walks w.val with
    | none => h
    | some x =>
      match x.misses with
      | [] => h.setWalk w.val none
      | m :: _ =>
        match h.walkRead m.ctx (h.tableFa m.ctx x.table + groupOff m.va x.level) words with
        | (none, h) => (h.setWalk w.val none).walkFault x.misses xlWalkErr x.level
        | (some g, h) =>
          match h.walkLevel m.ctx m.va m.need x.level x.rights g with
          | .next t r =>
            let h := if x.stale then h
                     else h.bufPut (66 + bayDie m.bay) (h.nonLeaf m.ctx m.va (x.level - 1) t r)
            h.walkOn w.val { x with level := x.level - 1, table := t, rights := r }
          | _ => (x.misses.foldl (fun h m => h.missLevel x g m) (h.setWalk w.val none)).missPump x.misses) s

end Sys2Proof.Machine
end

