-- ==== Sys2Proof/Machine/Engines.lean ====
section
/-! DEFINITION. Command queues and descriptors (R219 to R227): enabling, starting, waiting and completing them, and the checks
that each engine makes before it moves a byte (R145, R217, R224, R228, R231, R233, R235). -/
namespace Sys2Proof.Machine

/-- A word of a descriptor. -/
def EQueue.w (x : EQueue) (i : Nat) : Word := leWord (slice x.desc (8 * i) 8)
/-- OP of a descriptor. -/
def EQueue.opc (x : EQueue) : Nat := bitsGet (x.w 0) 56 8

/-! ### Enabling and disabling (R219, R220, R223) -/

/-- ERR that a configuration earns, 0 if none (R220). -/
def Hub.qcfgError (h : Hub) (b : Nat) (w : Word) : Nat :=
  let owner := if bitAt w 62 then none else h.bayPart b
  let n := bitsGet w 20 4
  if h.pegPart (bitsGet w 24 12) ≠ owner ∨ h.pegPart (bitsGet w 36 12) ≠ owner ∨ (owner = none ∧ ¬ bitAt w 62) then 2
  else if n < 2 ∨ 8 < n ∨ 32768 < bitsGet w 0 15 + 2 ^ n then 3
  else 0

/-- EN set by a write that passes R220's checks; otherwise ERR says why it stays 0. -/
def Hub.queueOn (h : Hub) (b e q : Nat) (w : Word) : Hub :=
  let err := h.qcfgError b w
  let h := h.setReg (rQstat b e q) (BitVec.ofNat 64 (err * 2 ^ 48))
  if err ≠ 0 then h.setReg (rQcfgBay b e q) (bitsPut w 63 1 0)
  else
    let h := h.setReg (rQcfgBay b e q) w
    let x := h.queue b e q
    if x.phase = .none then h.setQueue b e q { x with count := (h.peg (bitsGet w 36 12)).value } else h

/-- A write of BAY_QCFG with EN = 1 (R219, R220, R226). While EN is 1 the other fields are ignored, and the write sets a stopped
queue going again. -/
def Hub.qcfgEnable (h : Hub) (b e q : Nat) (a : Access) : Hub :=
  let o := rQcfgBay b e q
  let old := h.reg o
  let w := a.merge (rwMask o) old
  if e = 2 ∨ ¬ bitAt w 63 ∨ ¬ h.bayOn b then h
  else if bitAt old 63 then (if h.bit (rQstat b e q) 63 then h.queueOn b e q old else h)
  else h.queueOn b e q w

/-- BAY_QCFG_ENABLE (R219, R220, R226). -/
def execBayQcfgEnable (b : Fin 64) (e q : Fin 4) (a : Access) (s : State) : Host.Outcome State Fault Refusal :=
  onHub (fun h => h.writeAt (rQcfgBay b.val e.val q.val) a fun h => h.qcfgEnable b.val e.val q.val a) s

/-- The head descriptor ends with a status before its completion is recorded. -/
def Hub.descEnd (h : Hub) (b e q status node : Nat) : Hub :=
  h.setQueue b e q { h.queue b e q with phase := .done, status := status, node := node }

/-- A queue's peg wait given up. -/
def Hub.dropWait (h : Hub) (a : Agent) : Hub :=
  { h with pegs := { h.pegs with waits := h.pegs.waits.filter fun w => !decide (w.agent = a) } }

/-- A queue disabled: a head descriptor that still waits ends with ABORTED (R223). -/
def Hub.queueOff (h : Hub) (b e q : Nat) : Hub :=
  let h := h.setFld (rQcfgBay b e q) 63 1 0
  if (h.queue b e q).phase = .waiting then (h.dropWait (.queue b e q)).descEnd b e q stAborted 0 else h

/-- A write of BAY_QCFG with EN = 0 (R219, R223). -/
def Hub.qcfgDisable (h : Hub) (b e q : Nat) (a : Access) : Hub :=
  let o := rQcfgBay b e q
  let old := h.reg o
  let w := a.merge (rwMask o) old
  if e = 2 ∨ bitAt w 63 ∨ ¬ h.bayOn b then h
  else if bitAt old 63 then h.queueOff b e q
  else h.setReg o w

/-- BAY_QCFG_DISABLE (R219, R223). -/
def execBayQcfgDisable (b : Fin 64) (e q : Fin 4) (a : Access) (s : State) : Host.Outcome State Fault Refusal :=
  onHub (fun h => h.writeAt (rQcfgBay b.val e.val q.val) a fun h => h.qcfgDisable b.val e.val q.val a) s

/-! ### Arrays (R144, R145) -/

/-- Bytes of `n` elements of a format: whole blocks where it is block-scaled (R146). -/
def arrBytes (f n : Nat) : Nat := if fmtBlock f then ceilDiv n 32 * blockBytes f else ceilDiv (n * fmtWidth f) 8

/-- The address part of a bay address advanced by an offset (R217). -/
def adPlus (w : Word) (d : Int) : Word := bitsPut w 0 62 (ofInt 62 ((bitsGet w 0 62 : Nat) + d))

/-- An array's addresses are well formed, and its alignment is R145's: (well formed, aligned). -/
def arrayForm (sys : Bool) (f : Nat) (el sc : Word) (n : Nat) : Bool × Bool :=
  (adOk sys el (arrBytes f n) && (!fmtBlock f || adOk sys sc (ceilDiv n 32)),
   decide (bitsGet el 0 62 % elAlign f = 0) && (!fmtBlock f || decide (bitsGet sc 0 62 % 8 = 0)))

/-- The status of a list of arrays: BAD_DESC before ALIGN, 0 for none. -/
def formStatus (l : List (Bool × Bool)) : Nat :=
  if l.any fun x => !x.1 then stBadDesc else if l.any fun x => !x.2 then nakAlign else stOk

/-! ### The checks of each engine (R224) -/

/-- The arrays of an MMUL, row by row (R228). -/
def mmulForms (sys : Bool) (x : EQueue) : List (Bool × Bool) :=
  let m := x.w 13
  let k := bitsGet m 32 16
  let fi := bitsGet m 20 4
  let fo := bitsGet m 16 4
  let rows (f : Nat) (el sc str : Word) (n : Nat) : List (Bool × Bool) := (List.range 64).map fun i =>
    (adOk sys (adPlus el (i * bitsGet str 32 32 : Nat)) (arrBytes f n) &&
       (!fmtBlock f || adOk sys (adPlus sc (i * bitsGet str 0 32 : Nat)) (ceilDiv n 32)),
     (arrayForm sys f el sc n).2)
  rows fi (x.w 4) (x.w 5) (x.w 10) (32 * k) ++ rows fi (x.w 6) (x.w 7) (x.w 11) (32 * k) ++
    (if bitAt m 4 then rows fo (x.w 8) (x.w 9) (x.w 12) 64 else []) ++
    (if bitAt m 3 then [(adOk sys (x.w 14) 32768, decide (bitsGet (x.w 14) 0 62 % 64 = 0))] else [])

/-- A bay address of a field that the operation does not use: its space and reserved bits still count (R217). -/
def adShape (sys : Bool) (w : Word) : Bool := adOk sys w 0

/-- MMUL's own checks (R228). -/
def mmulCheck (sys : Bool) (x : EQueue) : Nat :=
  let m := x.w 13
  let fi := bitsGet m 20 4
  let fo := bitsGet m 16 4
  let k := bitsGet m 32 16
  let acc := bitsGet m 24 8
  if ¬ (fi ≤ 2) ∨ fmtI fo ∨ ¬ fmtOk fo ∨ k = 0 ∨ 512 < k ∨ acc = 0 ∨ acc = 255 ∨ (bitAt m 5 ∧ bitAt m 3) ∨
     ¬ adShape sys (x.w 8) ∨ (fmtBlock fo ∧ ¬ adShape sys (x.w 9)) ∨ ¬ adShape sys (x.w 14) then stBadDesc
  else formStatus (mmulForms sys x)

/-- Whether a VE operation uses Y, and Z (Table 8.10). -/
def veUsesY (op : Nat) : Bool := decide (2 ≤ op) && decide (op ≤ 7)
def veUsesZ (op : Nat) : Bool := decide (op = 5)
/-- N of a VE descriptor. -/
def veN (x : EQueue) : Nat := bitsGet (x.w 12) 24 40
/-- Elements of D of a VE descriptor. -/
def veOut (x : EQueue) : Nat := if x.opc = 0x0A then 1 else veN x

/-- The operands of a VE descriptor: (format, elements, element word, scale word), inputs in the order X, Y, Z. -/
def veInputs (x : EQueue) : List (Nat × Word × Word) :=
  [(bitsGet (x.w 12) 20 4, x.w 4, x.w 5)] ++ (if veUsesY x.opc then [(bitsGet (x.w 12) 16 4, x.w 6, x.w 7)] else []) ++
    (if veUsesZ x.opc then [(bitsGet (x.w 12) 12 4, x.w 8, x.w 9)] else [])
/-- DF of a VE descriptor. -/
def veDf (x : EQueue) : Nat := bitsGet (x.w 12) 8 4

/-- The address fields of the inputs that a VE operation does not use (R217); an SC word counts where its format is block-scaled
(R231). -/
def veUnused (x : EQueue) : List Word :=
  let of_ (f i : Nat) : List Word := [x.w i] ++ (if fmtBlock f then [x.w (i + 1)] else [])
  (if veUsesY x.opc then [] else of_ (bitsGet (x.w 12) 16 4) 6) ++ (if veUsesZ x.opc then [] else of_ (bitsGet (x.w 12) 12 4) 8)

/-- AFFINE's constants are scaled constants (Table 8.9), of which R197 refuses E = 255. -/
def veConstsOk (x : EQueue) : Bool := decide (x.opc ≠ 8) || (decide (bitsGet (x.w 13) 32 8 ≠ 255) && decide (bitsGet (x.w 14) 32 8 ≠ 255))

/-- The VE's checks (R217, R231). -/
def veCheck (sys : Bool) (x : EQueue) : Nat :=
  if x.opc = 0 ∨ 0x0A < x.opc ∨ veN x = 0 ∨ ¬ fmtOk (veDf x) ∨ (veInputs x).any (fun o => !fmtOk o.1) ∨
     (veUnused x).any (fun w => !adShape sys w) ∨ ¬ veConstsOk x then stBadDesc
  else formStatus (((veInputs x).map fun o => arrayForm sys o.1 o.2.1 o.2.2 (veN x))
    ++ [arrayForm sys (veDf x) (x.w 10) (x.w 11) (veOut x)])

/-- The rows of a TSTREAM tile: (source, destination) addresses of RB bytes each (R235). -/
def streamRows (x : EQueue) (t : Nat) : List (Word × Word) :=
  let nx := bitsGet (x.w 8) 32 32
  let cx : Int := (t % nx : Nat)
  let cy : Int := (t / nx : Nat)
  let s (i : Nat) : Int := signed 64 (x.w i).toNat
  (List.range (bitsGet (x.w 6) 48 16 + 1)).map fun r =>
    (adPlus (x.w 4) (cx * s 9 + cy * s 10 + (r * bitsGet (x.w 7) 32 32 : Nat)),
     adPlus (x.w 5) (cx * s 11 + cy * s 12 + (r * bitsGet (x.w 7) 0 32 : Nat)))

/-- RB, the bytes of a row. -/
def streamRb (x : EQueue) : Nat := bitsGet (x.w 6) 0 17
/-- NT, the tiles of a TSTREAM. -/
def streamNt (x : EQueue) : Nat := bitsGet (x.w 8) 0 32

/-- The DE's checks (R217, R233, R235). -/
def deCheck (sys : Bool) (x : EQueue) : Nat :=
  let len := bitsGet (x.w 6) 0 40
  if x.opc = 1 then
    (if len = 0 ∨ ¬ adOk sys (x.w 4) len ∨ ¬ adOk sys (x.w 5) len then stBadDesc else stOk)
  else if x.opc = 2 then (if len = 0 ∨ ¬ adOk sys (x.w 5) len then stBadDesc else stOk)
  else if x.opc = 3 then
    (if streamRb x = 0 ∨ bitsGet (x.w 8) 32 32 = 0 ∨ 65536 < (bitsGet (x.w 6) 48 16 + 1) * streamRb x ∨ ¬ adShape sys (x.w 4) ∨
        ¬ adShape sys (x.w 5) then stBadDesc
     else if (List.range (streamNt x)).all (fun t => (streamRows x t).all fun r =>
        adOk sys r.1 (streamRb x) && adOk sys r.2 (streamRb x)) then stOk
     else stBadDesc)
  else if x.opc = 8 ∨ x.opc = 9 then (if adOk sys (x.w 4) 64 then stOk else stBadDesc)
  else stBadDesc

/-- Step 1 of R225: what the checks of a descriptor give, 0 where they pass. -/
def Hub.descCheck (h : Hub) (b e q : Nat) (x : EQueue) : Nat :=
  let sys := h.bit (rQcfgBay b e q) 62
  let owner := if sys then none else h.bayPart b
  let w := x.w 0
  let cm := bitsGet w 28 2
  if (bitAt w 55 ∧ h.pegPart (bitsGet w 43 12) ≠ owner) ∨ (bitAt w 42 ∧ h.pegPart (bitsGet w 30 12) ≠ owner) ∨ cm = 3 ∨
     ¬ adOk sys (x.w 3) (if cm = 0 then 0 else 32) then stBadDesc
  else if cm ≠ 0 ∧ bitsGet (x.w 3) 0 62 % 32 ≠ 0 then nakAlign
  else if e = 0 then (if x.opc = 1 then mmulCheck sys x else stBadDesc)
  else if e = 1 then veCheck sys x
  else deCheck sys x

/-! ### Starting (R221, R225) -/

/-- Step 2 of R225: the wait of a checked descriptor. -/
def Hub.descWait (h : Hub) (b e q : Nat) (x : EQueue) : Hub :=
  let w := x.w 0
  let a : Agent := .queue b e q
  if !bitAt w 55 then h.setQueue b e q { x with phase := .running }
  else if reached (h.peg (bitsGet w 43 12)).value (x.w 1) then (h.acquire a).setQueue b e q { x with phase := .running }
  else
    let d := (waitNs (bitsGet (x.w 2) 0 32)).map (h.now + ·)
    let pw : PegWait := { agent := a, peg := bitsGet w 43 12, thresh := x.w 1, deadline := d }
    ({ h with pegs := { h.pegs with waits := h.pegs.waits ++ [pw] } } : Hub).setQueue b e q { x with phase := .waiting }

/-- A queue stopped with an error (Table 8.4). -/
def Hub.queueStop (h : Hub) (b e q err : Nat) : Hub :=
  (h.setFld (rQstat b e q) 63 1 1).setFld (rQstat b e q) 48 8 err

/-- DESCRIPTOR_START (R221, R225): the slot of the consumer count is read and checked, and its wait begins. -/
def execDescriptorStart (b : Fin 64) (e q : Fin 4) (s : State) : Host.Outcome State Fault Refusal :=
  onHub (fun h =>
    let cfg := rQcfgBay b.val e.val q.val
    let x := h.queue b.val e.val q.val
    let n := 2 ^ h.fld cfg 20 4
    let prod := (h.peg (h.fld cfg 24 12)).value
    let ahead := (prod - x.count).toNat
    if e.val = 2 ∨ ¬ (h.alive && h.bayOn b.val && h.bit cfg 63) ∨ h.bit (rQstat b.val e.val q.val) 63 ∨ x.phase ≠ .none then h
    else if n < ahead ∧ ahead < 2 ^ 63 then
      (h.queueStop b.val e.val q.val 1).report (fltBay b.val) .contained 6
    else if reached prod (x.count + 1) then
      let h := h.acquire (.queue b.val e.val q.val)
      let x : EQueue := { count := x.count }
      match h.memRead (loftOff b.val ((h.fld cfg 0 15 + x.count.toNat % n) * 128)) 128 with
      | (none, h) => h.setQueue b.val e.val q.val { x with phase := .done, status := nakMem, node := h.self.toNat }
      | (some bs, h) =>
        let x := { x with desc := bs }
        let st := h.descCheck b.val e.val q.val x
        if st ≠ 0 then h.setQueue b.val e.val q.val { x with phase := .done, status := st } else h.descWait b.val e.val q.val x
    else h) s

/-- DESC_WAIT_TIMEOUT (R87, R225). -/
def execDescWaitTimeout (b : Fin 64) (e q : Fin 4) (s : State) : Host.Outcome State Fault Refusal :=
  onHub (fun h =>
    let a : Agent := .queue b.val e.val q.val
    match h.pegs.waits.find? fun w => decide (w.agent = a) with
    | none => h
    | some w =>
      match w.deadline with
      | some t =>
        if t ≤ h.now ∧ (h.queue b.val e.val q.val).phase = .waiting then
          (h.dropWait a).descEnd b.val e.val q.val stPegTimeout 0
        else h
      | none => h) s

/-! ### The operation ends (R225, step 3) -/

/-- The results of an operation: why it failed if it did, DONE and the taint count. -/
structure OpResult where
  bad   : Option Bad := none
  done  : Nat := 0
  taint : Nat := 0
  deriving DecidableEq, Repr

/-- The operation of a head descriptor has ended: its results kept, what it gathered dropped, and its fence begun if any of its writes
may still fail. The first failure is the one that is reported. -/
def Hub.opEnd (h : Hub) (b e q : Nat) (r : OpResult) : Hub :=
  let h := h.endWork (.queue b e q)
  let x := h.queue b e q
  let x := { x with done := r.done, taint := min (x.taint + r.taint) (2 ^ 32 - 1) }
  let x := match r.bad with
    | none => x
    | some k => if x.status ≠ 0 then x else { x with status := k.status, node := k.node, faddr := BitVec.ofNat 64 k.va }
  if h.mustFence (.queue b e q) then
    (h.setQueue b e q { x with phase := .fencing }).fenceStart (.queue b e q) none .descriptor
  else h.setQueue b e q { x with phase := .done }

/-- A tile of a head descriptor is done: what it gathered is dropped, and its progress kept. -/
def Hub.tileEnd (h : Hub) (b e q done taint : Nat) : Hub :=
  let h := h.endWork (.queue b e q)
  let x := h.queue b e q
  h.setQueue b e q { x with tile := x.tile + 1, done := done, taint := min (x.taint + taint) (2 ^ 32 - 1) }

/-- A head descriptor is between its start and its end (R222). -/
def EQueue.busy (x : EQueue) : Bool :=
  decide (x.phase = .fencing) || decide (x.phase = .done) || decide (x.phase = .recording) || (decide (x.phase = .running) && x.ran)

/-- The queue that an ME or VE between descriptors takes next: the first ready one, in round-robin order, after the one that it served
last (R222). -/
def Hub.nextTurn (h : Hub) (b e : Nat) : Option Nat :=
  ((List.range 4).map fun i => (tget 3 h.bays.turns (4 * b + e) + 1 + i) % 4).find? fun q =>
    decide ((h.queue b e q).phase = .running) && !(h.queue b e q).ran

/-- A head descriptor may run on its engine (R222): the DE runs one of each queue at once, the ME and the VE one at a time. -/
def Hub.hasTurn (h : Hub) (b e q : Nat) : Bool :=
  decide (e = 3) || (h.queue b e q).ran ||
    (!((List.range 4).any fun i => (h.queue b e i).busy) && decide (h.nextTurn b e = some q))

/-- Run the head descriptor of a queue where it is descriptor `n` (R220), of an operation and ready to run: its engine takes it, or goes on with it once the
tags and answers that it waited for are there (R72, R225). -/
def Hub.engineRun (h : Hub) (b e q op : Nat) (n : Word) (act : EQueue → Hub → Hub) : Hub :=
  let x := h.queue b e q
  if h.alive && h.bayOn b && decide (x.phase = .running) && decide (x.count = n) && decide (x.opc = op) && h.hasTurn b e q && !h.waitsTag (.queue b e q) then
    let x := { x with ran := true }
    let h := h.setQueue b e q x
    act x (if e = 3 then h else { h with bays := { h.bays with turns := tset 3 h.bays.turns (4 * b + e) q } })
  else h

/-! ### Completion (R225, steps 4 and 5; R226) -/

/-- DONE (Table 8.6): what was performed before the failure; on OK the full count. -/
def EQueue.doneOf (x : EQueue) : Nat := if x.status = 0 then x.done else min x.done (x.okTo.getD x.done)

/-- NODE (Table 8.6): the node concerned, for NAK codes and FENCE_LOST; otherwise 0. -/
def EQueue.nodeOf (x : EQueue) : Nat := if (1 ≤ x.status ∧ x.status ≤ 0x10) ∨ x.status = stFenceLost then x.node else 0

/-- The 32-byte completion record (Table 8.6), or the record that a collective operation leaves (R237). -/
def EQueue.record (x : EQueue) : List Byte :=
  if x.extra ≠ [] then fit 32 (wordsBytes x.extra)
  else wordsBytes [BitVec.ofNat 64 (x.status % 256 + x.nodeOf % 1024 * 2 ^ 8 + x.taint % 2 ^ 32 * 2 ^ 32), BitVec.ofNat 64 x.doneOf,
                   x.faddr, x.count]

/-- The descriptor retires: the pegs of a good one advance, the queue of a bad one stops. -/
def Hub.descRetire (h : Hub) (b e q : Nat) : Hub :=
  let h := h.endWork (.queue b e q)
  let x := h.queue b e q
  if x.status = 0 then
    let w := x.w 0
    let h := h.setQueue b e q { count := x.count + 1 }
    let h := if bitAt w 42 then h.advancePeg (bitsGet w 30 12) 1 else h
    h.advancePeg (h.fld (rQcfgBay b e q) 36 12) 1
  else (h.setQueue b e q { count := x.count }).queueStop b e q 4

/-- An agent has nothing in flight. -/
def Hub.quiet (h : Hub) (a : Agent) : Bool :=
  !(h.sill.out.any fun o => decide (o.agent = a)) && !(h.sill.backlog.any fun o => decide (o.1 = a))

/-! ### BAY_MODE (R241) -/

/-- A write of BAY_MODE (R241): ignored while the hub is READY. -/
def Hub.bayModeWrite (h : Hub) (b : Nat) (a : Access) : Hub :=
  if h.ready || !h.bayOn b then h
  else
    let w := a.merge (rwMask (rBayMode b)) (h.reg (rBayMode b))
    h.setReg (rBayMode b) (bitsPut w 1 1 (bitsGet w 0 1))

/-- BAY_MODE_WRITE (R241). -/
def execBayModeWrite (b : Fin 64) (a : Access) (s : State) : Host.Outcome State Fault Refusal :=
  onHub (fun h => h.writeAt (rBayMode b.val) a fun h => h.bayModeWrite b.val a) s

end Sys2Proof.Machine
end

