-- ==== Sys2Proof/Machine/EngineRun.lean ====
section
/-! DEFINITION. What the operations of the ME, VE and DE do (R226, R228 to R238, R291), and prefetching (R290). -/
namespace Sys2Proof.Machine

/-! ### The matrix engine (R228 to R230) -/

/-- The rounding unit of an ME: R150 gives it no generator, so a stochastic rounding draws free values (log entry 16). -/
def Hub.meRnd (h : Hub) (rmode : Nat) : Rnd := { gen := h.drawn, stoch := decide (rmode = 1) }

/-- The blocks of a row of an operand: scale and integers. -/
def rowBlocks (f : Nat) (el sc : List Byte) : Nat → Nat → Rnd → List (Nat × List Int) × Rnd
  | 0, _, r => ([], r)
  | n + 1, i, r =>
    let (e, qs, r) := readBlock f (sc.getD i 0).toNat 32 (slice el (i * blockBytes f) (blockBytes f)) r
    let (l, r) := rowBlocks f el sc n (i + 1) r
    ((e, qs) :: l, r)

/-- The rows of an operand, each from its elements and scales. -/
def operandRows (f k : Nat) : List (List Byte × List Byte) → Rnd → List (List (Nat × List Int)) × Rnd
  | [], r => ([], r)
  | x :: xs, r =>
    let (a, r) := rowBlocks f x.1 x.2 k 0 r
    let (l, r) := operandRows f k xs r
    (a :: l, r)

/-- One K-block of one element (R229). -/
def mmulTerm (acce : Nat) (a b : Nat × List Int) (acc : Int) (r : Rnd) : Int × Rnd :=
  if a.1 = 0 ∨ b.1 = 0 then (acc, r)
  else
    let p := ((a.2.zip b.2).map fun x => x.1 * x.2).sum
    let k : Int := (a.1 + b.1 : Nat) - (127 + acce : Nat)
    let (t, r) := if 0 ≤ k then satTaint (p * (2 ^ k.toNat : Nat)) a48Lo a48Hi r else rshiftRound p (-k).toNat r
    a48Add acc t r

/-- The K-blocks of one element in order (R229). -/
def mmulElem (acce : Nat) : List (Nat × List Int) → List (Nat × List Int) → Int → Rnd → Int × Rnd
  | a :: as, b :: bs, acc, r => let (v, r) := mmulTerm acce a b acc r; mmulElem acce as bs v r
  | _, _, acc, r => (acc, r)

/-- The elements of a row of the set. -/
def mmulRow (acce : Nat) (a : List (Nat × List Int)) : List (List (Nat × List Int)) → List Int → Rnd → List Int × Rnd
  | b :: bs, v :: vs, r =>
    let (x, r) := mmulElem acce a b v r
    let (l, r) := mmulRow acce a bs vs r
    (x :: l, r)
  | _, _, r => ([], r)

/-- The rows of the set. -/
def mmulRows (acce : Nat) (bs : List (List (Nat × List Int))) : List (List (Nat × List Int)) → List (List Int) → Rnd →
    List (List Int) × Rnd
  | a :: as, v :: vs, r =>
    let (x, r) := mmulRow acce a bs v r
    let (l, r) := mmulRows acce bs as vs r
    (x :: l, r)
  | _, _, r => ([], r)

/-- A row stored: its element bytes and its scale bytes (R230). -/
def storeRow (f acce : Nat) (v : List Int) (r : Rnd) : (List Byte × List Byte) × Rnd :=
  let (e0, b0, r) := writeSums f acce 32 (v.take 32) r
  let (e1, b1, r) := writeSums f acce 32 (v.drop 32) r
  ((b0 ++ b1, [BitVec.ofNat 8 e0, BitVec.ofNat 8 e1]), r)

/-- The rows stored in order. -/
def storeRows (f acce : Nat) : List (List Int) → Rnd → List (List Byte × List Byte) × Rnd
  | [], r => ([], r)
  | v :: vs, r =>
    let (x, r) := storeRow f acce v r
    let (l, r) := storeRows f acce vs r
    (x :: l, r)

/-- The values of an accumulator set, row by row. -/
def Hub.accRows (h : Hub) (b set : Nat) : List (List Int) :=
  (List.range 64).map fun i => tgetRun 0 h.bays.accs (8192 * b + 4096 * set + 64 * i) 64

/-- The hub with an accumulator set written. -/
def Hub.setAccs (h : Hub) (b set : Nat) (rows : List (List Int)) : Hub :=
  { h with bays := { h.bays with accs := tsetRun 0 h.bays.accs (8192 * b + 4096 * set) rows.flatten } }

/-- The ranges of an operand's 64 rows: elements and scales in turn. -/
def rowRanges (f k : Nat) (el sc str : Word) (need side : Nat) : List (Word × Nat × Nat × Nat) :=
  (List.range 64).flatMap fun i =>
    [(adPlus el (i * bitsGet str 32 32 : Nat), arrBytes f (32 * k), need, side)] ++
      (if fmtBlock f then [(adPlus sc (i * bitsGet str 0 32 : Nat), k, need, side)] else [])

/-- A list taken two by two. -/
def pairs {α : Type} (d : α) : List α → List (α × α)
  | a :: b :: r => (a, b) :: pairs d r
  | [a] => [(a, d)]
  | [] => []

/-- The accumulator set that an MMUL starts from (R228, R230). -/
def mmulStart (x : EQueue) (old : List (List Int)) (loaded : List Byte) (r : Rnd) : List (List Int) × Rnd :=
  let m := x.w 13
  if bitAt m 5 then (List.replicate 64 (List.replicate 64 0), r)
  else if bitAt m 3 then
    let (l, r) := readElems fA48 (unpackN 64 (leNat loaded) 4096) r
    (chunksOf 64 64 l, r)
  else (old, r)

/-- The ranges of an MMUL: of A, of B, of the set to load, and of the output row by row (R228). -/
def mmulIns (x : EQueue) : List (Word × Nat × Nat × Nat) :=
  let fi := bitsGet (x.w 13) 20 4
  let k := bitsGet (x.w 13) 32 16
  rowRanges fi k (x.w 4) (x.w 5) (x.w 10) needR 0 ++ rowRanges fi k (x.w 6) (x.w 7) (x.w 11) needR 0 ++
    (if bitAt (x.w 13) 3 then [(x.w 14, 32768, needR, 0)] else [])

/-- The ranges that an MMUL stores to. -/
def mmulOuts (x : EQueue) : List (Word × Nat × Nat × Nat) :=
  if bitAt (x.w 13) 4 then rowRanges (bitsGet (x.w 13) 16 4) 2 (x.w 8) (x.w 9) (x.w 12) needW 1 else []

/-- The set and the stored rows of an MMUL from its operands' bytes (R229, R230). -/
def mmulCompute (x : EQueue) (old : List (List Int)) (ds : List (List Byte)) (r : Rnd) :
    List (List Int) × List (List Byte × List Byte) × Rnd :=
  let fi := bitsGet (x.w 13) 20 4
  let k := bitsGet (x.w 13) 32 16
  let acce := bitsGet (x.w 13) 24 8
  let (as, r) := operandRows fi k (pairs [] (ds.take 128)) r
  let (bs, r) := operandRows fi k (pairs [] ((ds.drop 128).take 128)) r
  let (v, r) := mmulStart x old (ds.getD 256 []) r
  let (v, r) := mmulRows acce bs as v r
  let (rows, r) := if bitAt (x.w 13) 4 then storeRows (bitsGet (x.w 13) 16 4) acce v r else ([], r)
  (v, rows, r)

/-- The rows of an MMUL written in order: the failure that ended it, if one did, and the rows stored. -/
def Hub.mmulWrite (h : Hub) (c : Who) (blk : Bool) : List (List Piece) → List (List Byte × List Byte) → Nat → Wrote × Hub
  | ps, row :: rows, n =>
    let k := if blk then 2 else 1
    match h.writeAll c {} ((ps.take k).zip [row.1, row.2]) 0 with
    | ((some e, _), h) => ((some e, n), h)
    | ((none, _), h) => h.mmulWrite c blk (ps.drop k) rows (n + 1)
  | _, [], n => ((none, n), h)

/-- An MMUL whose operands are in (R229, R230): the set computed, and its rows stored. -/
def Hub.mmulEnd (h : Hub) (b q : Nat) (x : EQueue) (outs : List (List Piece)) (ds : List (List Byte)) : Hub :=
  let set := bitsGet (x.w 13) 2 1
  let r := h.meRnd (bitsGet (x.w 0) 26 2)
  let h := if r.stoch then h.redraw else h
  let (v, rows, r) := mmulCompute x (h.accRows b set) ds r
  match (h.setAccs b set v).mmulWrite (h.queueWho b 0 q) (fmtBlock (bitsGet (x.w 13) 16 4)) outs rows 0 with
  | ((bad, n), h) => h.opEnd b 0 q { bad := bad, done := n, taint := r.taint }

/-- MMUL (R228 to R230, R291): every page of every array is translated and every operand read before the set changes. -/
def Hub.mmul (h : Hub) (b q : Nat) (x : EQueue) : Hub :=
  let c := h.queueWho b 0 q
  let ins := mmulIns x
  match h.mapTile c false (ins ++ mmulOuts x) with
  | (.wait, h) => h
  | (.bad e, h) => h.opEnd b 0 q { bad := some e }
  | (.ok ps, h) =>
    let tagged := ((ps.take ins.length).zipIdx).map fun p =>
      ((if p.2 < 128 then bitAt (x.w 13) 7 else if p.2 < 256 then bitAt (x.w 13) 6 else false), p.1)
    match h.gather c tagged with
    | (.wait, h) => h
    | (.bad e, h) => h.opEnd b 0 q { bad := some e }
    | (.ok ds, h) => h.mmulEnd b q x (ps.drop ins.length) ds

/-- ME_MMUL (R228). -/
def execMeMmul (b : Fin 64) (q : Fin 4) (n : Word) (s : State) : Host.Outcome State Fault Refusal :=
  onHub (fun h => h.engineRun b.val 0 q.val 1 n fun x h => h.mmul b.val q.val x) s

/-! ### The vector engine (R231, R232) -/

/-- A block of an operand as exact values, and whether it is a zero block (R232): H16 and B16 are first converted to K32. -/
def veBlock (f e n : Nat) (bytes : List Byte) (r : Rnd) : Bool × List Dy × Rnd :=
  if fmtFloat f then
    let pats := (unpackN 16 (leNat (fit (blockBytes f) bytes)) 32).take n
    let (e, qs, r) := toBlock f 32 (pats ++ List.replicate (32 - pats.length) 0) r
    (decide (e = 0), (fill32 qs).map fun v => Dy.ofScaled v e, r)
  else
    let (e, qs, r) := readBlock f e n bytes r
    (decide (e = 0), qs.map fun v => Dy.ofScaled v e, r)

/-- Two addends combined at the larger of their scales. -/
def vePair (f : Int → Int → Int) (a b : Dy) (za zb : Bool) (r : Rnd) : Dy × Rnd :=
  let (x, y, u, r) := alignPair a b za zb r
  ({ m := f x y, e := u }, r)

/-- One element of a VE operation (Table 8.10); none where RSQ meets a value of zero or less. -/
def veElem (op : Nat) (c0 c1 : Word) (x y z : Bool × Dy) (r : Rnd) : Option Dy × Rnd :=
  let put (p : Dy × Rnd) : Option Dy × Rnd := (some p.1, p.2)
  if op = 1 then (some x.2, r)
  else if op = 2 then put (vePair (· + ·) x.2 y.2 x.1 y.1 r)
  else if op = 3 then put (vePair (· - ·) x.2 y.2 x.1 y.1 r)
  else if op = 4 then (some (x.2.mul y.2), r)
  else if op = 5 then put (vePair (· + ·) (x.2.mul y.2) z.2 (x.1 || y.1) z.1 r)
  else if op = 6 then put (vePair max x.2 y.2 x.1 y.1 r)
  else if op = 7 then put (vePair min x.2 y.2 x.1 y.1 r)
  else if op = 8 then
    put (vePair (· + ·) ((Dy.ofConst c0).mul x.2) (Dy.ofConst c1) (x.1 || decide (bitsGet c0 32 8 = 0)) (decide (bitsGet c1 32 8 = 0)) r)
  else if x.2.m ≤ 0 then (none, r.blot 1)
  else (some x.2.rsq, r)

/-- The elements of a block. -/
def veElems (op : Nat) (c0 c1 : Word) (zx zy zz : Bool) : List Dy → List Dy → List Dy → Rnd → List (Option Dy) × Rnd
  | [], _, _, r => ([], r)
  | x :: xs, ys, zs, r =>
    let zero : Dy := { m := 0, e := 0 }
    let (v, r) := veElem op c0 c1 (zx, x) (zy, ys.headD zero) (zz, zs.headD zero) r
    let (l, r) := veElems op c0 c1 zx zy zz xs (ys.drop 1) (zs.drop 1) r
    (v :: l, r)

/-- The greatest float pattern (Table 5.4). -/
def floatMax (f : Nat) : Nat := if f = fH16 then 0x7BFF else 0x7F7F

/-- Values rounded in order for an I format, those that are none replaced by the limit. -/
def roundLim (lo hi u : Int) : List (Option Dy) → Rnd → List Int × Rnd
  | [], r => ([], r)
  | none :: vs, r => let (qs, r) := roundLim lo hi u vs r; (hi :: qs, r)
  | some v :: vs, r =>
    let (q, r) := v.round u r
    let (q, r) := satTaint q lo hi r
    let (qs, r) := roundLim lo hi u vs r
    (q :: qs, r)

/-- Values of a block within its limit, those that are none replaced by it. -/
def blockLim (qmax : Nat) (u : Int) : List (Option Dy) → Rnd → List Int × Rnd
  | [], r => ([], r)
  | none :: vs, r => let (qs, r) := blockLim qmax u vs r; ((qmax : Int) :: qs, r)
  | some v :: vs, r =>
    let (q, r) := v.limit qmax u r
    let (qs, r) := blockLim qmax u vs r
    (q :: qs, r)

/-- Float patterns in order, those of none the limit. -/
def floatLim (f : Nat) : List (Option Dy) → Rnd → List Nat × Rnd
  | [], r => ([], r)
  | none :: vs, r => let (l, r) := floatLim f vs r; (floatMax f :: l, r)
  | some v :: vs, r => let (c, r) := toFloat f v.m v.e r; let (l, r) := floatLim f vs r; (c :: l, r)

/-- An output block (R232). Where RSQ gives the format's upper limit, the other elements choose the block's scale, 127 if there
are none but zeros (log entry 17). -/
def veOutBlock (f : Nat) (vs : List (Option Dy)) (r : Rnd) : Nat × List Byte × Rnd :=
  if vs.all Option.isSome then writeDys f (vs.filterMap id) r
  else if fmtBlock f then
    let fin := vs.filterMap id
    let qmax := (fmtMax f).toNat
    let e := if fin.all fun v => decide (v.m = 0) then 127 else blockScale qmax fin 253 1
    let (qs, r) := blockLim qmax ((e : Int) - 127) vs r
    (e, packBlock f qs, r)
  else if fmtFloat f then let (cs, r) := floatLim f vs r; (0, packBlock f (cs.map (Int.ofNat ·)), r)
  else let (qs, r) := roundLim (fmtMin f) (fmtMax f) 0 vs r; (0, packBlock f qs, r)

/-- Block `i` of an operand of a tile that starts at block `i0`. -/
def tileBlock (o : Nat × List Byte × List Byte) (n i : Nat) (r : Rnd) : Bool × List Dy × Rnd :=
  veBlock o.1 (if fmtBlock o.1 then (o.2.2.getD i 0).toNat else 127) n (slice o.2.1 (i * blockBytes o.1) (blockBytes o.1)) r

/-- The blocks of a tile: `n` elements are left from block `i` on. -/
def veTile (x : EQueue) (ops : List (Nat × List Byte × List Byte)) : Nat → Nat → Nat → Rnd → List (Nat × List Byte) × Rnd
  | 0, _, _, r => ([], r)
  | k + 1, i, n, r =>
    let m := min 32 n
    let none_ : Nat × List Byte × List Byte := (fK8, [], [])
    let (zx, xs, r) := tileBlock (ops.getD 0 none_) m i r
    let (zy, ys, r) : Bool × List Dy × Rnd := if veUsesY x.opc then tileBlock (ops.getD 1 none_) m i r else (true, [], r)
    let (zz, zs, r) : Bool × List Dy × Rnd := if veUsesZ x.opc then tileBlock (ops.getD 2 none_) m i r else (true, [], r)
    let (vs, r) := veElems x.opc (x.w 13) (x.w 14) zx zy zz (xs.take m) ys zs r
    let (e, bs, r) := veOutBlock (veDf x) vs r
    let (l, r) := veTile x ops k (i + 1) (n - m) r
    ((e, bs) :: l, r)

/-- The ranges of blocks `i0` on of an array, for `n` elements. -/
def blockRanges (f : Nat) (el sc : Word) (i0 n need side : Nat) : List (Word × Nat × Nat × Nat) :=
  [(adPlus el (i0 * blockBytes f : Nat), arrBytes f n, need, side)] ++
    (if fmtBlock f then [(adPlus sc (i0 : Nat), ceilDiv n 32, need, side)] else [])

/-- Operands of a tile from the bytes read, in order. -/
def takeOperands : List Nat → List (List Byte) → List (Nat × List Byte × List Byte)
  | [], _ => []
  | f :: fs, ds =>
    if fmtBlock f then (f, ds.getD 0 [], ds.getD 1 []) :: takeOperands fs (ds.drop 2)
    else (f, ds.getD 0 [], []) :: takeOperands fs (ds.drop 1)

/-- Where tile `t` of D ends, in bytes from its start: at the next 64 KiB boundary of D's address, or at the end of D (R291). -/
def veEnd (x : EQueue) (t : Nat) : Nat :=
  min (arrBytes (veDf x) (veN x)) (65536 * (t + 1) - bitsGet (x.w 10) 0 62 % 65536)
/-- Where tile `t` of D starts. -/
def veStart (x : EQueue) (t : Nat) : Nat := if t = 0 then 0 else veEnd x (t - 1)
/-- The elements of an array that lie before a byte of it. -/
def elemsAt (f bytes : Nat) : Nat := if fmtBlock f then bytes * 32 / blockBytes f else 8 * bytes / fmtWidth f
/-- Where an element of an array lies, in bytes from its start. -/
def elemByte (f i : Nat) : Nat := if fmtBlock f then i * blockBytes f / 32 else i * fmtWidth f / 8
/-- The elements of D that lie before a byte of it. -/
def veElemsAt (x : EQueue) (bytes : Nat) : Nat := min (veN x) (elemsAt (veDf x) bytes)

/-- The blocks of a tile: those whose first element lies in it, as the number of the first and how many elements they hold. A block whose
later elements lie in the next tile is computed here, with its scale (DEDUCED, log entry 27). -/
def veBlocksOf (x : EQueue) (t : Nat) : Nat × Nat :=
  let i0 := ceilDiv (veElemsAt x (veStart x t)) 32
  let i1 := ceilDiv (veElemsAt x (veEnd x t)) 32
  (i0, min (veN x) (32 * i1) - 32 * i0)

/-- The ranges that a tile reads. -/
def veTileIns (x : EQueue) (t : Nat) : List (Word × Nat × Nat × Nat) :=
  let (i0, n) := veBlocksOf x t
  (veInputs x).flatMap fun o => blockRanges o.1 o.2.1 o.2.2 i0 n needR 0

/-- The ranges of D that a tile writes: its stretch of elements, and the scales of its blocks. -/
def veTileOuts (x : EQueue) (t : Nat) : List (Word × Nat × Nat × Nat) :=
  let (i0, n) := veBlocksOf x t
  let f := veDf x
  [(adPlus (x.w 10) (veStart x t : Nat), veEnd x t - veStart x t, needW, 1)] ++
    (if fmtBlock f then [(adPlus (x.w 11) (i0 : Nat), ceilDiv n 32, needW, 1)] else [])

/-- A tile whose operands are in: its blocks computed, and its stretch of D and its scales written. Of a write that fails, how many
elements of the tile were performed is a free value (log entry 26). -/
def Hub.veTileEnd (h : Hub) (b q : Nat) (x : EQueue) (outs : List (List Piece)) (ds : List (List Byte)) : Hub :=
  let (_, n) := veBlocksOf x x.tile
  let (l, r) := veTile x (takeOperands ((veInputs x).map (·.1)) ds) (ceilDiv n 32) 0 n (h.rnd (17 + b) (bitsGet (x.w 0) 26 2))
  let h := h.saveRnd (17 + b) r
  let len := veEnd x x.tile - veStart x x.tile
  let bytes := x.carry ++ (l.map (·.2)).flatten
  let upTo := veElemsAt x (veEnd x x.tile)
  match h.writeAll (h.queueWho b 1 q) {} (outs.zip [fit len bytes, l.map fun y => BitVec.ofNat 8 y.1]) 0 with
  | ((some e, _), h) =>
    (h.setQueue b 1 q { h.queue b 1 q with wrote := outs.flatten.map fun p => (p.fa, p.len) }).redraw.opEnd b 1 q
      { bad := some e, done := x.done + h.drawn.toNat % (upTo - x.done + 1), taint := r.taint }
  | ((none, _), h) => (h.setQueue b 1 q { h.queue b 1 q with carry := bytes.drop len }).tileEnd b 1 q upTo r.taint

/-- The tiles of a VE descriptor in order, from the one that it is at (R291). -/
def Hub.veTiles (h : Hub) (b q : Nat) : Nat → Hub
  | 0 => h
  | fuel + 1 =>
    let x := h.queue b 1 q
    let c := h.queueWho b 1 q
    if arrBytes (veDf x) (veN x) ≤ veStart x x.tile then h.opEnd b 1 q { done := veN x }
    else
      let ins := veTileIns x x.tile
      match h.mapTile c false (ins ++ veTileOuts x x.tile) with
      | (.wait, h) => h
      | (.bad e, h) => h.opEnd b 1 q { bad := some e, done := x.done }
      | (.ok ps, h) =>
        match h.gather c ((ps.take ins.length).map fun p => (bitAt (x.w 12) 7, p)) with
        | (.wait, h) => h
        | (.bad e, h) => h.opEnd b 1 q { bad := some e, done := x.done }
        | (.ok ds, h) =>
          let h := h.veTileEnd b q x (ps.drop ins.length) ds
          if (h.queue b 1 q).phase = .running ∧ ¬ h.waitsTag c.agent then h.veTiles b q fuel else h

/-- A VE operation other than SUMRED. -/
def Hub.veRun (h : Hub) (b q : Nat) (x : EQueue) : Hub := h.veTiles b q (arrBytes (veDf x) (veN x) / 65536 + 3)

/-- The blocks of SUMRED's input: which are zero, and their values. -/
def sumBlocksOf (o : Nat × List Byte × List Byte) : Nat → Nat → Nat → Rnd → List (Bool × List Dy) × Rnd
  | 0, _, _, r => ([], r)
  | k + 1, i, n, r =>
    let (z, xs, r) := tileBlock o (min 32 n) i r
    let (l, r) := sumBlocksOf o k (i + 1) (n - min 32 n) r
    ((z, xs.take (min 32 n)) :: l, r)

/-- The exact sum of values brought to one scale. -/
def sumAt (u : Int) : List Dy → Int → Rnd → Int × Rnd
  | [], acc, r => (acc, r)
  | v :: vs, acc, r => let (q, r) := v.round u r; sumAt u vs (acc + q) r

/-- SUMRED's one element from its input's bytes (Table 8.10, R232): every addend at the largest scale among them. -/
def sumredOf (x : EQueue) (ds : List (List Byte)) (r : Rnd) : Nat × List Byte × Rnd :=
  let o := (takeOperands ((veInputs x).map (·.1)) ds).headD (fK8, [], [])
  let (bl, r) := sumBlocksOf o (ceilDiv (veN x) 32) 0 (veN x) r
  let live := (bl.filter fun y => !y.1).flatMap (·.2)
  let u := (live.map (·.e)).foldl max ((live.map (·.e)).headD 0)
  let (v, r) := sumAt u live 0 r
  writeDys (veDf x) [{ m := v, e := u }] r

/-- SUMRED (Table 8.10): its one tile. -/
def Hub.veSum (h : Hub) (b q : Nat) (x : EQueue) : Hub :=
  let c := h.queueWho b 1 q
  let f := veDf x
  let ins := (veInputs x).flatMap fun o => blockRanges o.1 o.2.1 o.2.2 0 (veN x) needR 0
  match h.mapTile c false (ins ++ blockRanges f (x.w 10) (x.w 11) 0 1 needW 1) with
  | (.wait, h) => h
  | (.bad e, h) => h.opEnd b 1 q { bad := some e }
  | (.ok ps, h) =>
    match h.gather c ((ps.take ins.length).map fun p => (bitAt (x.w 12) 7, p)) with
    | (.wait, h) => h
    | (.bad e, h) => h.opEnd b 1 q { bad := some e }
    | (.ok ds, h) =>
      let (e, bs, r) := sumredOf x ds (h.rnd (17 + b) (bitsGet (x.w 0) 26 2))
      match (h.saveRnd (17 + b) r).writeAll c {} ((ps.drop ins.length).zip [fit (arrBytes f 1) bs, [BitVec.ofNat 8 e]]) 0 with
      | ((bad, _), h) => h.opEnd b 1 q { bad := bad, done := if bad.isSome then 0 else 1, taint := r.taint }

/-- VE_COPY (Table 8.10). -/
def execVeCopy (b : Fin 64) (q : Fin 4) (n : Word) (s : State) : Host.Outcome State Fault Refusal :=
  onHub (fun h => h.engineRun b.val 1 q.val 0x01 n fun x h => h.veRun b.val q.val x) s
/-- VE_ADD (Table 8.10). -/
def execVeAdd (b : Fin 64) (q : Fin 4) (n : Word) (s : State) : Host.Outcome State Fault Refusal :=
  onHub (fun h => h.engineRun b.val 1 q.val 0x02 n fun x h => h.veRun b.val q.val x) s
/-- VE_SUB (Table 8.10). -/
def execVeSub (b : Fin 64) (q : Fin 4) (n : Word) (s : State) : Host.Outcome State Fault Refusal :=
  onHub (fun h => h.engineRun b.val 1 q.val 0x03 n fun x h => h.veRun b.val q.val x) s
/-- VE_MUL (Table 8.10). -/
def execVeMul (b : Fin 64) (q : Fin 4) (n : Word) (s : State) : Host.Outcome State Fault Refusal :=
  onHub (fun h => h.engineRun b.val 1 q.val 0x04 n fun x h => h.veRun b.val q.val x) s
/-- VE_MAC (Table 8.10). -/
def execVeMac (b : Fin 64) (q : Fin 4) (n : Word) (s : State) : Host.Outcome State Fault Refusal :=
  onHub (fun h => h.engineRun b.val 1 q.val 0x05 n fun x h => h.veRun b.val q.val x) s
/-- VE_MAX (Table 8.10). -/
def execVeMax (b : Fin 64) (q : Fin 4) (n : Word) (s : State) : Host.Outcome State Fault Refusal :=
  onHub (fun h => h.engineRun b.val 1 q.val 0x06 n fun x h => h.veRun b.val q.val x) s
/-- VE_MIN (Table 8.10). -/
def execVeMin (b : Fin 64) (q : Fin 4) (n : Word) (s : State) : Host.Outcome State Fault Refusal :=
  onHub (fun h => h.engineRun b.val 1 q.val 0x07 n fun x h => h.veRun b.val q.val x) s
/-- VE_AFFINE (Table 8.10). -/
def execVeAffine (b : Fin 64) (q : Fin 4) (n : Word) (s : State) : Host.Outcome State Fault Refusal :=
  onHub (fun h => h.engineRun b.val 1 q.val 0x08 n fun x h => h.veRun b.val q.val x) s
/-- VE_RSQ (Table 8.10). -/
def execVeRsq (b : Fin 64) (q : Fin 4) (n : Word) (s : State) : Host.Outcome State Fault Refusal :=
  onHub (fun h => h.engineRun b.val 1 q.val 0x09 n fun x h => h.veRun b.val q.val x) s
/-- VE_SUMRED (Table 8.10). -/
def execVeSumred (b : Fin 64) (q : Fin 4) (n : Word) (s : State) : Host.Outcome State Fault Refusal :=
  onHub (fun h => h.engineRun b.val 1 q.val 0x0A n fun x h => h.veSum b.val q.val x) s

/-! ### The DMA engine (R233 to R236) -/

/-- The bytes from an offset of a COPY or FILL to the end of its tile (R234). -/
def copyTile (x : EQueue) (off : Nat) : Nat :=
  let left := bitsGet (x.w 6) 0 40 - off
  let toEnd (w : Word) : Nat := 65536 - (bitsGet w 0 62 + off) % 65536
  if x.opc = 2 then min left (toEnd (x.w 5)) else min left (min (toEnd (x.w 4)) (toEnd (x.w 5)))

/-- The tile of a DE descriptor at an offset of a COPY or FILL, or at tile `t` of a TSTREAM: source and destination ranges. -/
def deTile (x : EQueue) (off t : Nat) : List (Word × Nat) × List (Word × Nat) :=
  if x.opc = 3 then ((streamRows x t).map fun r => (r.1, streamRb x), (streamRows x t).map fun r => (r.2, streamRb x))
  else
    let n := copyTile x off
    ((if x.opc = 1 then [(adPlus (x.w 4) (off : Nat), n)] else []), [(adPlus (x.w 5) (off : Nat), n)])

/-- The bytes of a FILL at a destination address (Table 8.11). -/
def fillBytes (x : EQueue) (w : Word) (len : Nat) : List Byte :=
  (List.range len).map fun j => BitVec.ofNat 8 (bitsGet (x.w 8) (8 * ((bitsGet w 0 62 + j) % 8)) 8)

/-- WCTL of a DE descriptor; the DE of bay 63 always writes with WRA (R236). -/
def deCtl (b : Nat) (x : EQueue) : WCtl :=
  let k := wctlOf (if x.opc = 3 then x.w 13 else x.w 7)
  { k with ack := k.ack || decide (b = 63) }

/-- A stretch as a queue keeps it. -/
def Piece.span (p : Piece) : Nat × Nat := (p.fa, p.len)

/-- A tile whose bytes are in, moved: written in order, with what a failure of each acknowledged write would leave done (R226, R236). -/
def Hub.deTileEnd (h : Hub) (b q : Nat) (x : EQueue) (src dst : List (List Piece)) (ds : List (List Byte)) : Hub :=
  let h := h.setQueue b 3 q { h.queue b 3 q with moved := x.moved ++ src.flatten.map Piece.span,
                                                 wrote := x.wrote ++ dst.flatten.map Piece.span }
  match h.writeAll (h.queueWho b 3 q) { deCtl b x with cont := .wrote } (dst.zip ds) x.done with
  | ((some e, n), h) => h.opEnd b 3 q { bad := some e, done := n }
  | ((none, n), h) => h.tileEnd b 3 q n 0

/-- A tile is past the end of its descriptor. -/
def dePast (x : EQueue) : Bool := if x.opc = 3 then decide (streamNt x ≤ x.tile) else decide (bitsGet (x.w 6) 0 40 ≤ x.done)

/-- The tiles of a DE descriptor in order, from the one that it is at (R234, R235): each is translated on both sides before any byte of
it moves. -/
def Hub.deTiles (h : Hub) (b q : Nat) : Nat → Hub
  | 0 => h
  | fuel + 1 =>
    let x := h.queue b 3 q
    let c := h.queueWho b 3 q
    if dePast x then h.opEnd b 3 q { done := x.done }
    else
      let tile := deTile x x.done x.tile
      let n := tile.1.length
      match h.mapTile c true ((tile.1.map fun r => (r.1, r.2, needR, 0)) ++ tile.2.map fun r => (r.1, r.2, needW, 1)) with
      | (.wait, h) => h
      | (.bad e, h) => h.opEnd b 3 q { bad := some e, done := x.done }
      | (.ok ps, h) =>
        match h.gather c ((ps.take n).map fun p => (false, p)) with
        | (.wait, h) => h
        | (.bad e, h) => h.opEnd b 3 q { bad := some e, done := x.done }
        | (.ok ds, h) =>
          let ds := if x.opc = 2 then tile.2.map fun r => fillBytes x r.1 r.2 else ds
          let h := h.deTileEnd b q x (ps.take n) (ps.drop n) ds
          if (h.queue b 3 q).phase = .running ∧ ¬ h.waitsTag c.agent then h.deTiles b q fuel else h

/-- A COPY, FILL or TSTREAM. -/
def Hub.deRun (h : Hub) (b q : Nat) (x : EQueue) : Hub :=
  h.deTiles b q (if x.opc = 3 then streamNt x + 1 else bitsGet (x.w 6) 0 40 / 32768 + 4)

/-- DE_COPY (R233, R234). -/
def execDeCopy (b : Fin 64) (q : Fin 4) (n : Word) (s : State) : Host.Outcome State Fault Refusal :=
  onHub (fun h => h.engineRun b.val 3 q.val 1 n fun x h => h.deRun b.val q.val x) s
/-- DE_FILL (R233, R234). -/
def execDeFill (b : Fin 64) (q : Fin 4) (n : Word) (s : State) : Host.Outcome State Fault Refusal :=
  onHub (fun h => h.engineRun b.val 3 q.val 2 n fun x h => h.deRun b.val q.val x) s
/-- DE_TSTREAM (R235). -/
def execDeTstream (b : Fin 64) (q : Fin 4) (n : Word) (s : State) : Host.Outcome State Fault Refusal :=
  onHub (fun h => h.engineRun b.val 3 q.val 3 n fun x h => h.deRun b.val q.val x) s

/-- DE_COLL_OPEN (R237): the open is handed to the hub's collective opener, and the descriptor waits for its end. -/
def execDeCollOpen (b : Fin 64) (q : Fin 4) (n : Word) (s : State) : Host.Outcome State Fault Refusal :=
  onHub (fun h => h.engineRun b.val 3 q.val 8 n fun x h => h.setQueue b.val 3 q.val { x with phase := .held }) s

/-- DE_COLL_MEMBER (R238): the member block is read and bound, and the sill's member behaviour begins. -/
def execDeCollMember (b : Fin 64) (q : Fin 4) (n : Word) (s : State) : Host.Outcome State Fault Refusal :=
  onHub (fun h => h.engineRun b.val 3 q.val 9 n fun x h =>
    let c := h.queueWho b.val 3 q.val
    match h.readRange c (x.w 4) 64 with
    | (.wait, h) => h
    | (.bad e, h) => h.opEnd b.val 3 q.val { bad := some e }
    | (.ok bs, h) =>
      let ws := leWords 8 bs
      if !memberRsvOk ws || ((ws.drop 3).take 4).any (fun w => !adOk c.sys w 0) then
        h.opEnd b.val 3 q.val { bad := some { status := stBadDesc } }
      else ((h.endWork c.key).setQueue b.val 3 q.val { x with phase := .held }).memberOpen (.queue b.val q.val) h.self ws) s

/-! ### What a failure or an overlap leaves undefined (R226, R233), and completion (R225) -/

/-- The part of one stretch that another covers. -/
def Piece.meet (a b : Piece) : Option Piece :=
  let lo := max a.fa b.fa
  let hi := min (a.fa + a.len) (b.fa + b.len)
  if lo < hi then some { fa := lo, len := hi - lo } else none

/-- Every meeting of a stretch with a later one of a list. -/
def selfMeets : List Piece → List Piece
  | [] => []
  | p :: r => r.filterMap p.meet ++ selfMeets r

/-- What an overlap leaves undefined (R233): of a COPY's source and destination, and of the rows of a TSTREAM. -/
def overlapOf (x : EQueue) : List Piece :=
  let of_ (l : List (Nat × Nat)) : List Piece := l.map fun y => { fa := y.1, len := y.2 }
  (if x.opc = 1 then (of_ x.wrote).flatMap fun d => (of_ x.moved).filterMap d.meet else []) ++ selfMeets (of_ x.wrote)

/-- The stretches of a list after its first `n` bytes. -/
def dropBytes : Nat → List (Nat × Nat) → List Piece
  | _, [] => []
  | n, (fa, len) :: r => if len ≤ n then dropBytes (n - len) r else { fa := fa + n, len := len - n } :: dropBytes 0 r

/-- The destination ranges of a DE descriptor from its tile on. -/
def deRest (x : EQueue) : List (Word × Nat) :=
  if x.opc = 3 then (List.range (streamNt x - x.tile)).flatMap fun i => (streamRows x (x.tile + i)).map fun r => (r.2, streamRb x)
  else [(adPlus (x.w 5) (x.done : Nat), bitsGet (x.w 6) 0 40 - x.done)]

/-- The destination ranges of a descriptor that a failure leaves undefined: those that its record does not count as done (R226). A
descriptor that ends with XLATE_FAULT moved nothing of the tile that faulted or of later ones (R234, R291). -/
def undoneRanges (e : Nat) (x : EQueue) : List (Word × Nat) :=
  if x.status = stXlate then []
  else if e = 0 then
    let per := if fmtBlock (bitsGet (x.w 13) 16 4) then 2 else 1
    ((mmulOuts x).drop (per * x.doneOf)).map fun o => (o.1, o.2.1)
  else if e = 1 then
    let f := veDf x
    let k := ceilDiv x.doneOf 32
    [(adPlus (x.w 10) (elemByte f x.doneOf : Nat), arrBytes f (veOut x) - elemByte f x.doneOf)] ++
      (if fmtBlock f then [(adPlus (x.w 11) (k : Nat), ceilDiv (veOut x) 32 - k)] else [])
  else if 1 ≤ x.opc ∧ x.opc ≤ 3 then deRest x
  else []

/-- The stretches of a range whose translation is known now: those of the own loft and of FAs, and of pages that a buffer holds. -/
def Hub.knownPieces (h : Hub) (c : Who) (w : Word) (len : Nat) : List Piece :=
  if adSpace w = 1 then
    let a := bitsGet w 0 57
    (List.range ((a + len + 4095) / 4096 - a / 4096)).filterMap fun i =>
      let va := if i = 0 then a else (a / 4096 + i) * 4096
      match (h.tryXlate (c.bay.getD 0) c.ctx c.sys (h.agentPart c.agent) va needW).1 with
      | .ok fa _ => some { fa := fa, len := min (a + len - va) (4096 - va % 4096) }
      | _ => none
  else (h.mapRange c w len needW 1).1.filterMap Span.piece

/-- A stretch of memory of this hub that the agent of an operation may write. -/
def Hub.mayStore (h : Hub) (c : Who) (p : Piece) : Bool :=
  decide (faNode p.fa = h.self) && h.memThere (faOff p.fa) p.len &&
    (h.ownLoft c p.fa || (h.partCheck (h.accessPkt c p.fa opcWr []) .within).isNone)

/-- Free bytes in those stretches of a list that lie in memory of this hub. -/
def Hub.spoil (h : Hub) (c : Who) (ps : List Piece) : Hub :=
  ps.foldl (fun h p => if h.mayStore c p then (h.memPut (faOff p.fa) (fit p.len (Config.freeBytes h.draw p.len))).redraw else h) h

/-- What the end of a descriptor leaves undefined at its destination, once (R226, R233, log entry 26). -/
def Hub.descSpoil (h : Hub) (b e q : Nat) : Hub :=
  let x := h.queue b e q
  if !x.ran then h
  else
    let c := h.queueWho b e q
    let h := h.setQueue b e q { x with ran := false }
    let h := if e = 3 then h.spoil c (overlapOf x) else h
    if x.status = 0 then h
    else
      let kept := if e = 3 then dropBytes x.doneOf x.wrote else x.wrote.map fun y => { fa := y.1, len := y.2 }
      h.spoil c (kept ++ (undoneRanges e x).flatMap fun r => h.knownPieces c r.1 r.2)

/-- DESCRIPTOR_COMPLETE (R225, R226): what a failure or an overlap leaves undefined, the record, where one is asked for, then the pegs.
A record that must be translated or answered is waited for, and one that cannot be written gives the descriptor that status. -/
def execDescriptorComplete (b : Fin 64) (e q : Fin 4) (s : State) : Host.Outcome State Fault Refusal :=
  onHub (fun h =>
    let a : Agent := .queue b.val e.val q.val
    if ¬ h.alive ∨ ¬ h.quiet a then h
    else if (h.queue b.val e.val q.val).phase = .recording then h.descRetire b.val e.val q.val
    else if (h.queue b.val e.val q.val).phase = .done then
      let h := h.descSpoil b.val e.val q.val
      let x := h.queue b.val e.val q.val
      let cm := bitsGet (x.w 0) 28 2
      if ¬ (cm = 1 ∨ (cm = 2 ∧ x.status ≠ 0)) then h.descRetire b.val e.val q.val
      else
        match h.writeRange (h.queueWho b.val e.val q.val) { ack := true, cont := fun _ => .wrote x.done } (x.w 3) x.record with
        | (.wait, h) => h
        | (.bad k, h) =>
          (h.setQueue b.val e.val q.val { h.queue b.val e.val q.val with
            status := if x.status = 0 then k.status else x.status }).descRetire b.val e.val q.val
        | (.ok _, h) =>
          if h.quiet a then h.descRetire b.val e.val q.val
          else h.setQueue b.val e.val q.val { h.queue b.val e.val q.val with phase := .recording }
    else h) s

/-! ### Prefetching (R290) -/

/-- PF: tiles translated ahead; 0 acts as 4 (Table 8.12). -/
def prefetchDepth (x : EQueue) : Nat :=
  let n := bitsGet (if x.opc = 3 then x.w 13 else x.w 7) 32 4
  if n = 0 then 4 else n

/-- The tiles that follow the first of a DE descriptor, at most `n`. -/
def tilesAhead (x : EQueue) : Nat → Nat → Nat → List (List (Word × Nat) × List (Word × Nat))
  | 0, _, _ => []
  | n + 1, off, t =>
    let past := if x.opc = 3 then decide (streamNt x ≤ t) else decide (bitsGet (x.w 6) 0 40 ≤ off)
    if past then [] else deTile x off t :: tilesAhead x n (off + copyTile x off) (t + 1)

/-- The pages of a VIRT range. -/
def pagesOf (w : Word) (len : Nat) : List Nat :=
  if adSpace w = 1 ∧ len ≠ 0 then
    let a := bitsGet w 0 57
    (List.range ((a + len - 1) / 4096 + 1 - a / 4096)).map fun i => (a / 4096 + i) * 4096
  else []

/-- The partition of a bay is in stream mode (Table 10.7). -/
def Hub.streamMode (h : Hub) (b : Nat) : Bool := match h.bayPart b with
  | some p => h.bit rScrMode p
  | none => false

/-- Every page of some ranges has been translated for an operation. -/
def Hub.tileKnown (h : Hub) (c : Who) (l : List (Word × Nat × Nat)) : Bool :=
  l.all fun r => (pagesOf r.1 r.2.1).all fun v => (h.work c.key).xl.any fun y => decide (y.1 = (v, r.2.2))

/-- The pages that a stream walks for ahead (R290): those of the PF tiles after the last one translated, with the right that each needs. -/
def Hub.pagesAhead (h : Hub) (c : Who) (x : EQueue) : List (Nat × Nat) :=
  let ranges (t : List (Word × Nat) × List (Word × Nat)) : List (Word × Nat × Nat) :=
    (t.1.map fun r => (r.1, r.2, needR)) ++ t.2.map fun r => (r.1, r.2, needW)
  let known := h.tileKnown c (ranges (deTile x x.done x.tile))
  let tiles := tilesAhead x (prefetchDepth x + 1) x.done x.tile
  let ahead := if known then tiles.drop 1 else if x.tile = 0 then [] else tiles.take (prefetchDepth x)
  ahead.flatMap fun t => (ranges t).flatMap fun r => (pagesOf r.1 r.2.1).map fun v => (v, r.2.2)

/-- PREFETCH_WALK (R290): while no demand miss is pending, a free walker walks for the next page of the tiles ahead that no
buffer holds and no walk looks for. -/
def execPrefetchWalk (b : Fin 64) (e q : Fin 4) (s : State) : Host.Outcome State Fault Refusal :=
  onHub (fun h =>
    let x := h.queue b.val e.val q.val
    let key := 16 * b.val + 4 * e.val + q.val
    let stream := decide (e.val = 3) && decide (x.phase = .running) && decide (1 ≤ x.opc) && decide (x.opc ≤ 3) && x.ran
    if !(h.alive && h.bayOn b.val && stream && h.streamMode b.val) || h.scr.noAhead.contains (key, x.count)
        || decide (h.scr.misses ≠ []) then h
    else
      let c := h.queueWho b.val e.val q.val
      let miss (p : Nat × Nat) : Miss := { bay := b.val, who := .ahead key x.count, ctx := c.ctx, va := p.1, need := p.2 }
      let wanted (p : Nat × Nat) : Bool :=
        decide ((h.tryXlate b.val c.ctx c.sys (h.agentPart c.agent) p.1 p.2).1 = .miss) && (h.sharedWalk (miss p)).isNone
      match (h.pagesAhead c x).find? wanted, h.freeWalker with
      | some p, some w => h.walkBegin w [miss p]
      | _, _ => h) s

end Sys2Proof.Machine
end

