-- ==== Sys2Proof/Machine/HostPorts.lean ====
section
/-! DEFINITION. What hosts do at BAR2 and BAR4 (R313 to R318, R320, R330 to R335), and resets of functions (R341). -/
namespace Sys2Proof.Machine

/-! ### Configuration requests (R441) -/

/-- A host port takes configuration requests: it is powered and clocked, and its link has come up since PERST# was deasserted. -/
def Hub.configOn (h : Hub) (port : Nat) : Bool := h.hostOn port && h.brd.pcieAt.getD port false
/-- A host port performs them: step 8 has ended, or the hub has entered RECOVERY. -/
def Hub.configured (h : Hub) (port : Nat) : Bool := h.configOn port && (h.inRecovery || decide (9 ≤ h.phase))

/-- A configuration request of a host to a function: before it is performed it is answered with Retry Status, and a port without a
link answers nothing. -/
def onConfig (f : Nat) (act : Hub → Hub) (s : State) : Host.Outcome State Fault Refusal :=
  onHub (fun h =>
    if h.configured (f / 16) then act h
    else if h.configOn (f / 16) then h.toHost (.retry f)
    else h) s

/-! ### Functions (R313) -/

/-- A function. -/
def Hub.func (h : Hub) (f : Nat) : Func := tget {} h.host.funcs f
/-- The hub with a function set. -/
def Hub.setFunc (h : Hub) (f : Nat) (x : Func) : Hub := { h with host := { h.host with funcs := tset {} h.host.funcs f x } }
/-- The functions of a port. -/
def portFuncs (p : Nat) : List Nat := (List.range 16).map (16 * p + ·)
/-- VF MSE of a port: memory space of each of its VFs (R313). -/
def Hub.setVfs (h : Hub) (port : Nat) (v : Bool) : Hub :=
  let h := ((portFuncs port).drop 1).foldl (fun h f => h.setFunc f { h.func f with mem := v }) h
  { h with host := { h.host with vfs := h.host.vfs.set port v } }

/-- FUNCTION_ENABLE (R313): the bits that the host sets; a PF's VF MSE enables memory space of every VF of its port, and a VF's own
memory bit does nothing. Pending vectors that may now send do (R334). -/
def execFunctionEnable (f : Fin 32) (mem master : Bool) (on : FuncBits) (s : State) : Host.Outcome State Fault Refusal :=
  onConfig f.val (fun h =>
    let x := h.func f.val
    let h := h.setFunc f.val { x with mem := x.mem || (isPf f.val && mem), master := x.master || master,
                                      msixOn := x.msixOn || on.msix, maskAll := x.maskAll || on.mask }
    let h := if isPf f.val && on.vfs then h.setVfs (f.val / 16) true else h
    h.msixSend f.val) s

/-- FUNCTION_ENABLE_CLEAR (R313): the bits that the host clears; a PF's VF MSE disables memory space of every VF of its port, and a
VF's own memory bit does nothing. -/
def execFunctionEnableClear (f : Fin 32) (cmd : CmdBits) (off : FuncBits) (s : State) : Host.Outcome State Fault Refusal :=
  onConfig f.val (fun h =>
    let x := h.func f.val
    let h := h.setFunc f.val { x with mem := x.mem && !(isPf f.val && cmd.mem), master := x.master && !cmd.master,
                                      msixOn := x.msixOn && !off.msix, maskAll := x.maskAll && !off.mask }
    let h := if isPf f.val && off.vfs then h.setVfs (f.val / 16) false else h
    h.msixSend f.val) s

/-! ### BAR2 (R316, R317) -/

/-- The FA of a BAR2 offset, and its window register. -/
def Hub.aperture (h : Hub) (f : Nat) (a : BitVec 36) : Nat × Word :=
  let w := h.reg (rApw f (a.toNat >>> 30))
  (bitsGet w 0 22 * 2 ^ 30 + a.toNat % 2 ^ 30, w)

/-- BAR2 of a function answers its host: not in RECOVERY (R437). -/
def Hub.bar2On (h : Hub) (f : Nat) : Bool := h.hostOn (f / 16) && h.funcOn f && (h.func f).mem && !h.inRecovery

/-- BAR2_WRITE (R316, R317). -/
def execBar2Write (f : Fin 32) (addr : BitVec 36) (data : List Byte) (s : State) : Host.Outcome State Fault Refusal :=
  onHub (fun h =>
    let (fa, w) := h.aperture f.val addr
    if !h.bar2On f.val || data.isEmpty then h
    else if !bitAt w 63 then h.count (rApwMiss f.val)
    else h.post (.aperture f.val) { h.request (.aperture f.val) fa opcWr 0 with
      payload := data, peg := BitVec.ofNat 12 (bitsGet w 46 12), pgm := BitVec.ofNat 2 (bitsGet w 58 2) }) s

/-- The RDs of a read: as few as the limits of R38 allow (R316). -/
def readSpans : Nat → Nat → Nat → List (Nat × Nat)
  | 0, _, _ => []
  | n + 1, fa, len =>
    if len = 0 then []
    else
      let k := min len (min 1024 (4096 - fa % 4096))
      (fa, k) :: readSpans n (fa + k) (len - k)

/-- A read or AtomicOp of BAR2 as `n` requests that wait for answers. -/
def Hub.apOpen (h : Hub) (f n : Nat) : Hub :=
  { h with host := { h.host with reads := h.host.reads ++ [{ id := h.host.nextRead, func := f, left := n }],
                                 nextRead := h.host.nextRead + 1 } }

/-- A completion of Unsupported Request. -/
def Hub.refuseHost (h : Hub) (f : Nat) : Hub := h.toHost (.unsupported f)

/-- BAR2_READ (R316, R317). -/
def execBar2Read (f : Fin 32) (addr : BitVec 36) (len : Nat) (s : State) : Host.Outcome State Fault Refusal :=
  onHub (fun h =>
    let (fa, w) := h.aperture f.val addr
    if h.inRecovery && h.hostOn (f.val / 16) && isPf f.val then h.toHost (.completion f.val (zeros len))
    else if !h.bar2On f.val then h
    else if !bitAt w 63 then h.refuseHost f.val
    else
      let spans := readSpans (len / 1024 + len / 4096 + 3) fa len
      if spans.isEmpty then h.toHost (.completion f.val [])
      else
        let id := h.host.nextRead
        spans.foldl (fun h x => h.issueD (.aperture f.val)
          { h.request (.aperture f.val) x.1 opcRd 0 with aux40 := BitVec.ofNat 40 x.2 } (.bar2 id)) (h.apOpen f.val spans.length)) s

/-- BAR2_ATOMIC_OP (R316): `op` is the MOD of the AT: FetchAdd ADD, Swap SWAP, CAS CAS; the hub completes no other. -/
def execBar2AtomicOp (f : Fin 32) (addr : BitVec 36) (op : BitVec 4) (wide : Bool) (operand compare : Word) (s : State) :
    Host.Outcome State Fault Refusal :=
  onHub (fun h =>
    let (fa, w) := h.aperture f.val addr
    let n := if wide then 8 else 4
    let v := leBytes n operand.toNat
    if !h.bar2On f.val then h
    else if !bitAt w 63 || (decide (op ≠ 0) && decide (op ≠ 4) && decide (op ≠ 5)) then h.refuseHost f.val
    else
      let id := h.host.nextRead
      (h.apOpen f.val 1).issueD (.aperture f.val)
        { h.request (.aperture f.val) fa opcAt op with
          aux40 := BitVec.ofNat 40 (bit01 wide + 2), payload := if op = 5 then leBytes n compare.toNat ++ v else v } (.bar2 id)) s

/-- A part of a BAR2 read has been answered: the whole completes with its data in order, or with Completer Abort, latched in
HST_ERR_LAST (R317, R464). -/
def Hub.apAnswer (h : Hub) (id fa status node : Nat) (data : List Byte) : Hub :=
  match h.host.reads.find? fun r => decide (r.id = id) with
  | none => h
  | some r =>
    let r' : ApRead := { r with left := r.left - 1, parts := tput r.parts fa data,
                                fail := if status = 0 then r.fail else some (r.fail.getD (status, node)) }
    let others := h.host.reads.filter fun x => !decide (x.id = id)
    if r'.left ≠ 0 then { h with host := { h.host with reads := others ++ [r'] } }
    else
      let h : Hub := { h with host := { h.host with reads := others } }
      match r'.fail with
      | none => h.toHost (.completion r.func ((r'.parts.map (·.2)).flatten))
      | some (c, n) => (h.setReg (rErrLast r.func) (BitVec.ofNat 64 (2 ^ 63 + n % 1024 * 256 + c % 256))).toHost (.abort r.func)

/-! ### BAR4 (R318, R320, R333, R334) -/

/-- BAR4 of a function answers its host. -/
def Hub.bar4On (h : Hub) (f : Nat) : Bool := h.bar2On f

/-- MSIX_VECTOR_UNMASK (R318, R334, R378): the host's write of an entry of the MSI-X table; one message where the vector's pending bit is set and it may now send. -/
def execMsixVectorUnmask (f : Fin 32) (v : VectorEntry) (s : State) : Host.Outcome State Fault Refusal :=
  onHub (fun h =>
    let x := h.func f.val
    if !h.bar4On f.val then h
    else (h.setFunc f.val { x with vectors := tset (0x100000000#64) (tset 0 x.vectors (2 * v.v.val) v.addr) (2 * v.v.val + 1) v.ctl }).msixSend f.val) s

/-- A ring of a function. -/
def Hub.ring (h : Hub) (f r : Nat) : Ring := tget {} h.host.rings (16 * f + r)
/-- The hub with a ring set. -/
def Hub.setRing (h : Hub) (f r : Nat) (x : Ring) : Hub :=
  { h with host := { h.host with rings := tset {} h.host.rings (16 * f + r) x } }

/-- BAR4_DB_WRITE (R318, R320). -/
def execBar4DbWrite (f : Fin 32) (r : Fin 16) (a : Access) (s : State) : Host.Outcome State Fault Refusal :=
  onHub (fun h =>
    let x := h.ring f.val r.val
    let db := bitsGet a.value 0 32
    let past := decide (2 ^ x.log2n < (db + 2 ^ 32 - x.head) % 2 ^ 32)
    if !h.bar4On f.val || !x.bound || !(decide (a.half = .full) || decide (a.half = .low)) then h
    else h.setRing f.val r.val { x with db := db, err := if past then 1 else x.err, stopped := x.stopped || past }) s

/-- BAR4_FENCE_READ (R318): FENCE.ALL of the aperture agent; its status is the read's data. -/
def execBar4FenceRead (f : Fin 32) (half : Half) (s : State) : Host.Outcome State Fault Refusal :=
  onHub (fun h =>
    if !h.bar4On f.val then h
    else if half = .full then h.fenceStart (.aperture f.val) none .aperture
    else h.toHost (.completion f.val (zeros 4))) s

/-- MORTISE_STAGE_WRITE (R318, R333): 4 or 8 aligned bytes of the stage, by TX_FUNC. -/
def execMortiseStageWrite (f : Fin 32) (n : Fin 256) (off : Nat) (data : List Byte) (s : State) :
    Host.Outcome State Fault Refusal :=
  onHub (fun h =>
    let m := h.mortise n.val
    let ok := (decide (data.length = 8) && decide (off % 8 = 0)) || (decide (data.length = 4) && decide (off % 4 = 0))
    if h.bar4On f.val && decide (h.fld (rMtsCfg n.val) 31 5 = f.val) && ok && decide (off + data.length ≤ 16) then
      let st := fit 16 m.stage
      h.setMortise n.val { m with stage := st.take off ++ data ++ st.drop (off + data.length) }
    else h) s

/-- What a COMMIT of a function would meet: 0 accepted, 1 full, 2 not permitted (R332, R333). -/
def Hub.commitOutcome (h : Hub) (f n : Nat) : Nat :=
  let mine := if h.bit (rMtsCfg n) 62 then isPf f else decide (h.funcPart f = some (h.fld (rMtsCfg n) 58 4))
  if !h.bit (rMtsCfg n) 63 || decide (h.fld (rMtsCfg n) 31 5 ≠ f) then 2
  else if !(decide (224 ≤ n) || mine) then 2
  else if (h.mortise n).full then 1
  else 0

/-- MORTISE_COMMIT_READ (R318, R333): only an aligned 64-bit read commits; any other reads as zero. -/
def execMortiseCommitRead (f : Fin 32) (a : PageRead) (s : State) : Host.Outcome State Fault Refusal :=
  onHub (fun h =>
    if !h.bar4On f.val then h
    else if a.half ≠ .full then h.toHost (.completion f.val (zeros 4))
    else
      let c := h.commitOutcome f.val a.n.val
      let h := h.setMortise a.n.val { h.mortise a.n.val with rej := c }
      if c = 0 then (h.mtsArrive a.n.val (fit 16 (h.mortise a.n.val).stage)).toHost (.completion f.val (zeros 8))
      else h.toHost (.abort f.val)) s

/-- A write of 1 to a register or to its low half (R318). -/
def Access.isOne (a : Access) : Bool := match a.half with
  | .full => decide (a.value = 1)
  | .low => decide (loHalf a.value = 1)
  | _ => false

/-- MORTISE_RELEASE_WRITE (R318, R334): a write of 1. -/
def execMortiseReleaseWrite (f : Fin 32) (a : PageWrite) (s : State) : Host.Outcome State Fault Refusal :=
  onHub (fun h =>
    if h.bar4On f.val && a.acc.isOne && h.bit (rMtsCfg a.n.val) 57 && decide (h.fld (rMtsCfg a.n.val) 52 5 = f.val) && (h.mortise a.n.val).full then
      h.mtsTake a.n.val
    else h) s

/-! ### Ends of operations (R184, R323, R329, R341) -/

/-- A RAISE past its last CONFIRM, or whose commit is out (R209). -/
def Slot.committed (s : Slot) : Bool :=
  s.closing || (s.desc.raise.isSome && (List.range s.n).all fun m => (tget none s.confirms m).isSome)

/-- The slot that an open of a ring operation has. -/
def Hub.slotOfOp (h : Hub) (id : Nat) : Option Nat :=
  (h.coll.slots.find? fun x => x.2.holds && decide (x.2.opener = .ring id)).map (·.1)

/-- A waiting open of a ring operation given up, and what its reading has gathered. -/
def Hub.dropWaiting (h : Hub) (o : Opener) : Hub :=
  let h := h.endWork (.opening o)
  { h with coll := { h.coll with waiting := h.coll.waiting.filter fun w => !decide (w.opener = o) } }

/-! ### Resets of functions (R341) -/

/-- FUNC_RESET (Table 12.9). -/
def stFuncReset : Nat := 0x45

/-- An agent of a function, or the member of one of its operations. -/
def Hub.agentOf (h : Hub) (f : Nat) : Agent → Bool
  | .aperture g => decide (g = f)
  | .ring g => decide (g = f)
  | .member (.ring id) => (h.host.ops.any fun o => decide (o.id = id) && decide (o.func = f))
  | _ => false

/-- Requests of a function's agents abandoned: their tags stay unused for four packet lifetimes (R55, R341). -/
def Hub.abandon (h : Hub) (f : Nat) : Hub :=
  let mine := h.agentOf f
  let gone := h.sill.out.filter fun o => mine o.agent
  let held : List Quarantine := gone.map fun o =>
    { node := o.node, tag := o.tag, dst := o.pkt.dst, until_ := h.now + 4 * h.lifetime }
  { h with sill := { h.sill with out := h.sill.out.filter fun o => !mine o.agent, quar := h.sill.quar ++ held,
                                 backlog := h.sill.backlog.filter fun x => !mine x.1,
                                 fences := h.sill.fences.filter fun x => !mine x.agent,
                                 dirty := h.sill.dirty.filter fun x => !mine x.agent,
                                 recorded := h.sill.recorded.filter fun x => !mine x.agent,
                                 pcie := h.sill.pcie.filter fun x => !decide (x.2.pkt.dst = h.funcNode f) } }

/-- A DONE operation whose update is under way: the update ends, and is not begun again once it has failed (R325). -/
def Hub.cutOp (h : Hub) (o : Op) : Hub :=
  if o.retryAt.isSome then h.dropOp o.id else h.mapOp o.id fun o => { o with cut := true }

/-- A local member given up with what it has gathered. -/
def Hub.dropMember (h : Hub) (o : Opener) : Hub :=
  (h.coll.members.filter fun m => decide (m.of_ = o)).foldl (fun h m =>
    let h := h.endWork (.member m.id)
    { h with coll := { h.coll with members := h.coll.members.filter fun x => !decide (x.id = m.id) } }) h

/-- A function's operation at its reset: its collective or member ended, a command that has not started given up, its status
word DONE with FUNC_RESET where that lies in pool memory, and not written again where it lies in host memory. -/
def Hub.resetOp (h : Hub) (o : Op) : Hub :=
  let h : Hub := if o.ring = none ∧ o.phase = 0 then
      { h with host := { h.host with cmd := h.host.cmd.filter fun c => !decide (c.op = o.id) } } else h
  let h := h.endWork (.op o.id)
  let h := if o.opc = 1 then
      match h.slotOfOp o.id with
      | some c => if (h.slot c).committed then h else (h.setSlot c { h.slot c with opener := .ring 0 }).endColl c stAborted 0 0
      | none => h.dropWaiting (.ring o.id)
    else if o.opc = 2 then h.dropMember (.ring o.id)
    else h
  if h.swHost o then h.dropOp o.id
  else if o.state = opDone then h.cutOp o
  else h.opFinish o.id stFuncReset id

/-- The rings of a function unbound (R341). -/
def Hub.resetRings (h : Hub) (f : Nat) : Hub :=
  let h := (List.range 16).foldl (fun h r => (h.endWork (.ring (16 * f + r))).setRing f r {}) h
  { h with host := { h.host with turns := tset 0 h.host.turns f 0 } }

/-- A reset of a function (R341). -/
def Hub.funcReset (h : Hub) (f : Nat) : Hub :=
  let h := h.abandon f
  let h := (h.host.ops.filter fun o => decide (o.func = f)).foldl Hub.resetOp h
  let h := h.resetRings f
  let h := (List.range 64).foldl (fun h w => h.setReg (rApw f w) 0) h
  let h := (List.range 256).foldl (fun h n =>
    if h.bit (rMtsCfg n) 57 && decide (h.fld (rMtsCfg n) 52 5 = f) then h.setMortise n { h.mortise n with full := false, notice := [] }
    else h) h
  let h := h.setFunc f {}
  { h with host := { h.host with reads := h.host.reads.filter fun r => !decide (r.func = f) } }

/-- HOST_PORT_RESET (R341): PERST# asserted, a hot reset or a link down. -/
def execHostPortReset (port : Fin 2) (s : State) : Host.Outcome State Fault Refusal :=
  onHub (fun h =>
    let h := (portFuncs port.val).foldl Hub.funcReset h
    { h with host := { h.host with vfs := h.host.vfs.set port.val false },
             brd := { h.brd with perst := h.brd.perst.set port.val true, pcieAt := h.brd.pcieAt.set port.val false } }) s

/-- FLR (R341). -/
def execFlr (f : Fin 32) (s : State) : Host.Outcome State Fault Refusal := onConfig f.val (fun h => h.funcReset f.val) s

/-- VF_ENABLE_CLEAR (R341). -/
def execVfEnableClear (port : Fin 2) (s : State) : Host.Outcome State Fault Refusal :=
  onConfig (16 * port.val) (fun h =>
    let h := ((portFuncs port.val).drop 1).foldl Hub.funcReset h
    { h with host := { h.host with vfs := h.host.vfs.set port.val false } }) s

/-- PERST_DEASSERT (R441): the port starts link training once PCIE is on. -/
def execPerstDeassert (port : Fin 2) (s : State) : Host.Outcome State Fault Refusal :=
  onHub (fun h =>
    { h with brd := { h.brd with perst := h.brd.perst.set port.val false,
                                 pcieAt := h.brd.pcieAt.set port.val (h.domainOn 11) } }) s

end Sys2Proof.Machine
end

