-- ==== Sys2Proof/Machine/Rings.lean ====
section
/-! DEFINITION. Work rings and their operations (R320 to R323, R327, R329). -/
namespace Sys2Proof.Machine

/-- Who a ring operation is. -/
def ringWho (f id : Nat) : Who := { agent := .ring f, key := .op id, sys := isPf f }

/-- A status word lies in the function's own node, or in a pool region of its partition (the system's for a PF), and is aligned
(R321). -/
def Hub.swPlace (h : Hub) (f sw : Nat) : Bool :=
  decide (sw % 64 = 0) && (decide (faNode sw = h.funcNode f) ||
    (h.inPool sw && decide (h.regionPart (faOff sw) = h.agentPart (.ring f)) && h.memThere (faOff sw) 64))

/-- RSV bits of a ring entry's arguments by opcode (Tables 12.5, 12.6): true where all are zero. -/
def entryRsvOk (ws : List Word) : Bool :=
  let w (i : Nat) := ws.getD i 0
  let opc := bitsGet (w 0) 0 8
  decide (bitsGet (w 0) 8 56 = 0) && decide (bitsGet (w 1) 52 12 = 0) &&
  (if opc = 1 then decide (w 1 = 0) && decide (bitsGet (w 3) 52 12 = 0) && [4, 5, 6, 7].all fun i => decide (w i = 0)
   else if opc = 2 then decide (bitsGet (w 3) 52 12 = 0) && [4, 5, 6, 7].all fun i => decide (w i = 0)
   else if opc = 3 then
     decide (bitsGet (w 3) 52 12 = 0) && decide (bitsGet (w 4) 52 12 = 0) && decide (bitsGet (w 5) 40 24 = 0) &&
     decide (bitsGet (w 6) 52 11 = 0) && decide (bitsGet (w 6) 36 2 = 0) && decide (bitsGet (w 6) 0 32 = 0) && decide (w 7 = 0)
   else if opc = 4 then decide (bitsGet (w 3) 4 60 = 0) && decide (bitsGet (w 4) 32 32 = 0) && [5, 6, 7].all fun i => decide (w i = 0)
   else true)

/-- Operations of a ring in flight. -/
def Hub.inFlight (h : Hub) (f r : Nat) : Nat :=
  (h.host.ops.filter fun o => decide (o.func = f) && decide (o.ring = some r)).length + bit01 (h.ring f r).held.isSome

/-- Ring operations of a function in flight. -/
def Hub.inFlightAll (h : Hub) (f : Nat) : Nat := ((List.range 16).map (h.inFlight f)).sum

/-- The next entry of a ring may be fetched (R321). -/
def Hub.mayFetch (h : Hub) (f r : Nat) : Bool :=
  let x := h.ring f r
  h.alive && h.ready && h.funcAvail f && x.bound && !x.stopped && !x.unbind && x.held.isNone && decide (x.db ≠ x.head) &&
  decide (h.inFlightAll f < 1024) &&
  decide (h.inFlight f r < (if x.maxf = 0 then 1024 else min 1024 x.maxf))

/-- A ring whose turn it is among the ready rings of its function (R321): the first from the one after that served last. -/
def Hub.ringTurn (h : Hub) (f r : Nat) : Bool :=
  decide ((((List.range 16).map fun i => (tget 0 h.host.turns f + i + 1) % 16).find? (h.mayFetch f)) = some r)

/-- A ring stops (R320, R321). -/
def Hub.ringStop (h : Hub) (f r : Nat) : Hub := h.setRing f r { h.ring f r with err := 1, stopped := true, held := none }

/-- A fetched entry whose status word is known (R321, R322, R329): a bad status word stops the ring; a bad entry completes with BAD_DESC,
any of a partition in QUIESCE with PART_QUIESCE, and neither is ever reported as ACCEPTED. -/
def Hub.ringEntry (h : Hub) (f r : Nat) (ws : List Word) (sw : Nat) : Hub :=
  let x := h.ring f r
  let opc := bitsGet (ws.getD 0 0) 0 8
  let h := h.setRing f r { x with held := none }
  if !h.swPlace f sw then h.ringStop f r
  else
    let bad := decide (opc = 0) || decide (4 < opc) || !x.opmask.testBit opc || !entryRsvOk ws
    let quiet := (h.funcPart f).any fun p => decide (h.partState p = ptQuiesce)
    let o : Op := { id := h.host.nextOp, func := f, ring := some r, opc := opc, sw := sw, user := ws.getD 2 0,
                    args := ws.drop 3, seq := (x.head + 2 ^ 32 - 1) % 2 ^ 32, state := if bad || quiet then 0 else opAccepted }
    let h : Hub := { h with host := { h.host with ops := h.host.ops ++ [o], nextOp := h.host.nextOp + 1 } }
    if quiet then h.opFinish o.id nakQuiesce id
    else if bad then h.opFinish o.id stBadDesc id
    else h.updateStart o.id

/-- The descriptor of a held COLL_OPEN entry read: it names the status word (R321); one that cannot be read stops the ring. -/
def Hub.ringHeld (h : Hub) (f r : Nat) (ws : List Word) : Hub :=
  let key : Reader := .ring (16 * f + r)
  match h.faRead { agent := .ring f, key := key, sys := isPf f } (bitsGet (ws.getD 3 0) 0 52) 64 with
  | (.wait, h) => h
  | (.bad _, h) => (h.endWork key).ringStop f r
  | (.ok bs, h) => (h.endWork key).ringEntry f r ws (bitsGet (leWord (slice bs 40 8)) 0 52)

/-- The number of the entry that a ring fetches next, or of the one that it holds (R320). -/
def Ring.entryNo (x : Ring) : Nat := if x.held.isSome then (x.head + 2 ^ 32 - 1) % 2 ^ 32 else x.head

/-- RING_ENTRY_FETCH (R321): entry `n`, the next of a ready ring in its turn, as the host returns it, HEAD passing it; or the entry that
the ring holds goes on once its descriptor has been read. -/
def execRingEntryFetch (f : Fin 32) (r : Fin 16) (entry : List Byte) (n : BitVec 32) (s : State) : Host.Outcome State Fault Refusal :=
  onHub (fun h =>
    let x := h.ring f.val r.val
    if n.toNat ≠ x.entryNo then h
    else match x.held with
    | some ws => h.ringHeld f.val r.val ws
    | none =>
      if !(h.mayFetch f.val r.val && h.ringTurn f.val r.val) then h
      else
        let ws := leWords 8 (fit 64 entry)
        let isOpen := decide (bitsGet (ws.getD 0 0) 0 8 = 1)
        let h := h.setRing f.val r.val { x with head := (x.head + 1) % 2 ^ 32, held := if isOpen then some ws else none }
        let h : Hub := { h with host := { h.host with turns := tset 0 h.host.turns f.val r.val } }
        if isOpen then h.ringHeld f.val r.val ws else h.ringEntry f.val r.val ws (bitsGet (ws.getD 1 0) 0 52)) s

/-- The operation of a function under an identity. -/
def Hub.opOf (h : Hub) (op f : Nat) : Option Op := (h.op op).filter fun o => decide (o.func = f)

/-- A ring operation that may start: entries of a ring start in order (R321). -/
def Hub.mayStart (h : Hub) (o : Op) (opc : Nat) : Bool :=
  h.alive && decide (o.opc = opc) && decide (o.ring.isSome) && decide (o.phase = 0) && decide (o.state = opAccepted) &&
  !(h.host.ops.any fun x => decide (x.func = o.func) && decide (x.ring = o.ring) && decide (x.id < o.id) && decide (x.phase = 0)
    && decide (x.state = opAccepted))

/-- RING_COLL_OPEN (R322): the open is handed to the kerf allocator. -/
def execRingCollOpen (op : Nat) (f : Fin 32) (s : State) : Host.Outcome State Fault Refusal :=
  onHub (fun h =>
    match h.opOf op f.val with
    | some o => if h.mayStart o 1 then h.mapOp op fun o => { o with phase := 1 } else h
    | none => h) s

/-- A member block read by a ring (R322): its addresses use SPACE FA. -/
def ringBlockOk (ws : List Word) : Bool :=
  memberRsvOk ws && ((ws.drop 3).take 4).all fun w => decide (adSpace w = 2) && decide (bitsGet w 52 10 = 0)

/-- RING_COLL_MEMBER (R170, R322), as far as reading its block has come; one that cannot be read ends with what its read met. -/
def execRingCollMember (op : Nat) (f : Fin 32) (s : State) : Host.Outcome State Fault Refusal :=
  onHub (fun h =>
    match h.opOf op f.val with
    | none => h
    | some o =>
      if !h.mayStart o 2 then h
      else match h.faRead (ringWho o.func op) (bitsGet (o.args.getD 0 0) 0 52) 64 with
        | (.wait, h) => h
        | (.bad e, h) => (h.endWork (.op op)).opFinish op e.status fun o => { o with node := e.node }
        | (.ok bs, h) =>
          let h := h.endWork (.op op)
          let ws := leWords 8 bs
          if !ringBlockOk ws then h.opFinish op stBadDesc id
          else
            let h := h.opSet op fun o => { o with state := opRunning, phase := 1, detail := ws.getD 0 0 }
            h.memberOpen (.ring op) (h.funcNode o.func) ws) s

/-! ### XFER (R322, R327) -/

/-- FINAL_CNT of bytes performed from the start (R327): a multiple of 4 KiB except at the end. -/
def finalCount (done total : Nat) : Nat := if done = total then total else done / 4096 * 4096

/-- The bytes of a transfer that no write known to have failed precedes. -/
def Op.sure (o : Op) : Nat := min o.progress (o.okTo.getD o.progress)

/-- A transfer ends with its status, its units final as far as they are performed. -/
def Hub.xferEnd (h : Hub) (id final : Nat) : Hub :=
  match h.op id with
  | none => h
  | some o => h.opFinish id o.status fun o => { o with final := max o.final (finalCount final o.total) }

/-- A transfer issues nothing more (R323, R327): it has a status where it has failed, and ends once what it has issued is performed. -/
def Hub.xferStop (h : Hub) (id status node : Nat) : Hub :=
  let h := h.endWork (.op id)
  let h := h.mapOp id fun o => if o.status = 0 then { o with status := status, node := node } else o
  match h.op id with
  | none => h
  | some o =>
    if o.phase = 2 then h
    else if h.mustFence (.ring o.func) then
      (h.mapOp id fun o => { o with phase := 2 }).fenceStart (.ring o.func) none (.xfer id)
    else h.xferEnd id o.sure

/-- The fence of a transfer has completed: a good fence makes every byte copied final; where posted writes failed, how many of the bytes
before the first known failure are performed is a free value (log entry 22). -/
def Hub.xferFence (h : Hub) (id status node : Nat) : Hub :=
  match h.op id with
  | none => h
  | some o =>
    let h := h.mapOp id fun o => if o.status = 0 then { o with status := status, node := node } else o
    if status = 0 ∨ o.okTo.isSome then h.xferEnd id o.sure
    else h.redraw.xferEnd id (h.drawn.toNat % (o.progress + 1))

/-- A transfer goes on unit by unit, each ending at a 4 KiB boundary of its source, as far as the reads that are in let it and no write
of its agent waits for a tag; `fuel` bounds the units. -/
def Hub.xferGo (h : Hub) (id : Nat) (c : Who) (k : WCtl) (src dst : Nat) : Nat → Hub
  | 0 => h
  | n + 1 =>
    match h.op id with
    | none => h
    | some o =>
      if o.total ≤ o.progress then h.xferStop id 0 0
      else if h.waitsTag c.agent then h
      else
        let m := min (o.total - o.progress) (4096 - (src + o.progress) % 4096)
        let p : Piece := { fa := src + o.progress, len := m }
        match h.faRead c p.fa m with
        | (.wait, h) => h
        | (.bad e, h) => h.xferStop id e.status e.node
        | (.ok bs, h) =>
          match (h.forget c [p]).writePieces c k [{ fa := dst + o.progress, len := m }] o.progress bs with
          | ((some e, _), h) => h.xferStop id e.status e.node
          | ((none, _), h) => (h.opSet id fun o => { o with progress := o.progress + m }).xferGo id c k src dst n

/-- RING_XFER (R322, R327): the copy begun, or taken further; then the fence that makes its posted writes performed. -/
def execRingXfer (op : Nat) (f : Fin 32) (s : State) : Host.Outcome State Fault Refusal :=
  onHub (fun h =>
    match h.opOf op f.val with
    | none => h
    | some o =>
      let begun := decide (o.opc = 3) && decide (o.phase = 1) && decide (o.state = opRunning)
      if !h.alive || !(begun || h.mayStart o 3) then h
      else
        let len := bitsGet (o.args.getD 2 0) 0 40
        let h := if begun then h else h.opSet op fun o => { o with state := opRunning, phase := 1, total := len }
        if o.status ≠ 0 then h.xferStop op o.status o.node
        else h.xferGo op (ringWho o.func op) { wctlOf (o.args.getD 3 0) with cont := .xfer op } (bitsGet (o.args.getD 0 0) 0 52)
          (bitsGet (o.args.getD 1 0) 0 52) (len / 4096 + 3)) s

/-! ### ABORT (R323) -/

/-- A ring operation ends with ABORTED (R323): a collective ends, a member ends locally, a transfer stops. -/
def Hub.abortOp (h : Hub) (o : Op) : Hub :=
  if o.opc = 1 then
    match h.slotOfOp o.id with
    | some c => h.endColl c stAborted 0 0
    | none => (h.dropWaiting (.ring o.id)).opFinish o.id stAborted id
  else if o.opc = 2 then
    match h.coll.members.find? fun m => decide (m.of_ = .ring o.id) with
    | some m => h.memberEnd m stAborted 0 0 0 0
    | none => (h.endWork (.op o.id)).opFinish o.id stAborted id
  else if o.opc = 3 ∧ o.phase ≠ 0 then h.xferStop o.id stAborted 0
  else h.opFinish o.id stAborted id

/-- RING_ABORT (R323). -/
def execRingAbort (op : Nat) (s : State) : Host.Outcome State Fault Refusal :=
  onHub (fun h =>
    match h.op op with
    | none => h
    | some o =>
      if !h.mayStart o 4 then h
      else
        let target := h.host.ops.find? fun t => decide (t.func = o.func) && decide (t.ring = some (bitsGet (o.args.getD 0 0) 0 4)) &&
          decide (t.seq = bitsGet (o.args.getD 1 0) 0 32) && decide (t.state ≠ opDone) && decide (t.opc ≠ 4)
        match target with
        | none => h.opFinish op 0x46 id
        | some t =>
          let late := match h.slotOfOp t.id with
            | some c => (h.slot c).committed
            | none => false
          if late then h.opFinish op 0x46 id else (h.abortOp t).opFinish op stOk id) s

end Sys2Proof.Machine
end

