-- ==== Sys2Proof/Machine/Commands.lean ====
section
/-! DEFINITION. Authenticated commands (R336 to R339): taking and checking a command block, and the commands of rings and
registers. -/
namespace Sys2Proof.Machine

/-! ### Host status codes (Table 12.9, R360, Table 6.4) -/
def stAuth : Nat := 0x50
def stReplay : Nat := 0x51
def stBeyond : Nat := 0x52
def stUnknown : Nat := 0x53
def stUnsealFail : Nat := 0x54
def stReleaseFail : Nat := 0x55

/-- The bit of CMDS that permits a command (Table 16.5); none for a reserved command. -/
def cmdBit (c : Nat) : Option Nat :=
  if c = 1 ∨ c = 2 then some 0 else if c = 3 then some 1
  else if 0x10 ≤ c ∧ c ≤ 0x14 then some (c - 0x10 + 2) else if c = 0x20 then some 7 else if c = 0x30 then some 8 else none

/-- The check of a command block (R337, step 3): the status of the first check that fails, 0 where all pass. -/
def Hub.blockCheck (h : Hub) (f len : Nat) (bs : List Byte) : Nat :=
  let arglen := leNat (slice bs 2 2)
  let kid := leNat (slice bs 4 1)
  let key := keyEntry h.brd.image kid
  let seq := leNat (slice bs 8 8)
  if arglen % 8 ≠ 0 ∨ 4096 < arglen ∨ len ≠ 178 + arglen then stBadDesc
  else if 7 < kid ∨ ¬ byteBit key 57 0 ∨
      ¬ Config.ed448Verify (slice key 0 57) (slice bs 0 (64 + arglen)) (slice bs (64 + arglen) 114) then stAuth
  else match cmdBit (leNat (slice bs 0 2)) with
    | none => stUnknown
    | some b =>
      if ¬ byteBit key 60 f ∨ ¬ byteBit key 64 b then stAuth
      else if leWord (slice bs 16 8) ≠ h.reg rNonce then stAuth
      else if seq + 1 ≤ tget 0 h.host.lastSeq kid then stReplay
      else stOk

/-- COMMAND_TAKE (R337): one command of a function at a time, in take order. -/
def execCommandTake (f : Fin 32) (block : Option (List Byte)) (s : State) : Host.Outcome State Fault Refusal :=
  onHub (fun h =>
    let n := 224 + f.val
    let m := h.mortise n
    if !m.full || h.host.cmd.any (fun c => decide (c.func = f.val)) || !h.alive then h
    else
      let fa := bitsGet (leWord m.notice) 0 52
      let len := bitsGet (leWord (m.notice.drop 8)) 0 13
      let h := h.mtsTake n
      let drop (h : Hub) : Hub := h.count (rCmdDrop f.val)
      match block with
      | none => drop h
      | some bs =>
        let bs := fit len bs
        let sw := leNat (slice bs 24 8) % 2 ^ 52
        if faNode fa ≠ h.funcNode f.val ∨ len < 32 ∨ ¬ h.funcAvail f.val ∨ sw % 64 ≠ 0 ∨ faNode sw ≠ h.funcNode f.val then drop h
        else
          let st := h.blockCheck f.val len bs
          let seq := leNat (slice bs 8 8)
          let o : Op := { id := h.host.nextOp, func := f.val, ring := none, opc := 0x80, sw := sw, seq := seq, state := 0 }
          let h : Hub := { h with host := { h.host with ops := h.host.ops ++ [o], nextOp := h.host.nextOp + 1 } }
          if st ≠ 0 then h.opFinish o.id st id
          else
            let kid := leNat (slice bs 4 1)
            let argn := leNat (slice bs 2 2)
            let c : Cmd := { func := f.val, code := leNat (slice bs 0 2), key := kid, op := o.id,
                             words := leWords (argn / 8) (slice bs 64 argn) }
            let h : Hub := { h with host := { h.host with lastSeq := tset 0 h.host.lastSeq kid (seq + 1), cmd := h.host.cmd ++ [c] } }
            h.opSet o.id fun o => { o with state := opAccepted }) s

/-- The command that a function's wright is executing. -/
def Hub.cmdOf (h : Hub) (f : Nat) : Option Cmd := h.host.cmd.find? fun c => decide (c.func = f)

/-- A command ends: its status word, and the wright takes the next. -/
def Hub.cmdEnd (h : Hub) (c : Cmd) (status : Nat) (f : Op → Op) : Hub :=
  ({ h with host := { h.host with cmd := h.host.cmd.filter fun x => !decide (x.op = c.op) } } : Hub).opFinish c.op status f

/-- Run a function's command where it has a code and has not started yet. -/
def Hub.onCmd (h : Hub) (f code : Nat) (act : Cmd → Hub → Hub) : Hub :=
  match h.cmdOf f with
  | none => h
  | some c =>
    let fresh := match h.op c.op with
      | some o => decide (o.phase = 0)
      | none => false
    if h.alive && decide (c.code = code) && fresh then act c h else h

/-- A word of a command's arguments. -/
def Cmd.w (c : Cmd) (i : Nat) : Word := c.words.getD i 0
/-- ARGLEN of a command. -/
def Cmd.len (c : Cmd) : Nat := 8 * c.words.length

/-- A long command has started: RUNNING, with its TOTAL. -/
def Hub.cmdRun (h : Hub) (c : Cmd) (total : Nat) : Hub :=
  h.opSet c.op fun o => { o with state := opRunning, phase := 1, total := total }

/-! ### RING_BIND and RING_UNBIND (Table 12.14) -/

/-- RING_BIND (Table 12.14). -/
def execRingBind (f : Fin 32) (s : State) : Host.Outcome State Fault Refusal :=
  onHub (fun h => h.onCmd f.val 1 fun c h =>
    let w := c.w 0
    let r := bitsGet w 52 4
    let base := bitsGet w 0 52
    let n := bitsGet w 56 4
    if c.len ≠ 16 ∨ n < 4 ∨ 12 < n ∨ base % 4096 ≠ 0 ∨ faNode base ≠ h.funcNode f.val ∨ (h.ring f.val r).bound then
      h.cmdEnd c stBadDesc id
    else
      let x : Ring := { bound := true, base := base, log2n := n, maxf := bitsGet (c.w 1) 16 11, opmask := bitsGet (c.w 1) 0 16 }
      (h.setRing f.val r x).cmdEnd c stOk id) s

/-- RING_UNBIND (Table 12.14): fetching stops; a ring that is not bound stays so. -/
def execRingUnbind (f : Fin 32) (s : State) : Host.Outcome State Fault Refusal :=
  onHub (fun h => h.onCmd f.val 2 fun c h =>
    let r := bitsGet (c.w 0) 0 4
    if c.len ≠ 8 then h.cmdEnd c stBadDesc id
    else if !(h.ring f.val r).bound then h.cmdEnd c stOk id
    else (h.setRing f.val r { h.ring f.val r with unbind := true }).cmdRun c 0) s

/-- RING_UNBIND_DONE (Table 12.14): no operation of the ring is in flight. -/
def execRingUnbindDone (f : Fin 32) (s : State) : Host.Outcome State Fault Refusal :=
  onHub (fun h =>
    match h.cmdOf f.val with
    | none => h
    | some c =>
      let r := bitsGet (c.w 0) 0 4
      if c.code = 2 ∧ ((h.op c.op).map (·.phase)).getD 1 = 1 ∧ h.inFlight f.val r = 0 then (h.setRing f.val r {}).cmdEnd c stOk id
      else h) s

/-! ### REG_WRITE (R339) -/

/-- What a register offset is to REG_WRITE: bays, contexts, segments, mortises, or none of those (R339). -/
inductive Granted where
  | qcfg (b e q : Nat)
  | tctl (b t : Nat)
  | mode (b : Nat)
  | ctxCfg (n : Nat)
  | ctxRoot (n : Nat)
  | seg (n : Nat)
  | mts (n : Nat)
  | other
  deriving DecidableEq, Repr

/-- The register that REG_WRITE names by an offset. -/
def grantedOf (o : Nat) : Granted :=
  if o % 8 ≠ 0 then .other
  else if 0x600000 ≤ o ∧ o < 0x640000 then
    let b := (o - 0x600000) / 0x1000
    let p := o % 0x1000
    if p = 0 then .mode b
    else if 0x100 ≤ p ∧ p < 0x500 ∧ p % 0x40 = 0 ∧ ¬ (0x300 ≤ p ∧ p < 0x400) then .qcfg b ((p - 0x100) / 0x100) ((p - 0x100) / 0x40 % 4)
    else if 0x800 ≤ p ∧ p < 0xA00 ∧ p % 0x20 = 0 then .tctl b ((p - 0x800) / 0x20)
    else .other
  else if 0x501000 ≤ o ∧ o < 0x501800 then .ctxCfg ((o - 0x501000) / 8)
  else if 0x502000 ≤ o ∧ o < 0x502800 then .ctxRoot ((o - 0x502000) / 8)
  else if 0x300800 ≤ o ∧ o < 0x301000 then .seg ((o - 0x300800) / 8)
  else if 0x230000 ≤ o ∧ o < 0x230700 then .mts ((o - 0x230000) / 8)
  else .other

/-- A key's grants cover a register (Table 16.5). -/
def grantOk (key : List Byte) : Granted → Bool
  | .qcfg b _ _ => byteBit key 72 b
  | .tctl b _ => byteBit key 72 b
  | .mode b => byteBit key 72 b
  | .ctxCfg n => byteBit key 80 n
  | .ctxRoot n => byteBit key 80 n
  | .seg n => byteBit key 112 n
  | .mts n => byteBit key 144 n
  | .other => false

/-- A setting agrees with the record of the partition that it names (R344): a valid context of a partition of this hub, and for KIND
host a function of it; a valid segment of one; a valid mortise among those of its OWNER, or of none for SYS. -/
def Hub.settingOk (h : Hub) (g : Granted) (v : Word) : Bool :=
  !bitAt v 63 || match g with
  | .ctxCfg _ => bitAt v 47 || (h.partHere (bitsGet v 48 4) &&
      (!bitAt v 62 || decide (h.funcPart (bitsGet v 55 5) = some (bitsGet v 48 4))))
  | .seg _ => h.partHere (bitsGet v 56 4)
  | .mts n => decide (h.mtsPart n = if bitAt v 62 then none else some (bitsGet v 58 4))
  | _ => true

/-- A write of a context's root: ignored while the context is valid (R278). -/
def Hub.rootWrite (h : Hub) (n : Nat) (a : Access) : Hub :=
  if h.ctxBit n 63 then h else h.setReg (rCtxRoot n) (a.merge (rwMask (rCtxRoot n)) (h.reg (rCtxRoot n)))

/-- A write of BAY_QCFG of either kind. -/
def Hub.qcfgWrite (h : Hub) (b e q : Nat) (a : Access) : Hub :=
  if bitAt (a.merge (rwMask (rQcfgBay b e q)) (h.reg (rQcfgBay b e q))) 63 then h.qcfgEnable b e q a else h.qcfgDisable b e q a

/-- A write of BAY_TCTL of either kind: a STOP, or another field of a thread that is not in RUN. -/
def Hub.tctlAny (h : Hub) (b t : Nat) (a : Access) : Hub :=
  if (h.thread b t).state = .run then (if bitAt (a.value &&& a.half.lanes) 62 then h.tctlStop b t else h) else h.tctlWrite b t a

/-- A write of MTS_CFG (R331, R336): those of command mortises are ignored. -/
def Hub.mtsWrite (h : Hub) (n : Nat) (a : Access) : Hub :=
  if 224 ≤ n then h else h.setReg (rMtsCfg n) (a.merge (rwMask (rMtsCfg n)) (h.reg (rMtsCfg n)))

/-- A register write that REG_WRITE may make, by its register's own rules. -/
def Hub.grantedWrite (h : Hub) (g : Granted) (a : Access) : Hub :=
  match g with
  | .qcfg b e q => h.qcfgWrite b e q a
  | .tctl b t => h.tctlAny b t a
  | .mode b => h.bayModeWrite b a
  | .ctxCfg n => h.ctxWrite n a
  | .ctxRoot n => h.rootWrite n a
  | .seg n => h.segWrite n a
  | .mts n => h.mtsWrite n a
  | .other => h

/-- REG_WRITE (R339): every pair is checked against the key's grants and the partition's record (R344) before any is applied. -/
def execRegWrite (f : Fin 32) (s : State) : Host.Outcome State Fault Refusal :=
  onHub (fun h => h.onCmd f.val 3 fun c h =>
    let key := keyEntry h.brd.image c.key
    let ps := (List.range (c.words.length / 2)).map fun i => (bitsGet (c.w (2 * i)) 0 26, c.w (2 * i + 1))
    if c.len % 16 ≠ 0 ∨ ps.any (fun p => decide (p.1 % 8 ≠ 0)) then h.cmdEnd c stBadDesc id
    else match ps.findIdx? fun p => !(grantOk key (grantedOf p.1) && h.settingOk (grantedOf p.1) p.2) with
      | some i => h.cmdEnd c stBeyond fun o => { o with detail := BitVec.ofNat 64 i }
      | none =>
        (ps.foldl (fun h p => h.writeAt p.1 { value := p.2 } fun h => h.grantedWrite (grantedOf p.1) { value := p.2 }) h).cmdEnd c stOk id) s

end Sys2Proof.Machine
end

