-- ==== Sys2Proof/Machine/Tenancy.lean ====
section
/-! DEFINITION. Partitions (R342 to R344, R363 to R366), key rotation (R356), and the release and unsealing of weights (R357 to
R360). -/
namespace Sys2Proof.Machine

/-! ### A partition record (Table 13.1) -/

/-- A word of a record. -/
def recWord (ws : List Word) (i : Nat) : Word := ws.getD i 0
/-- PART. -/
def recPart (ws : List Word) : Nat := bitsGet (recWord ws 0) 0 4
/-- A joist port of the record. -/
def recJoist (ws : List Word) (j : Nat) : Bool := if j < 64 then bitAt (recWord ws 1) j else bitAt (recWord ws 2) (j - 64)
/-- The spans of the valid regions. -/
def recRegions (ws : List Word) : List (Nat × Nat) :=
  (((List.range 8).map fun i => recWord ws (8 + i)).filter fun w => bitAt w 63).map regionSpan
/-- First mortise and the end of the mortises. -/
def recMts (ws : List Word) : Nat × Nat :=
  (bitsGet (recWord ws 6) 32 8, bitsGet (recWord ws 6) 32 8 + bitsGet (recWord ws 6) 40 9)
/-- First peg and the end of the pegs. -/
def recPegs (ws : List Word) : Nat × Nat :=
  (bitsGet (recWord ws 6) 0 12, bitsGet (recWord ws 6) 0 12 + bitsGet (recWord ws 6) 16 13)

/-- Two ranges (start, end) share nothing. -/
def rangesApart (a b : Nat × Nat) : Bool := decide (a.2 ≤ b.1) || decide (b.2 ≤ a.1) || decide (a.2 ≤ a.1) || decide (b.2 ≤ b.1)

/-- The spans of a list are pairwise apart. -/
def spansDisjoint : List (Nat × Nat) → Bool
  | [] => true
  | a :: r => (r.all fun b => spansApart a b) && spansDisjoint r

/-- The form of a record: no PF among FUNCS, ranges within the pegs and mortises there are, regions of some length (Tables 13.1,
13.2). -/
def recFormOk (ws : List Word) : Bool :=
  !bitAt (recWord ws 3) 0 && !bitAt (recWord ws 3) 16 && decide ((recMts ws).2 ≤ 224) && decide ((recPegs ws).2 ≤ 4096) &&
  (recRegions ws).all fun r => decide (r.2 ≠ 0)

/-- A region lies within the populated extent of its tier, below the slow kerfs (R296, R297). -/
def Hub.regionThere (h : Hub) (r : Nat × Nat) : Bool :=
  if r.1 < lpBase then decide (r.1 + r.2 ≤ h.hbmVisible) else decide (r.1 + r.2 ≤ lpBase + h.lpExtent)

/-- Every joist, rafter, function and bay that a record names is enabled (R344). -/
def Hub.recEnabled (h : Hub) (ws : List Word) : Bool :=
  ((List.range 8).all fun x => !bitAt (recWord ws 2) (8 + x) || (h.portPowered (78 + x) && h.bit (rPctl (78 + x)) 63)) &&
  ((List.range 72).all fun j => !recJoist ws j || (h.portPowered j && h.bit (rPctl j) 63)) &&
  ((List.range 32).all fun f => !bitAt (recWord ws 3) f || h.funcOn f) &&
  ((List.range 64).all fun b => !bitAt (recWord ws 4) b || h.bayOn b)

/-- Two records name no joist, function, bay, mortise or peg in common. -/
def recApart (a b : List Word) : Bool :=
  ((List.range 72).all fun j => !(recJoist a j && recJoist b j)) &&
  decide (loHalf (recWord a 3) &&& recWord b 3 = 0) && decide (recWord a 4 &&& recWord b 4 = 0) &&
  rangesApart (recMts a) (recMts b) && rangesApart (recPegs a) (recPegs b)

/-- Every resource that a record names is free and enabled (R344). -/
def Hub.recFree (h : Hub) (ws : List Word) : Bool :=
  h.recEnabled ws && ((List.range 16).filter h.partHere).all fun q => recApart ws (tget [] h.sec.parts q)

/-- The regions overlap no other region and each other nowhere (R344). -/
def Hub.recRegionsOk (h : Hub) (ws : List Word) : Bool :=
  spansDisjoint (recRegions ws ++ ((List.range 16).filter h.partHere).flatMap h.regions)

/-- FAST_KERFS and SLOW_KERFS of a record. -/
def recQuota (ws : List Word) : Nat × Nat := (bitsGet (recWord ws 5) 0 13, bitsGet (recWord ws 5) 32 21)

/-- The quotas fit the free kerfs (R344): those of no other partition's quota. -/
def Hub.recQuotaOk (h : Hub) (ws : List Word) : Bool :=
  let others := ((List.range 16).filter fun q => h.partHere q && decide (q ≠ recPart ws)).map fun q => recQuota (tget [] h.sec.parts q)
  decide ((recQuota ws).1 + (others.map (·.1)).sum ≤ 6144) &&
  decide ((recQuota ws).2 + (others.map (·.2)).sum ≤ h.fld rKrfCfg 0 21)

/-- The hub takes partitions now (R362, R367, R442): no debug access open, not in TEST, IN_SERVICE or REGRADED. -/
def Hub.takesParts (h : Hub) : Bool :=
  decide (h.phase ≠ phTest) && decide (h.brd.debug &&& 7 = 0) &&
  (decide (h.fld rLcyState 61 3 = 2) || decide (h.fld rLcyState 61 3 = 4))

/-- The checks of PART_ADD (R344): BAD_DESC for a record that no hub accepts, BEYOND_LIMIT for one that this hub does not accept
now. -/
def Hub.addCheck (h : Hub) (f len : Nat) (ws : List Word) : Nat :=
  if len ≠ 256 then stBadDesc
  else if !isPf f && decide (h.funcPart f ≠ some (recPart ws)) then stBeyond
  else if !recFormOk ws then stBadDesc
  else if h.takesParts && !h.partHere (recPart ws) && h.recFree ws && h.recRegionsOk ws && (recRegions ws).all h.regionThere
      && h.recQuotaOk ws then stOk
  else stBeyond

/-! ### Key slots (Table 13.7) -/

/-- The word of a key slot. -/
def kslotWord (state sys part : Nat) (e : Bool) : Word :=
  BitVec.ofNat 64 (state * 2 ^ 62 + sys * 2 ^ 61 + part * 2 ^ 57 + bit01 e * 2 ^ 56)

/-- A key slot loaded. -/
def Hub.loadSlot (h : Hub) (n : Nat) (w : Word) (key : List Byte) : Hub :=
  ({ h with sec := { h.sec with keys := tset [] h.sec.keys n key } } : Hub).setReg (rKslot n) w
/-- A key slot zeroised. -/
def Hub.clearSlot (h : Hub) (n : Nat) : Hub :=
  ({ h with sec := { h.sec with keys := tset [] h.sec.keys n [] } } : Hub).setReg (rKslot n) 0
/-- A key slot loaded with a fresh random key for data and tweak (R347). -/
def Hub.freshSlot (h : Hub) (n : Nat) (w : Word) : Hub := (h.loadSlot n w (Config.freeBytes h.draw 64)).redraw
/-- The state of a key slot changed. -/
def Hub.slotState (h : Hub) (n st : Nat) : Hub := h.setFld (rKslot n) 62 2 st
/-- STATE of a partition changed. -/
def Hub.setPart (h : Hub) (p st : Nat) : Hub := h.setFld (rPartStat p) 61 3 st

/-! ### PART_ADD (R363) -/

/-- Every region of a list CLEAR (R355). -/
def Hub.clearRegions (h : Hub) (l : List (Nat × Nat)) : Hub := l.foldl (fun h r => h.clearRange r.1 r.2) h

/-- A record applied (R363, steps 2 to 4): keys, release pair, the partition ACTIVE and its regions CLEAR. -/
def Hub.partApply (h : Hub) (ws : List Word) : Hub :=
  let p := recPart ws
  let h := h.freshSlot (2 * p) (kslotWord ksWrite 0 p false)
  let h := h.freshSlot (2 * p + 1) (kslotWord ksRead 0 p true)
  let rel := Config.freeBytes h.draw 56
  let h := h.redraw
  let h := { h with sec := { h.sec with parts := tset [] h.sec.parts p ws, release := tset [] h.sec.release p rel,
                                        drops := tset 0 h.sec.drops p 0,
                                        gone := h.sec.gone.filter fun n => !decide (n / 2 = p) } }
  let h := h.setReg (rPartStat p) (BitVec.ofNat 64 (ptActive * 2 ^ 61))
  let h := h.setFld rScrMode p 1 (bit01 (bitAt (recWord ws 0) 7))
  h.clearRegions (recRegions ws)

/-- PART_ADD (R363). -/
def execPartAdd (f : Fin 32) (s : State) : Host.Outcome State Fault Refusal :=
  onHub (fun h => h.onCmd f.val 0x10 fun c h =>
    let st := h.addCheck f.val c.len c.words
    if st ≠ stOk then h.cmdEnd c st id else (h.partApply c.words).cmdEnd c stOk id) s

/-! ### PART_REMOVE (R364, R365) -/

/-- A VF's command names a partition other than its own (R371). -/
def Hub.notOwn (h : Hub) (f p : Nat) : Bool := !isPf f && decide (h.funcPart f ≠ some p)

/-- Bytes of the regions of a partition. -/
def Hub.regionBytes (h : Hub) (p : Nat) : Nat := ((h.regions p).map (·.2)).sum

/-- Collectives of a partition end with ABORTED, and its waiting opens; a RAISE past its last CONFIRM runs on (R184, R209). -/
def Hub.endColls (h : Hub) (p : Nat) : Hub :=
  let h := (List.range 512).foldl (fun h c =>
    let s := h.slot c
    if s.holds && decide (s.desc.part = p) && !s.committed then h.endColl c stAborted 0 0 else h) h
  let mine := h.coll.waiting.filter fun w => decide (w.desc.part = p)
  let h : Hub := { h with coll := { h.coll with waiting := h.coll.waiting.filter fun w => !decide (w.desc.part = p) } }
  mine.foldl (fun h w => h.openResult w.opener w.desc.status stAborted 0) h

/-- A ring operation of a partition in QUIESCE (R329): fetched and not started, or running. An open that has not yet been placed has
not started. -/
def Hub.quiesceOp (h : Hub) (o : Op) : Hub :=
  if o.phase = 0 ∨ (o.opc = 1 ∧ o.state = opAccepted) then
    (((h.endWork (.op o.id)).dropWaiting (.ring o.id)).opFinish o.id nakQuiesce id)
  else if o.opc = 2 ∨ o.opc = 3 then h.abortOp o
  else h

/-- The ring operations of a partition end (R329). -/
def Hub.endOps (h : Hub) (p : Nat) : Hub :=
  (h.host.ops.filter fun o => o.ring.isSome && decide (h.funcPart o.func = some p) && decide (o.state ≠ opDone)).foldl Hub.quiesceOp h

/-- Threads of a partition receive STOP, and its queues are disabled (R364). -/
def Hub.stopBays (h : Hub) (p : Nat) : Hub :=
  ((List.range 64).filter fun b => decide (h.bayPart b = some p)).foldl (fun h b =>
    let h := (List.range 16).foldl (fun h t => if h.threadSys b t then h else h.tctlStop b t) h
    (List.range 16).foldl (fun h k =>
      if k / 4 = 2 ∨ h.bit (rQcfgBay b (k / 4) (k % 4)) 62 ∨ ¬ h.bit (rQcfgBay b (k / 4) (k % 4)) 63 then h
      else h.queueOff b (k / 4) (k % 4)) h) h

/-- A REKEY of a partition ends with ABORTED (R356). -/
def Hub.endRekey (h : Hub) (p : Nat) : Hub :=
  match tget none h.sec.rekeys p with
  | none => h
  | some g =>
    let h : Hub := { h with sec := { h.sec with rekeys := tset none h.sec.rekeys p none } }
    match h.cmdOf g with
    | some c => if c.code = 0x12 then h.cmdEnd c stAborted id else h
    | none => h

/-- PART_REMOVE (R364, steps 1 and 2). -/
def execPartRemove (f : Fin 32) (s : State) : Host.Outcome State Fault Refusal :=
  onHub (fun h => h.onCmd f.val 0x11 fun c h =>
    let p := bitsGet (c.w 0) 0 4
    if c.len ≠ 8 then h.cmdEnd c stBadDesc id
    else if h.notOwn f.val p then h.cmdEnd c stBeyond id
    else if h.partState p = ptQuiesce ∨ h.partState p = ptWiping then h.cmdEnd c stBusy id
    else if !h.partHere p then h.cmdEnd c stBadDesc id
    else
      let h := (h.endRekey p).setPart p ptQuiesce
      let h := (((h.endColls p).endOps p).stopBays p).cmdRun c (h.regionBytes p)
      let h := (h.slotState (2 * p) ksDrain).slotState (2 * p + 1) ksDrain
      let r : Removal := { func := f.val, deadline := h.now + clampNat (h.fld rDrainTmo 0 34) 10000 10000000000 }
      { h with sec := { h.sec with removals := tset none h.sec.removals p (some r) } }) s

/-- The slots of a partition destroyed (R364, steps 3 and 4; R365): its packets are dropped at the heads of their queues, its
regions CLEAR, STATE WIPING. -/
def Hub.slotsDestroyed (h : Hub) (p : Nat) (r : Removal) : Hub :=
  let rs := h.regions p
  let h := (h.clearSlot (2 * p)).clearSlot (2 * p + 1)
  let h : Hub := { h with sec := { h.sec with gone := h.sec.gone ++ [2 * p, 2 * p + 1],
                                              removals := tset none h.sec.removals p (some { r with wiping := true }) } }
  (h.setPart p ptWiping).clearRegions rs

/-- KEY_SLOT_DESTROY (R364, step 3): both INFLIGHT counts have reached zero. -/
def execKeySlotDestroy (p : Fin 16) (s : State) : Host.Outcome State Fault Refusal :=
  onHub (fun h =>
    match tget none h.sec.removals p.val with
    | none => h
    | some r =>
      if !r.wiping && decide (h.inflight (2 * p.val) + h.inflight (2 * p.val + 1) = 0) then h.slotsDestroyed p.val r else h) s

/-- SEC_DRAIN_TIMEOUT (R364, step 3). -/
def execSecDrainTimeout (p : Fin 16) (s : State) : Host.Outcome State Fault Refusal :=
  onHub (fun h =>
    match tget none h.sec.removals p.val with
    | none => h
    | some r => if !r.wiping && decide (r.deadline ≤ h.now) then h.slotsDestroyed p.val r else h) s

/-- The pegs of a range with every word zero, their waits gone. -/
def Hub.zeroPegs (h : Hub) (r : Nat × Nat) : Hub :=
  { h with pegs := { h.pegs with words := h.pegs.words.filter fun x => !(decide (r.1 ≤ x.1) && decide (x.1 < r.2)),
                                 waits := h.pegs.waits.filter fun w => !(decide (r.1 ≤ w.peg) && decide (w.peg < r.2)) } }

/-- The mortises of a range and their MTS_CFG zero. -/
def Hub.zeroMortises (h : Hub) (r : Nat × Nat) : Hub :=
  let h : Hub := { h with mts := h.mts.filter fun x => !(decide (r.1 ≤ x.1) && decide (x.1 < r.2)) }
  ((List.range 224).filter fun n => decide (r.1 ≤ n) && decide (n < r.2)).foldl (fun h n => h.setReg (rMtsCfg n) 0) h

/-- A bay with every thread IDLE and every queue disabled. -/
def Hub.zeroBay (h : Hub) (b : Nat) : Hub :=
  let h := (List.range 16).foldl (fun h t => h.setThread b t {}) h
  (List.range 16).foldl (fun h k =>
    if k / 4 = 2 then h else (h.setQueue b (k / 4) (k % 4) {}).setFld (rQcfgBay b (k / 4) (k % 4)) 63 1 0) h

/-- The contexts of a partition cleared, their tags invalidated (R294). -/
def Hub.zeroContexts (h : Hub) (p : Nat) : Hub :=
  ((List.range 256).filter fun n => decide (h.fld (rCtxCfg n) 48 4 = p) && !h.ctxBit n 47).foldl (fun h n =>
    let tag := h.ctxTag n
    let valid := h.ctxBit n 63
    let h := (h.setReg (rCtxCfg n) 0).setReg (rCtxRoot n) 0
    if valid then h.invalidateStart tag else h) h

/-- The directory entries of a partition cleared. -/
def Hub.zeroSegs (h : Hub) (p : Nat) : Hub :=
  ((List.range 256).filter fun n => decide (h.fld (rSegDir n) 56 4 = p)).foldl (fun h n => h.setReg (rSegDir n) 0) h

/-- Updates of DONE to status words that lie in a partition's regions are issued no more (R325). -/
def Hub.cutOps (h : Hub) (p : Nat) : Hub :=
  (h.host.ops.filter fun o => decide (faNode o.sw = h.self) && h.inRegions p (faOff o.sw) 64 && decide (o.state = opDone)).foldl Hub.cutOp h

/-- The kerfs of a partition returned (R365): a collective that still runs ends with ABORTED (DEDUCED, log entry 37). -/
def Hub.returnKerfs (h : Hub) (p : Nat) : Hub :=
  (h.coll.slots.filter fun x => x.2.holds && decide (x.2.desc.part = p)).foldl (fun h x => h.endColl x.1 stAborted 0 0) h

/-- Everything of a partition returned (R365): STATE FREE. -/
def Hub.partFree (h : Hub) (p : Nat) : Hub :=
  let h := (h.returnKerfs p).cutOps p
  let ws := tget [] h.sec.parts p
  let bays := (List.range 64).filter fun b => decide (h.bayPart b = some p)
  let h := bays.foldl Hub.zeroBay ((h.zeroPegs (recPegs ws)).zeroMortises (recMts ws))
  let h := (((h.zeroContexts p).zeroSegs p).clearSlot (34 + p)).setFld rScrMode p 1 0
  let h : Hub := { h with sec := { h.sec with parts := tset [] h.sec.parts p [], release := tset [] h.sec.release p [],
                                              removals := tset none h.sec.removals p none } }
  h.setReg (rPartStat p) 0

/-- PARTITION_WIPE_DONE (R365): the write pass over the regions has ended. -/
def execPartitionWipeDone (p : Fin 16) (s : State) : Host.Outcome State Fault Refusal :=
  onHub (fun h =>
    match tget none h.sec.removals p.val with
    | none => h
    | some r =>
      if !r.wiping then h
      else
        let h := h.partFree p.val
        match h.cmdOf r.func with
        | some c =>
          if c.code ≠ 0x11 then h
          else h.cmdEnd c stOk fun o => { o with progress := o.total, final := o.total, detail := BitVec.ofNat 64 (tget 0 h.sec.drops p.val) }
        | none => h) s

/-! ### REKEY (R356 to R359) -/

/-- Pages of a partition under an epoch (R355). -/
def Hub.pagesUnder (h : Hub) (p : Nat) (e : Bool) : List Nat :=
  (h.sec.pages.filter fun g => h.inRegions p (g.1 * 65536) 1 && decide (g.2 = 1 + bit01 e)).map (·.1)

/-- Run a REKEY whose SUB is one of a list. -/
def Hub.onRekey (h : Hub) (f : Nat) (subs : List Nat) (act : Cmd → Hub → Hub) : Hub :=
  h.onCmd f 0x12 fun c h => if subs.contains (bitsGet (c.w 0) 8 2) then act c h else h

/-- REKEY_ROTATE (R356, steps 1 and 2); SUB 3 is reserved (Table 13.17). -/
def execRekeyRotate (f : Fin 32) (s : State) : Host.Outcome State Fault Refusal :=
  onHub (fun h => h.onRekey f.val [0, 3] fun c h =>
    let p := bitsGet (c.w 0) 0 4
    if c.len ≠ 8 ∨ bitsGet (c.w 0) 8 2 = 3 then h.cmdEnd c stBadDesc id
    else if h.notOwn f.val p then h.cmdEnd c stBeyond id
    else if h.partState p ≠ ptActive then h.cmdEnd c stBusy id
    else
      let e := h.wepoch p
      let h := (h.slotState (2 * p + bit01 (!e)) ksWrite).slotState (2 * p + bit01 e) ksRead
      let h := (h.setFld (rPartStat p) 60 1 (bit01 (!e))).setPart p ptRekey
      let h : Hub := { h with sec := { h.sec with rekeys := tset none h.sec.rekeys p (some f.val) } }
      h.cmdRun c (h.pagesUnder p e).length) s

/-- A page re-keyed by the sweep: marked with the write epoch of its partition (R356, step 3). -/
def Hub.sweepPage (h : Hub) (e : Bool) (page : Nat) : Hub :=
  { h with sec := { h.sec with pages := h.sec.pages.map fun g => if g.1 = page then (g.1, 1 + bit01 e) else g } }

/-- The command of a rotation that a function gave, changed. -/
def Hub.onRotation (h : Hub) (f : Nat) (act : Cmd → Hub → Hub) : Hub :=
  match h.cmdOf f with
  | some c => if c.code = 0x12 then act c h else h
  | none => h

/-- REKEY_RETIRE (R356, steps 3 to 5): the sweep re-keys the next page, whatever is in flight; once none is left and no packet of the
old slot is in flight, that slot is replaced. -/
def execRekeyRetire (p : Fin 16) (s : State) : Host.Outcome State Fault Refusal :=
  onHub (fun h =>
    match tget none h.sec.rekeys p.val with
    | none => h
    | some f =>
      let e := h.wepoch p.val
      let old := 2 * p.val + bit01 (!e)
      if h.partState p.val ≠ ptRekey then h
      else match (h.pagesUnder p.val (!e)).min? with
        | some page =>
          let h := h.sweepPage e page
          h.onRotation f fun c h => h.opSet c.op fun o => { o with progress := o.total - (h.pagesUnder p.val (!e)).length }
        | none =>
          if h.inflight old ≠ 0 then h
          else
            let h := (h.freshSlot old (kslotWord ksRead 0 p.val (!e))).setPart p.val ptActive
            let h : Hub := { h with sec := { h.sec with rekeys := tset none h.sec.rekeys p.val none } }
            h.onRotation f fun c h => h.cmdEnd c stOk fun o => { o with progress := o.total, final := o.total }) s

/-- The bytes of a command's arguments. -/
def Cmd.bytes (c : Cmd) : List Byte := wordsBytes c.words

/-- The weight key that a wrap holds, if it opens under a release private key and RDIG (R358). -/
def openWrap (key rdig : List Byte) (p : Nat) (wrap : List Byte) : Option (List Byte) :=
  let epub := slice wrap 0 56
  let k := Config.shake256 44 (Config.x448 key epub ++ Config.x448Public key ++ epub ++ rdig)
  Config.gcmOpen (k.take 32) (slice k 32 12) [BitVec.ofNat 8 p] (slice wrap 56 32) (slice wrap 88 16)

/-- REKEY_RELEASE (R358). -/
def execRekeyRelease (f : Fin 32) (s : State) : Host.Outcome State Fault Refusal :=
  onHub (fun h => h.onRekey f.val [1] fun c h =>
    let p := bitsGet (c.w 0) 0 4
    if c.len ≠ 112 then h.cmdEnd c stBadDesc id
    else if h.notOwn f.val p then h.cmdEnd c stBeyond id
    else if tget [] h.sec.release p = [] ∨ tget [] h.sec.rdig p = [] then h.cmdEnd c stReleaseFail id
    else match openWrap (tget [] h.sec.release p) (tget [] h.sec.rdig p) p (slice c.bytes 8 104) with
      | none => h.cmdEnd c stReleaseFail id
      | some k => (h.loadSlot (34 + p) (kslotWord ksWrite 0 p false) k).cmdEnd c stOk id) s

/-- How far an unsealing has come: the first record that failed, the status of an access that failed, and the plaintext bytes
of the records performed. -/
structure Unsealed where
  failed : Option Nat := none
  access : Nat := 0
  final  : Nat := 0
  deriving DecidableEq, Repr

/-- A write of an unsealed record; a failure counts in SIL_INT_FAIL (R73). -/
def Hub.unsealWrite (h : Hub) (o : Nat) (bs : List Byte) : Bool × Hub :=
  match h.memWrite o bs with
  | (some h, _) => (true, h)
  | (none, h) => (false, (h.count rSilIntFail).report fltSil .contained 14)

/-- One record unsealed (R359): from the first failing tag on, zeros are written, whether the blob can be read or not. A blob that
cannot be read before any tag has failed fails the access, and writes nothing. -/
def Hub.unsealRecord (h : Hub) (key header : List Byte) (src dst len i : Nat) (u : Unsealed) : Unsealed × Hub :=
  let put (u : Unsealed) (good : Bool) (bs : List Byte) (h : Hub) : Unsealed × Hub :=
    let (ok, h) := h.unsealWrite (dst + i * 65536) bs
    ({ u with access := if ok || decide (u.access ≠ 0) then u.access else nakMem,
              final := if ok && good && decide (u.access = 0) then u.final + len else u.final }, h)
  if u.failed.isSome then put u false (zeros len) h
  else match h.memRead (src + 32 + i * 65552) (len + 16) with
    | (none, h) => ({ u with access := if u.access = 0 then nakMem else u.access }, h)
    | (some bs, h) =>
      match Config.gcmOpen key (header.take 4 ++ leBytes 8 i) header (bs.take len) (bs.drop len) with
      | some pt => put u true pt h
      | none => put { u with failed := some i } false (zeros len) h

/-- Records from the first to the last in order. -/
def Hub.unsealRecords (h : Hub) (key header : List Byte) (src dst plain : Nat) : Nat → Nat → Unsealed → Unsealed × Hub
  | 0, _, u => (u, h)
  | n + 1, i, u =>
    let (u, h) := h.unsealRecord key header src dst (min 65536 (plain - i * 65536)) i u
    h.unsealRecords key header src dst plain n (i + 1) u

/-- An FA range lies in a region of a partition on this hub (R359). -/
def Hub.partRange (h : Hub) (p fa len : Nat) : Bool :=
  decide (faNode fa = h.self) && h.inRegions p (faOff fa) len && h.memThere (faOff fa) len

/-- An unsealing whose arguments have passed (R359). -/
def Hub.unseal (h : Hub) (c : Cmd) (p src dst srclen dstlen : Nat) : Hub :=
  match h.memRead (faOff src) 32 with
  | (none, h) => h.cmdEnd c nakMem fun o => { o with node := h.self.toNat }
  | (some header, h) =>
    let nrec := leNat (slice header 4 4)
    let plain := leNat (slice header 8 8)
    if dstlen < plain ∨ srclen < 32 + plain + 16 * nrec ∨ nrec ≠ ceilDiv plain 65536 then h.cmdEnd c stBadDesc id
    else
      let h := h.cmdRun c plain
      let (u, h) := h.unsealRecords (tget [] h.sec.keys (34 + p)) header (faOff src) (faOff dst) plain nrec 0 {}
      let done (o : Op) : Op := { o with progress := plain, final := u.final }
      match u.failed with
      | some i => h.cmdEnd c stUnsealFail fun o => { done o with detail := BitVec.ofNat 64 i }
      | none => if u.access ≠ 0 then h.cmdEnd c u.access fun o => { done o with node := h.self.toNat } else h.cmdEnd c stOk done

/-- REKEY_UNSEAL (R359). -/
def execRekeyUnseal (f : Fin 32) (s : State) : Host.Outcome State Fault Refusal :=
  onHub (fun h => h.onRekey f.val [2] fun c h =>
    let p := bitsGet (c.w 0) 0 4
    let src := bitsGet (c.w 1) 0 52
    let dst := bitsGet (c.w 2) 0 52
    let srclen := bitsGet (c.w 3) 0 40
    let dstlen := bitsGet (c.w 4) 0 40
    if c.len ≠ 40 then h.cmdEnd c stBadDesc id
    else if h.notOwn f.val p then h.cmdEnd c stBeyond id
    else if srclen < 32 ∨ ¬ h.partRange p src srclen ∨ ¬ h.partRange p dst dstlen then h.cmdEnd c stBadDesc id
    else h.unseal c p src dst srclen dstlen) s

/-! ### WIPE_REGION (R366) -/

/-- WIPE_REGION (R366, R371). -/
def execWipeRegion (f : Fin 32) (s : State) : Host.Outcome State Fault Refusal :=
  onHub (fun h => h.onCmd f.val 0x13 fun c h =>
    let p := bitsGet (c.w 0) 0 4
    let i := bitsGet (c.w 0) 8 3
    let w := h.partWord p (8 + i)
    if c.len ≠ 8 then h.cmdEnd c stBadDesc id
    else if h.notOwn f.val p then h.cmdEnd c stBeyond id
    else if !bitAt w 63 then h.cmdEnd c stBadDesc id
    else
      let r := regionSpan w
      let h := (h.clearRange r.1 r.2).cmdRun c r.2
      { h with sec := { h.sec with wipes := h.sec.wipes ++ [(f.val, p, i)] } }) s

/-- WIPE_REGION_DONE (R366): the write pass has finished. -/
def execWipeRegionDone (f : Fin 32) (s : State) : Host.Outcome State Fault Refusal :=
  onHub (fun h =>
    match h.sec.wipes.find? fun x => decide (x.1 = f.val) with
    | none => h
    | some x =>
      let h : Hub := { h with sec := { h.sec with wipes := h.sec.wipes.filter fun y => !decide (y = x) } }
      match h.cmdOf f.val with
      | some c => if c.code = 0x13 then h.cmdEnd c stOk fun o => { o with progress := o.total, final := o.total } else h
      | none => h) s

end Sys2Proof.Machine
end

