-- ==== Sys2Proof/Machine/Report.lean ====
section
/-! DEFINITION. The attestation report (R361, R362), the choice and check of images (R432, R435, R436), and IMAGE_UPDATE
(R443). -/
namespace Sys2Proof.Machine

/-! ### Checking an image -/

/-- The current owner key (R368): the key whose digest stands in the highest written owner row. -/
def Vault.ownerKey (v : Vault) : List Byte := Config.keyOfDigest (v.owners.getLastD [])

/-- The key that an image's signature must verify under, if the life-cycle state accepts its SIGNER (R432). -/
def Vault.imageKey (v : Vault) (img : List Byte) : Option (List Byte) :=
  if v.state = 0 then (if imgFlag img 4 then some (Config.broefKey 0) else none)
  else if imgFlag img 4 then none else some v.ownerKey

/-- Signature, section digests and firmware signatures of an image verify (R431, R432, R435). -/
def Vault.imageVerified (v : Vault) (img : List Byte) : Bool :=
  match v.imageKey img with
  | none => false
  | some key => imgTableOk img && imgSigned key img && imgSectionsOk (Config.broefKey 2) img

/-- An image is a candidate: its header is right and ROLLBACK is at least the floor (R435). -/
def Vault.candidate (v : Vault) (img : List Byte) : Bool := imgHeadOk img && decide (v.floor ≤ imgRollback img)

/-- An image passes R432, R435 and R436 on this hub. -/
def Vault.imageOk (v : Vault) (img : List Byte) : Bool :=
  v.candidate img && v.imageVerified img && imgCompat Config.stepping.toNat img

/-- A byte of NVM; erased bytes read 0xFF (log entry 10). -/
def nvmByte (t : List (Nat × Byte)) (k : Nat) : Byte := tget 0xFF t k
/-- `n` bytes of NVM from an offset. -/
def nvmRead (t : List (Nat × Byte)) (k n : Nat) : List Byte := tgetRun 0xFF t k n
/-- Bytes programmed into NVM; a program can only clear bits. -/
def nvmProgram (t : List (Nat × Byte)) : Nat → List Byte → List (Nat × Byte)
  | _, [] => t
  | k, b :: bs => nvmProgram (tset 0xFF t k (nvmByte t k &&& b)) (k + 1) bs

/-- The image in a bank: as many bytes as its header names, at most 16 MiB. -/
def bankImage (t : List (Nat × Byte)) : List Byte := nvmRead t 0 (min 0x1000000 (imgNum (nvmRead t 0 64) 8 4))

/-- A bank of NVM. -/
def Vault.bank (v : Vault) (b : Bool) : List (Nat × Byte) := if b then v.bankB else v.bankA
/-- The vault with a bank's contents set. -/
def Vault.setBank (v : Vault) (b : Bool) (t : List (Nat × Byte)) : Vault :=
  if b then { v with bankB := t } else { v with bankA := t }

/-! ### The report (Table 13.9) -/

/-- The digest of a section, as the section table gives it. -/
def imgDigest (img : List Byte) (ty : Nat) : List Byte :=
  match ((List.range 8).map (imgEntry img)).find? fun e => decide (e.1 = ty) with
  | some e => fit 64 e.2.2.2.2
  | none => zeros 64

/-- The STRAPS word of the report: board slot at the RESET_N edge and as latched, bank preferred and running. -/
def Hub.strapsWord (h : Hub) : Nat :=
  let s := h.brd.straps
  s.plane.toNat + s.slot.toNat * 2 ^ 3 + bit01 s.bank * 2 ^ 5 + bit01 h.brd.bank * 2 ^ 6 + s.settle.toNat * 2 ^ 7
    + h.brd.slot.toNat * 2 ^ 10

/-- MiB of the regions of a partition in a tier. -/
def Hub.tierMiB (h : Hub) (p : Nat) (lp : Bool) : Nat :=
  (((h.regions p).filter fun r => decide ((lpBase ≤ r.1) = lp)).map (·.2)).sum / 0x100000

/-- The 32 bytes of PARTS for a partition. -/
def Hub.partEntry (h : Hub) (p : Nat) : List Byte :=
  let w (i : Nat) : Nat := (h.partWord p i).toNat
  leBytes 8 (w 1) ++ leBytes 2 (w 2) ++ leBytes 2 (h.partState p + 8 * bit01 (h.wepoch p)) ++ leBytes 4 (w 3) ++ leBytes 8 (w 4)
    ++ leBytes 4 (h.tierMiB p false) ++ leBytes 4 (h.tierMiB p true)

/-- The certificate chain of the report; none of a device whose identity is destroyed (R438). -/
def Hub.reportChain (h : Hub) : List Byte := if h.sec.identity = [] then [] else Config.deviceChain.take 4096

/-- The release public key of a partition; zero for none. -/
def Hub.releasePublic (h : Hub) (p : Nat) : List Byte :=
  let key := if p < 16 then tget [] h.sec.release p else []
  if key = [] then zeros 56 else fit 56 (Config.x448Public key)

/-- The report before SIG (Table 13.9): a run of fields, each of its stated length with the RSV bytes that follow it. -/
def Hub.reportBody (v : Vault) (h : Hub) (nonce : List Byte) (rpart : Nat) : List Byte :=
  let img := h.brd.image
  let chain := h.reportChain
  fit 8 (leBytes 2 1 ++ leBytes 2 (1382 + chain.length)) ++ fit 32 nonce
    ++ fit 64 (if h.sec.identity = [] then [] else fit 57 (Config.ed448Public h.sec.identity))
    ++ [BitVec.ofNat 8 (bit01 v.gradeB), BitVec.ofNat 8 (h.fld rLcyState 59 2)] ++ leBytes 2 Config.stepping.toNat
    ++ fit 12 (leBytes 8 v.serial) ++ fit 8 (leBytes 4 h.strapsWord)
    ++ fit 64 Config.romDigest ++ fit 64 h.brd.digA ++ fit 64 h.brd.digB
    ++ imgDigest img 1 ++ imgDigest img 2 ++ imgDigest img 3 ++ imgDigest img 4
    ++ fit 32 h.brd.compat ++ fit 32 Config.securityFuses ++ leBytes 8 (BitVec.toNat h.brd.debug)
    ++ fit 2 (leBytes 1 (h.fld rLcyState 61 3)) ++ fit 6 (leBytes 2 v.trans)
    ++ leBytes 8 v.wipes ++ leBytes 8 (h.reg rMemWipe).toNat ++ fit 8 (leBytes 1 h.brd.wipeCause)
    ++ fit 8 (leBytes 1 rpart) ++ fit 64 (h.releasePublic rpart)
    ++ (List.range 16).flatMap h.partEntry ++ fit 4 (leBytes 2 chain.length) ++ chain

/-- The report: SIG is the device identity's signature over every byte before it; none of a device without identity. -/
def Hub.report_ (v : Vault) (h : Hub) (nonce : List Byte) (rpart : Nat) : List Byte :=
  let body := h.reportBody v nonce rpart
  body ++ fit 114 (if h.sec.identity = [] then [] else Config.ed448Sign h.sec.identity body)

/-- RDIG of a partition after a signed report has been issued for it (R357). -/
def Hub.noteReport (h : Hub) (p : Nat) (rep : List Byte) : Hub :=
  if p < 16 ∧ h.sec.identity ≠ [] then { h with sec := { h.sec with rdig := tset [] h.sec.rdig p (Config.shake256 64 rep) } } else h

/-- ATTEST (R357, R361). -/
def execAttest (f : Fin 32) (s : State) : Host.Outcome State Fault Refusal :=
  onHubV (fun v h => h.onCmd f.val 0x14 fun c h =>
    let p := bitsGet (c.w 0) 0 8
    let fa := bitsGet (c.w 5) 0 52
    let room := bitsGet (c.w 6) 0 16
    let rep := h.report_ v (slice c.bytes 8 32) p
    if c.len ≠ 56 ∨ (15 < p ∧ p ≠ 0xFF) ∨ faNode fa ≠ h.funcNode f.val then h.cmdEnd c stBadDesc id
    else if decide (p ≠ 0xFF) && h.notOwn f.val p then h.cmdEnd c stBeyond id
    else if room < rep.length then h.cmdEnd c stBadDesc id
    else
      let h := (h.toHost (.write c.op f.val (faOff fa) rep)).noteReport p rep
      h.cmdEnd c stOk fun o => { o with detail := BitVec.ofNat 64 rep.length }) s

/-! ### IMAGE_UPDATE (R443) -/

/-- The copy of an update passes the checks of R443. -/
def updateOk (v : Vault) (token : Bool) (len : Nat) (bs : List Byte) : Bool :=
  if token then decide (len = 242) else decide (imgLen bs = len) && v.imageOk bs

/-- IMAGE_UPDATE (R443): `copy` is the image or token in host memory, none where it cannot be read. -/
def execImageUpdate (f : Fin 32) (copy : Option (List Byte)) (s : State) : Host.Outcome State Fault Refusal :=
  onHubV (fun v h => h.onCmd f.val 0x20 fun c h =>
    let fa := bitsGet (c.w 0) 0 52
    let len := bitsGet (c.w 1) 0 32
    let token := bitAt (c.w 1) 32
    if c.len ≠ 16 ∨ faNode fa ≠ h.funcNode f.val then h.cmdEnd c stBadDesc id
    else if h.brd.upd.isSome then h.cmdEnd c stBusy id
    else match copy with
      | none => h.cmdEnd c stBadDesc id
      | some bs =>
        let bs := fit len bs
        if updateOk v token len bs then
          let h := h.cmdRun c len
          { h with brd := { h.brd with upd := some (f.val, token, bs) } }
        else h.cmdEnd c stBadDesc id) s

/-- The vault after an update has been programmed: the bank that is not running, or the token area. -/
def Vault.programmed (v : Vault) (running token : Bool) (bs : List Byte) : Vault :=
  if token then { v with token := nvmProgram [] 0 bs } else v.setBank (!running) (nvmProgram [] 0 bs)

/-- IMAGE_UPDATE_DONE (R443): the bank or token area written and read back; where the device fails, what it holds there and the
command's status are free. -/
def execImageUpdateDone (f : Fin 32) (deviceOk : Bool) (s : State) : Host.Outcome State Fault Refusal :=
  onBoth (fun v h =>
    match h.brd.upd with
    | none => (v, h)
    | some (g, token, bs) =>
      if g ≠ f.val ∨ ¬ h.alive then (v, h)
      else
        let wrong := Config.freeBytes h.draw bs.length
        let st : Nat := if deviceOk then stOk else (Config.updateFailed h.draw).toNat
        let v := v.programmed h.brd.bank token (if deviceOk then bs else wrong)
        let h : Hub := { h with brd := { h.brd with upd := none } }
        let h := if deviceOk then h else h.redraw
        match h.cmdOf f.val with
        | some c =>
          (v, if c.code ≠ 0x20 then h
              else h.cmdEnd c st fun o => { o with progress := o.total, final := if deviceOk then o.total else 0 })
        | none => (v, h)) s

end Sys2Proof.Machine
end

