-- ==== Sys2Proof/Machine/Source.lean ====
section
/-! DEFINITION. The sill as source (R49 to R55, R65, R72, R73, R95 to R102, R227): answers to its requests, their timeouts, posted
NAKs, remote fences, and peg-wait timeouts (R87). -/
namespace Sys2Proof.Machine

/-! ### Failures recorded for an agent (R53, R101, R102, R227) -/

/-- A fence covers requests of an agent to a destination. -/
def Fence.covers (f : Fence) (a : Agent) (d : Node) : Bool :=
  decide (f.agent = a) && (match f.dst with
    | none => true
    | some n => decide (n = d))

/-- The status by which a fence reports a code: one that Table 2.10 does not list cannot be attributed, and gives FENCE_LOST (R101). -/
def fenceCode (status : Nat) : Nat := if 1 ≤ status ∧ status ≤ 0x10 then status else stFenceLost

/-- A failure recorded for an agent and destination; the first one of a pair stays (R101). -/
def Hub.recordFail (h : Hub) (a : Agent) (d : Node) (code node : Nat) : Hub :=
  let status := fenceCode code
  if h.sill.recorded.any fun r => decide (r.agent = a) && decide (r.dst = d) && decide (r.status ≠ stFenceLost ∨ status = stFenceLost) &&
      decide (status ≠ stFenceLost ∨ r.status = stFenceLost) then h
  else { h with sill := { h.sill with recorded := h.sill.recorded ++ [{ agent := a, dst := d, status := status, node := BitVec.ofNat 10 node }] } }

/-- A failure of a request that a fence in progress covers (R101): REQ_TIMEOUT gives FENCE_LOST. -/
def Hub.fenceFail (h : Hub) (o : Outstanding) (status node : Nat) : Hub :=
  if h.sill.fences.any fun f => f.covers o.agent o.pkt.dst then h.recordFail o.agent o.pkt.dst status node else h

/-- The agents that a posted tag names in a node of this hub (R72, R73, R227): an engine stands for its queues, the SE for its
threads. -/
def Hub.postedAgents (h : Hub) (n : Node) (low : Nat) : List Agent :=
  if n = h.self then
    (if low = 0xFF then [.wright]
     else if low % 4 = 2 then (List.range 16).map fun t => .thread (low / 4) t
     else (List.range 4).map fun q => .queue (low / 4) (low % 4) q)
  else match h.funcOf n with
    | some f => if low = 0 then [.aperture f] else if low = 1 then [.ring f] else []
    | none => []

/-- A posted-tag NAK repeats what an agent's last fence has reported (R102). -/
def Hub.lateRepeat (h : Hub) (a : Agent) (p : Packet) : Bool :=
  h.sill.last.any fun l => decide (l.agent = a) && decide (l.node.toNat = p.aux40.toNat % 1024) && decide (l.status = p.stat.toNat) &&
    decide (h.now < l.time + 4 * h.lifetime)

/-- A posted-tag NAK (R53, R102, R227). -/
def Hub.postedNak (h : Hub) (p : Packet) : Hub :=
  let as_ := h.postedAgents p.dst (p.tag.toNat % 256)
  let fresh := as_.filter fun a => !h.lateRepeat a p
  if as_ = [] then h.count rSilDiscard
  else if fresh = [] then h.count rSilLate
  else fresh.foldl (fun h a => h.recordFail a p.src p.stat.toNat (p.aux40.toNat % 1024)) h

/-! ### The end of a tagged request -/

/-- The outstanding request that a response answers, by (SRC, TAG) (R52). -/
def Hub.matching (h : Hub) (p : Packet) : Option Outstanding :=
  h.sill.out.find? fun o => decide (o.node = p.dst) && decide (o.tag = p.tag.toNat) && decide (o.pkt.dst = p.src)

/-- A response that matches nothing (R52): late where its tag is held unused for its sender, else discarded. -/
def Hub.unmatched (h : Hub) (p : Packet) : Hub :=
  if h.sill.quar.any fun q => decide (q.node = p.dst) && decide (q.tag = p.tag.toNat) && decide (q.dst = p.src) then h.count rSilLate
  else h.count rSilDiscard

/-- The hub without an outstanding request. -/
def Hub.dropOut (h : Hub) (o : Outstanding) : Hub :=
  { h with sill := { h.sill with out := h.sill.out.filter fun x => !(decide (x.node = o.node) && decide (x.tag = o.tag)) } }

/-- A response has the MOD and LEN that its request calls for (R52). -/
def answers (q p : Packet) : Bool :=
  if q.opc = opcRd ∧ q.md = 0 then decide (p.md = 0) && decide (p.len = q.rlen)
  else if q.opc = opcAt ∧ q.fetch then decide (p.md = 0) && decide (p.len = q.atWidth)
  else decide (p.md = 1)

/-- A failed write of an agent that R73 names counts in SIL_INT_FAIL. -/
def Hub.intFail (h : Hub) (o : Outstanding) : Hub :=
  let named : Bool := match o.agent with
    | .statusWriter _ => true
    | .sampler => true
    | .trigger _ => true
    | .raiseCommit _ => true
    | .unseal => true
    | .member _ => true
    | .longCmd => true
    | _ => false
  if named && decide (o.pkt.opc = opcWra) then (h.count rSilIntFail).report fltSil .contained 14 else h

/-- The head descriptor of a queue takes the status of its first failed write, before which it had written `before` bytes. -/
def Hub.queueFail (h : Hub) (b e q status node before : Nat) : Hub :=
  let x := h.queue b e q
  if x.phase = .none then h
  else h.setQueue b e q { x with status := if x.status = 0 then status else x.status, node := if x.status = 0 then node else x.node,
                                 okTo := some (min before (x.okTo.getD before)) }

/-- A transfer takes the status of its first failed write, before which it had written `before` bytes; of several the least counts. -/
def Hub.xferFail (h : Hub) (op before status node : Nat) : Hub :=
  h.mapOp op fun o =>
    if o.state = opDone then o
    else
      let o : Op := { o with okTo := some (min before (o.okTo.getD before)) }
      if o.status = 0 then { o with status := status, node := node } else o

/-- The bytes of a transfer before the first of its writes that is not answered yet. -/
def Hub.xferSure (h : Hub) (op : Nat) (o : Op) : Nat :=
  let out := h.sill.out.filterMap fun x => match x.cont with
    | .xfer id n => if id = op then some n else none
    | _ => none
  let back := h.sill.backlog.filterMap fun x => match x.2.2 with
    | .xfer id n => if id = op then some n else none
    | _ => none
  (out ++ back).foldl min o.sure

/-- An acknowledged write of a running transfer performed: FINAL_CNT follows (R325, R327). -/
def Hub.xferNote (h : Hub) (op : Nat) : Hub :=
  match h.op op with
  | none => h
  | some o =>
    let n := finalCount (h.xferSure op o) o.total
    if o.final < n then h.opSet op fun o => { o with final := n } else h

/-- Bytes that an operation had fetched are in, or their read has failed: a local member goes on at once. -/
def Hub.fetched (h : Hub) (r : Reader) (fa len : Nat) (x : List Byte ⊕ (Nat × Nat)) : Hub :=
  let h := h.fetchDone r fa len x
  match r with
  | .member id => h.memberPump id
  | _ => h

/-- A detour's FLUSH has been answered by another node, or has timed out (R32, step 4). -/
def Hub.detourMissed (h : Hub) (j : Nat) : Hub :=
  match h.detourOf j with
  | some d =>
    if d.phase ≠ .flushing then h
    else { h with swc := { h.swc with detours := tset none h.swc.detours j (some { d with phase := .lifetime }) } }
  | none => h

/-- What a failed request means to its issuer: NAK, REQ_TIMEOUT, CHECK_FAIL or MALFORMED. -/
def Hub.reqFailed (h : Hub) (o : Outstanding) (status node : Nat) : Hub :=
  match o.cont with
  | .quiet => (match o.agent with
    | .member m => (h.memberLost m status node).fenceFail o status node
    | _ => h.fenceFail o status node)
  | .posted => h
  | .wrote n => (match o.agent with
    | .queue b e q => (h.queueFail b e q status node n).fenceFail o status node
    | _ => h.fenceFail o status node)
  | .fetch r fa len => h.fetched r fa len (.inr (status, node))
  | .flush => h.fenceFail o status node
  | .thread => (match o.agent with
    | .thread b t => h.threadAnswer b t status node []
    | _ => h)
  | .status op => h.statusFail op
  | .sampler => h
  | .trigger n => h.trigFailed n
  | .xfer op before => h.xferFail op before status node
  | .combined _ => h
  | .commit cid => h.commitEnd cid
  | .detour j => h.detourMissed j
  | .bar2 id => (h.apAnswer id o.pkt.loc.toNat status node []).fenceFail o status node

/-- The route of a joist restored after its detour (R32, step 3). -/
def Hub.detourOver (h : Hub) (j : Nat) : Hub := { h with swc := { h.swc with detours := tset none h.swc.detours j none } }

/-- The FLUSH of a detour has been answered by the accelerator (R32, step 3). -/
def Hub.detourAnswered (h : Hub) (j : Nat) : Hub :=
  match h.detourOf j with
  | some d => if d.phase = .flushing then h.detourOver j else h
  | none => h

/-- What a good answer means to its issuer. -/
def Hub.reqGood (h : Hub) (o : Outstanding) (data : List Byte) : Hub :=
  match o.cont with
  | .thread => (match o.agent with
    | .thread b t => h.threadAnswer b t 0 0 data
    | _ => h)
  | .fetch r fa len => h.fetched r fa len (.inl data)
  | .status op => h.statusAck op
  | .combined g => h.answerGroup (leNat data) g
  | .commit cid => h.commitEnd cid
  | .xfer op _ => h.xferNote op
  | .detour j => h.detourAnswered j
  | .bar2 id => h.apAnswer id o.pkt.loc.toNat 0 0 data
  | _ => h

/-- The oldest response at the sill, taken where it is of a kind; nothing where the sill has stopped. -/
def Hub.serveRsp (h : Hub) (isIt : Packet → Bool) (act : Packet → Hub → Hub) : Hub :=
  match h.sill.rsps with
  | [] => h
  | x :: rest =>
    if h.alive && isIt x.pkt then (act x.pkt { h with sill := { h.sill with rsps := rest } }).issueWaiting else h

/-- An RSP taken (R52, R62): its request ends with OK, with CHECK_FAIL, or with MALFORMED where MOD or LEN is not what the request
calls for. -/
def Hub.takeRsp (h : Hub) (p : Packet) : Hub :=
  match h.matching p with
  | none => h.unmatched p
  | some o =>
    let h := h.dropOut o
    if !answers o.pkt p then (h.count rSilDiscard).reqFailed o nakMalformed p.src.toNat
    else if !p.chkOk then h.chkFailed.reqFailed o nakCheck p.src.toNat
    else h.reqGood o p.payload

/-- A response belongs to a combined AT (R129). -/
def Hub.isCombined (h : Hub) (p : Packet) : Bool :=
  match h.matching p with
  | some o => (match o.cont with
    | .combined _ => true
    | _ => false)
  | none => false

/-- RSP_DATA (R52, R62). -/
def execRspData (s : State) : Host.Outcome State Fault Refusal :=
  onHub (fun h => h.serveRsp (fun p => decide (p.opc = opcRsp) && decide (p.md = 0) && !h.isCombined p) fun p h => h.takeRsp p) s

/-- RSP_ACK (R52). -/
def execRspAck (s : State) : Host.Outcome State Fault Refusal :=
  onHub (fun h => h.serveRsp (fun p => decide (p.opc = opcRsp) && decide (p.md ≠ 0) && !h.isCombined p) fun p h => h.takeRsp p) s

/-- A NAK of a COLC taken by the local member that sent it, which it finds by the locator (R170); one that no member sent is discarded. -/
def Hub.colcNak (h : Hub) (p : Packet) : Hub :=
  match h.coll.members.find? fun m => decide (m.node = p.dst) && decide (m.cid = p.cid) && decide (m.gen = p.gen) && decide (m.memb = p.memb) with
  | some m => h.memberLost m.of_ p.stat.toNat (p.aux40.toNat % 1024)
  | none => h.count rSilDiscard

/-- A NAK taken (R65): a posted one is recorded, one of tag 0 answers a COLC (R170); a detour's FLUSH counts as answered where the NAK names the accelerator
(R32, step 3). -/
def Hub.takeNak (h : Hub) (p : Packet) : Hub :=
  if 0xF00 ≤ p.tag.toNat then h.postedNak p
  else if p.tag = 0 then h.colcNak p
  else match h.matching p with
    | none => h.unmatched p
    | some o =>
      let node := p.aux40.toNat % 1024
      let h := (h.dropOut o).intFail o
      match o.cont with
      | .detour j => if node = o.pkt.dst.toNat then h.detourAnswered j else h.detourMissed j
      | _ => h.reqFailed o p.stat.toNat node

/-- NAK (R53, R65). -/
def execNak (s : State) : Host.Outcome State Fault Refusal :=
  onHub (fun h => h.serveRsp (fun p => decide (p.opc = opcNak) && !h.isCombined p) fun p h => h.takeNak p) s

/-- COMBINED_AT_RESPONSE (R129): the members answered in group order, or NAKed as the combined AT was. A response that fails
its checks answers no member. -/
def execCombinedAtResponse (s : State) : Host.Outcome State Fault Refusal :=
  onHub (fun h => h.serveRsp h.isCombined fun p h =>
    if p.opc = opcNak then
      match h.matching p with
      | some o => (match o.cont with
        | .combined g => (h.dropOut o).nakGroup p g
        | _ => h)
      | none => h
    else h.takeRsp p) s

/-! ### Timeouts -/

/-- A tag held unused for four packet lifetimes (R55). -/
def Hub.quarantine (h : Hub) (o : Outstanding) : Hub :=
  { h with sill := { h.sill with quar := h.sill.quar ++
      [{ node := o.node, tag := o.tag, dst := o.pkt.dst, until_ := h.now + 4 * h.lifetime }] } }

/-- An outstanding request whose timeout has expired. -/
def Hub.expired (h : Hub) (n : Node) (tag : Nat) : Option Outstanding :=
  h.sill.out.find? fun o => decide (o.node = n) && decide (o.tag = tag) && decide (o.deadline ≤ h.now)

/-- A request is that of a combine group. -/
def Outstanding.ofGroup (o : Outstanding) : Bool :=
  match o.cont with
  | .combined _ => true
  | _ => false

/-- REQ_TIMEOUT_EXPIRY (R54, R55). -/
def execReqTimeoutExpiry (node : Node) (tag : BitVec 12) (s : State) : Host.Outcome State Fault Refusal :=
  onHub (fun h =>
    match h.expired node tag.toNat with
    | some o =>
      if o.ofGroup || !h.alive then h
      else ((((h.dropOut o).quarantine o).intFail o).reqFailed o stReqTimeout o.pkt.dst.toNat)
    | none => h) s

/-- COMBINED_AT_TIMEOUT (R129): no member is answered. -/
def execCombinedAtTimeout (tag : BitVec 12) (s : State) : Host.Outcome State Fault Refusal :=
  onHub (fun h =>
    match h.expired h.self tag.toNat with
    | some o => if o.ofGroup && h.alive then (h.dropOut o).quarantine o else h
    | none => h) s

/-- TAG_QUARANTINE_EXPIRY (R55): the tag may be drawn again. -/
def execTagQuarantineExpiry (node : Node) (tag : BitVec 12) (s : State) : Host.Outcome State Fault Refusal :=
  onHub (fun h =>
    ({ h with sill := { h.sill with quar := h.sill.quar.filter fun q =>
        !(decide (q.node = node) && decide (q.tag = tag.toNat) && decide (q.until_ ≤ h.now)) } } : Hub).issueWaiting) s

/-! ### Remote fences (R95, R96, R101) -/

/-- A failure recorded for an agent that its fence reports: any of its own (R53, R101), of a ring engine those of the fence's destination
(R73). -/
def Fence.reports (f : Fence) (r : Recorded) : Bool := match r.agent with
  | .ring _ => f.covers r.agent r.dst
  | a => decide (f.agent = a)

/-- A fence completed with a status and a node (R101): the failures that it covers are reported, the agent's read-cache lines
invalidated (R95), and what waited for it goes on. Of a descriptor whose posted writes failed, how much was performed before the failure
is a free value (log entry 26). -/
def Hub.fenceDone (h : Hub) (f : Fence) (status node : Nat) : Hub :=
  let l : LastFence := { agent := f.agent, node := BitVec.ofNat 10 node, status := status, time := h.now }
  let h : Hub := { h with sill := { h.sill with
    fences := h.sill.fences.erase f,
    recorded := h.sill.recorded.filter fun r => !f.reports r,
    last := (h.sill.last.filter fun x => !decide (x.agent = f.agent)) ++ [l] } }
  let h := h.acquire f.agent
  match f.next with
  | .thread => (match f.agent with
    | .thread b t => h.threadFence b t status node
    | _ => h)
  | .descriptor => (match f.agent with
    | .queue b e q =>
      let x := h.queue b e q
      if status = 0 then h.setQueue b e q { x with phase := .done }
      else h.redraw.setQueue b e q { x with phase := .done, status := if x.status = 0 then status else x.status,
                                            node := if x.status = 0 then node else x.node,
                                            okTo := some (x.okTo.getD (h.drawn.toNat % (x.done + 1))) }
    | _ => h)
  | .aperture => (match f.agent with
    | .aperture g => h.toHost (.completion g (leBytes 8 (status + node % 1024 * 256)))
    | _ => h)
  | .xfer op => h.xferFence op status node

/-- The first failure recorded that a fence reports; FENCE_LOST takes precedence (R101). -/
def Hub.fenceStatus (h : Hub) (f : Fence) : Nat × Nat :=
  let rs := h.sill.recorded.filter f.reports
  match (rs.find? fun r => decide (r.status = stFenceLost)).orElse fun _ => rs.head? with
  | some r => (r.status, r.node.toNat)
  | none => (0, 0)

/-- Every covered request has been answered, and the old epoch has drained (R95, R96). -/
def Hub.fenceReady (h : Hub) (f : Fence) : Bool :=
  !(h.sill.out.any fun o => f.covers o.agent o.pkt.dst) && !(h.sill.backlog.any fun x => f.covers x.1 x.2.1.dst) &&
  (match f.epoch with
   | some e => decide (e = h.epoch) || decide (h.drainCount e = 0)
   | none => true)

/-- FENCE_COMPLETE (R95, R96, R101): the oldest fence of an agent. -/
def execFenceComplete (a : Agent) (s : State) : Host.Outcome State Fault Refusal :=
  onHub (fun h =>
    match h.sill.fences.find? fun f => decide (f.agent = a) with
    | none => h
    | some f => if h.alive && h.fenceReady f then h.fenceDone f (h.fenceStatus f).1 (h.fenceStatus f).2 else h) s

/-- A request whose outcome only a fence of its agent reports: a FLUSH or an acknowledged write that the agent does not wait for. -/
def Cont.forFence : Cont → Bool
  | .quiet => true
  | .flush => true
  | .wrote _ => true
  | .xfer _ _ => true
  | _ => false

/-- The requests that a fence covers given up as it ends: later answers are late (R52, R101). -/
def Hub.giveUp (h : Hub) (f : Fence) : Hub :=
  let mine := h.sill.out.filter fun o => f.covers o.agent o.pkt.dst && o.cont.forFence
  let h := mine.foldl (fun h o => (h.dropOut o).quarantine o) h
  { h with sill := { h.sill with backlog := h.sill.backlog.filter fun x => !(f.covers x.1 x.2.1.dst && x.2.2.forFence) } }

/-- FENCE_TIMEOUT (R101): FENCE_LOST, naming the node of a covered request that is still out. -/
def execFenceTimeout (a : Agent) (s : State) : Host.Outcome State Fault Refusal :=
  onHub (fun h =>
    match h.sill.fences.find? fun f => decide (f.agent = a) && decide (f.deadline ≤ h.now) with
    | none => h
    | some f =>
      let node := match h.sill.out.find? fun o => f.covers o.agent o.pkt.dst with
        | some o => o.pkt.dst.toNat
        | none => 0
      if h.alive then (h.giveUp f).fenceDone f stFenceLost node else h) s

/-! ### Peg waits (R87) -/

/-- PEG_WAIT_TIMEOUT (R87): PWAIT ends with PEG_TIMEOUT, a waiting descriptor with that status. -/
def execPegWaitTimeout (a : Agent) (s : State) : Host.Outcome State Fault Refusal :=
  onHub (fun h =>
    match h.pegs.waits.find? fun w => decide (w.agent = a) && (match w.deadline with
        | some t => decide (t ≤ h.now)
        | none => false) with
    | none => h
    | some _ =>
      if !h.alive then h
      else
        let h := h.dropWait a
        match a with
        | .thread b t =>
          let x := h.thread b t
          (match x.wait with
          | .peg rd => h.goOn b t (x.setG rd (BitVec.ofNat 64 stPegTimeout))
          | _ => h)
        | .queue b e q => if (h.queue b e q).phase = .waiting then h.descEnd b e q stPegTimeout 0 else h
        | _ => h) s

end Sys2Proof.Machine
end

