-- ==== Sys2Proof/Machine/PortState.lean ====
section
/-! DEFINITION. What becomes of a port's packets when it goes down, is detoured or returns (R31, R32, R120, R411), and the
tokens of board peers (R381, R382). -/
namespace Sys2Proof.Machine

/-! ### Tokens of board peers (Table 14.10, R135, R382) -/

/-- A number in the payload of a token. -/
def Token.num (t : Token) (off n : Nat) : Nat := leNat (slice t.bytes off n)
/-- A bit of a byte of a token. -/
def Token.flag (t : Token) (off i : Nat) : Bool := (t.num off 1).testBit i

/-- The last token of a port, unless its far end is silent. -/
def Hub.portToken (h : Hub) (p : Nat) : Option Token := if h.snd.silent.contains p then none else tget none h.snd.tokens p

/-- The token of the peer on a girt pair: the one that arrived last (R382). -/
def Hub.peerToken (h : Hub) (n : Nat) : Option Token :=
  match h.portToken (72 + 2 * n), h.portToken (73 + 2 * n) with
  | some a, some b => if a.time ≤ b.time then some b else some a
  | some a, none => some a
  | none, x => x

/-- Sounding reports the peer on a girt pair absent (PEER_ABSENT, Table 14.13). -/
def Hub.peerAbsent (h : Hub) (n : Nat) : Bool := h.snd.absP.contains (h.pairSlot n)

/-- STATE0 or STATE1 that a token carries. -/
def Token.bankState (t : Token) (bank : Bool) : Nat := bitsGet (BitVec.ofNat 64 (t.num 12 1)) (if bank then 3 else 1) 2

/-- PEER_LOADED of a girt pair (Table 4.10). -/
def Hub.peerLoaded (h : Hub) (n : Nat) : Bool :=
  h.peerAbsent n || (match h.peerToken n with
    | some t => decide (t.bankState (!h.epoch) = bankLoaded) || decide (t.bankState (!h.epoch) = bankActive)
    | none => false)

/-- The DRAINING bank, which is also the epoch that drains. -/
def Hub.draining (h : Hub) : Option Bool := [false, true].find? fun b => decide (h.bankState b = bankDraining)

/-- PEER_DRAINED of a girt pair (Table 4.10). -/
def Hub.peerDrained (h : Hub) (n : Nat) : Bool :=
  h.peerAbsent n || (match h.draining, h.peerToken n with
    | some e, some t => decide (t.flag 12 0 ≠ e) && t.flag 12 (if e then 6 else 5)
    | _, _ => false)

/-! ### Detours (R31) -/

/-- DET_ALLOW of the entry of the accelerator on a joist in the ACTIVE bank. -/
def Hub.detAllow (h : Hub) (j : Nat) : Nat := entryField (h.routeEntry h.epoch (h.joistNode j)) 19 3

/-- Some port of a girt pair is up. -/
def Hub.pairUp (h : Hub) (n : Nat) : Bool := h.portUp (72 + 2 * n) || h.portUp (73 + 2 * n)

/-- The score of a girt pair as a detour of a joist, one more than the peer's HUB_SCORE; 0 where it may not carry one. -/
def Hub.detourScore (h : Hub) (j n : Nat) : Nat :=
  match h.peerToken n with
  | some t => if (h.detAllow j).testBit n && h.pairUp n && (t.num 16 9).testBit j then t.num 6 1 + 1 else 0
  | none => 0

/-- The pair that a detour of a joist takes: the peer of the highest score, the lowest pair of equal ones. -/
def Hub.choosePair (h : Hub) (j : Nat) : Option Nat :=
  let best := (List.range 3).foldl (fun b n => max b (h.detourScore j n)) 0
  if best = 0 then none else (List.range 3).find? fun n => decide (h.detourScore j n = best)

/-- A route decided for a queue of an output is decided again. -/
def Hub.unroute (h : Hub) (out : Nat) : Hub :=
  { h with swc := { h.swc with rx := h.swc.rx.map fun x => if x.route = some (.queue out) then { x with route := none } else x } }

/-- The queued packets of an output and class moved, in queue order, to the queue that `choice` gives each (R31, step 3; R120);
one for which there is none stays. -/
def Hub.moveQueue (h : Hub) (out cls : Nat) (choice : Hub → Held → Option Nat) : Hub :=
  ((h.qlist out cls).foldl (fun h x =>
    match choice h x with
    | some o => h.setQ o cls (h.qlist o cls ++ [x])
    | none => h.setQ out cls (h.qlist out cls ++ [x])) (h.setQ out cls [])).rateNote out cls 0

/-- One queued entry of a joist moved to its detour. A packet that arrived on a girt or rafter port is discarded and counted at its
ingress (R31, step 3); a combine group goes on with its other members. -/
def Hub.moveEntry (h : Hub) (cls pair : Nat) (x : Held) : Hub :=
  let away (m : Joined) : Bool := (arrivedOn m.ing).far
  let h := (x.members.filter away).foldl (fun h m => h.countHeld (x.alone m)) h
  match x.regroup (x.members.filter fun m => !away m) with
  | none => h
  | some y =>
    let y := if x.group = [] then x else y
    let o := h.pairMember pair (h.hashOf y.pkt)
    h.setQ o cls (h.qlist o cls ++ [y])

/-- The queued packets of a joist moved to its detour. -/
def Hub.moveToDetour (h : Hub) (j cls pair : Nat) : Hub :=
  ((h.qlist j cls).foldl (fun h x => h.moveEntry cls pair x) (h.setQ j cls [])).rateNote j cls 0

/-- An earlier FLUSH of a joist's detour no longer ends it. -/
def Hub.forgetFlush (h : Hub) (j : Nat) : Hub :=
  { h with sill := { h.sill with
      out := h.sill.out.map fun o => if o.cont = .detour j then { o with cont := .quiet } else o,
      backlog := h.sill.backlog.map fun x => if x.2.2 = .detour j then (x.1, x.2.1, .quiet) else x } }

/-- A joist has gone down: its detour begins, or goes on (R31). -/
def Hub.detourStart (h : Hub) (j : Nat) : Hub :=
  let pair := match h.detourOf j with
    | some d => some d.pair
    | none => h.choosePair j
  match pair with
  | none => h
  | some n =>
    let d : Detour := { pair := n }
    let h : Hub := { (h.forgetFlush j) with swc := { (h.forgetFlush j).swc with detours := tset none h.swc.detours j (some d) } }
    ((List.range 5).foldl (fun h c => h.moveToDetour j c n) h).unroute j

/-- The port that a rafter packet takes now; none where no port of its set is up. -/
def Hub.rafterChoice (h : Hub) (x : Held) : Option Nat :=
  let up := h.rafterUp (entryField (h.routeEntry x.pkt.rep x.pkt.dst) 11 8)
  up[h.hashOf x.pkt % up.length]?

/-- The port that a packet queued for a girt or rafter port takes now (R118). -/
def Hub.presentChoice (h : Hub) (out : Nat) (x : Held) : Option Nat :=
  if out < 78 then
    let o := h.pairMember ((out - 72) / 2) (h.hashOf x.pkt)
    if h.portUp o then some o else none
  else h.rafterChoice x

/-- The packets queued for a girt or rafter port moved to each flow's present choice (R120). -/
def Hub.moveAway (h : Hub) (out : Nat) : Hub :=
  ((List.range 5).foldl (fun h c => h.moveQueue out c fun h x => h.presentChoice out x) h).unroute out

/-! ### Returns (R120) -/

/-- The ports whose flows move to a girt or rafter port when it returns. -/
def siblings (p : Nat) : List Nat :=
  if p < 78 then [if p % 2 = 0 then p + 1 else p - 1] else ((List.range 8).map (78 + ·)).filter fun q => decide (q ≠ p)

/-- The packets on a port: queued for it, or sent and not acknowledged (R120). -/
def Hub.packetsOn (h : Hub) (q : Nat) : List Held :=
  ((List.range 5).flatMap fun c => h.qlist q c) ++ ((h.port q).unacked.flatMap (·.pkts)).filter fun x => !decide (x.pkt.dst = 0x3FF)

/-- No packet of the flows that take a port now remains on another port (R120). -/
def Hub.returnClear (h : Hub) (p : Nat) : Bool :=
  (siblings p).all fun q => (h.packetsOn q).all fun x => x.pkt.mc || decide (h.presentChoice q x ≠ some p)

/-- New arrivals for a port are held, unless no packet of the flows that take it now remains on another port. -/
def Hub.holdPort (h : Hub) (p : Nat) : Hub :=
  if h.returnClear p || h.swc.returning.contains p then h
  else { h with swc := { h.swc with returning := h.swc.returning ++ [p] } }

/-- A girt or rafter port has come back, or gains flows: the arrivals of every flow whose choice changes are held. In a rafter set of
three or more ports flows move between the other ports too. -/
def Hub.returnPort (h : Hub) (p : Nat) : Hub :=
  if p < 72 then h else (p :: siblings p).foldl (fun h q => h.holdPort q) h

/-! ### A port goes down (R411) -/

/-- LOCK and GLOCK of every lane of a port cleared. -/
def Hub.dropLocks (h : Hub) (p : Nat) : Hub :=
  (List.range 8).foldl (fun h i => h.setFld (rLstat (8 * p + i)) 62 2 0) h

/-- A port enters DOWN (R411, R412): the packets of unacknowledged planks are discarded and counted, a port that was ACTIVE with
such planks reports a CONTAINED fault, and its packets and new arrivals take another way (R31, R120). -/
def Hub.linkDown (h : Hub) (p : Nat) : Hub :=
  let q := h.port p
  let lost := ((q.unacked.flatMap (·.pkts)).map (·.pid)).dedup.length
  let bad := h.linkUp p && decide (q.unacked ≠ [])
  let h := h.countBy (rDownDrop p) lost
  let h := ((h.setFld (rPstat p) 60 4 lkDown).setFld (rPstat p) 55 5 0).setFld (rPstat p) 0 16 0
  let h := h.dropLocks p
  let h := h.setPort p { peer := q.peer, chain := q.chain, offers := q.offers, stateAt := h.now }
  let h : Hub := { h with swc := { h.swc with returning := h.swc.returning.filter fun x => decide (x ≠ p) } }
  let h := if bad then h.report (fltSd (portChip p)) .contained 20 else h
  if p < 72 then
    let h : Hub := { h with sill := { h.sill with caps := tset 0 h.sill.caps p (tget 0 h.sill.caps p % 16) } }
    h.detourStart p
  else h.moveAway p

/-- A port that is neither OFF nor DOWN goes down. -/
def Hub.takeDown (h : Hub) (p : Nat) : Hub := if h.lstate p = lkOff ∨ h.lstate p = lkDown then h else h.linkDown p

/-- A failed handshake or a node mismatch (R18, R70, R351): the port stays down, and the plumb records a CORRECTED fault. -/
def Hub.bringUpFail (h : Hub) (p : Nat) : Hub := (h.takeDown p).report (fltSd (portChip p)) .corrected 21

/-- PORT_DOWN (R411). -/
def execPortDown (p : Fin 86) (s : State) : Host.Outcome State Fault Refusal := onHub (fun h => h.takeDown p.val) s

/-! ### A port comes up -/

/-- The CAP payload of this hub (R77, Table 2.12): every capability, 255 receive queues and its lifetime in µs. -/
def Hub.capPayload (h : Hub) : List Byte :=
  leBytes 8 (h.lifetime / 1000 * 2 ^ 48 + 255 * 2 ^ 40 + 15) ++ leBytes 8 h.self.toNat

/-- A link becomes ACTIVE: each end of a joist sends CAP (R70, R420), and the flows of a girt or rafter port return (R120). -/
def Hub.linkActive (h : Hub) (p : Nat) : Hub :=
  let h := h.setLstate p lkActive
  let h := h.setPort p { h.port p with idleAt := h.now, progressAt := h.now }
  if p < 72 then h.sendLocalD p (h.mgt 2 0 h.capPayload) else h.returnPort p

/-! ### The return of a joist (R32) -/

/-- The hub with a detour set. -/
def Hub.setDetour (h : Hub) (j : Nat) (d : Detour) : Hub :=
  { h with swc := { h.swc with detours := tset none h.swc.detours j (some d) } }

/-- A packet on a port is one that the joist's detour carries. -/
def Hub.isDetoured (h : Hub) (j : Nat) (x : Held) : Bool := !x.pkt.mc && decide (h.joistOf x.pkt = some j)

/-- A packet in a receive buffer whose route is the detour of a joist, and which is not yet admitted. -/
def Hub.onDetour (h : Hub) (j pair : Nat) (x : Held) : Bool :=
  h.isDetoured j x && (decide (x.route = some (.queue (72 + 2 * pair))) || decide (x.route = some (.queue (73 + 2 * pair))))

/-- Arrivals routed to a joist's detour and not yet admitted are held with the new ones (R32). -/
def Hub.recallDetoured (h : Hub) (j pair : Nat) : Hub :=
  { h with swc := { h.swc with rx := h.swc.rx.map fun x => if h.onDetour j pair x then { x with route := none } else x } }

/-- JOIST_PORT_RETURN (R32): once the port is up, and no rule of sounding keeps it down. -/
def execJoistPortReturn (j : Fin 72) (s : State) : Host.Outcome State Fault Refusal :=
  onHub (fun h =>
    match h.detourOf j.val with
    | some d =>
      if d.phase = .down ∧ h.portUp j.val then (h.recallDetoured j.val d.pair).setDetour j.val { d with phase := .draining } else h
    | none => h) s

/-- DETOUR_DRAIN_ACKED (R32, steps 1 and 2): the FLUSH goes to the accelerator over the detour. -/
def execDetourDrainAcked (j : Fin 72) (s : State) : Host.Outcome State Fault Refusal :=
  onHub (fun h =>
    match h.detourOf j.val with
    | some d =>
      let left := (h.packetsOn (72 + 2 * d.pair) ++ h.packetsOn (73 + 2 * d.pair)).any (h.isDetoured j.val) ||
        h.swc.rx.any (h.onDetour j.val d.pair)
      if d.phase ≠ .draining ∨ left ∨ ¬ h.alive then h
      else
        let h := h.setDetour j.val { d with phase := .flushing, step1 := h.now }
        h.issueD (.detour j.val) (h.request (.detour j.val) (faOf (h.joistNode j.val) 0) opcRd 1) (.detour j.val)
    | none => h) s

/-- DETOUR_LIFETIME_EXPIRY (R32, step 4). -/
def execDetourLifetimeExpiry (j : Fin 72) (s : State) : Host.Outcome State Fault Refusal :=
  onHub (fun h =>
    match h.detourOf j.val with
    | some d => if d.phase = .lifetime ∧ d.step1 + h.lifetime ≤ h.now then h.detourOver j.val else h
    | none => h) s

/-- GIRT_RETURN_RELEASE (R120). -/
def execGirtReturnRelease (p : Fin 86) (s : State) : Host.Outcome State Fault Refusal :=
  onHub (fun h =>
    if h.swc.returning.contains p.val && h.returnClear p.val then
      { h with swc := { h.swc with returning := h.swc.returning.filter fun x => decide (x ≠ p.val) } }
    else h) s

end Sys2Proof.Machine
end

