-- ==== Sys2Proof/Machine/Hello.lean ====
section
/-! DEFINITION. The HELLO exchange and the link keys (R351 to R353), and the other MGT packets (R70, R125, R381). -/
namespace Sys2Proof.Machine

/-! ### Taking an MGT packet -/

/-- The oldest MGT packet at the wright that arrived on a port with a modifier is taken. -/
def Hub.takeMgt (h : Hub) (p : Nat) (md : BitVec 4) (act : Packet → Hub → Hub) : Hub :=
  let mine (x : Held) : Bool := (match x.ing with
    | .port q => decide (q.val = p)
    | _ => false) && decide (x.pkt.md = md) && (decide (x.pkt.dst = 0x3FF) || decide (md.toNat ≤ 2))
  match h.sill.mgt.find? mine with
  | none => h
  | some x => act x.pkt { h with sill := { h.sill with mgt := h.sill.mgt.eraseP mine } }

/-! ### HELLO (Table 13.8) -/

/-- A HELLO packet of this end. -/
def Hub.helloPacket (h : Hub) (p ty frag nfrag : Nat) (body : List Byte) : Packet :=
  h.mgt 1 0 (leBytes 1 ty ++ leBytes 1 frag ++ leBytes 1 nfrag ++ [0] ++ fit 4 (h.port p).hello.session ++ body)

/-- A byte string in pieces of 248 bytes. -/
def pieces : Nat → List Byte → List (List Byte)
  | 0, _ => []
  | n + 1, bs => bs.take 248 :: pieces n (bs.drop 248)

/-- The certificate fragments of this end (R351). -/
def certPieces : List (List Byte) := pieces (ceilDiv Config.deviceChain.length 248) Config.deviceChain

/-- A fresh key, nonce and session for an exchange, with the OFFER sent. What the exchange has learned of the far end's identity
stays for a re-key. -/
def Hub.helloOffer (h : Hub) (p : Nat) (keep : Hello) : Hub :=
  let priv := fit 56 (Config.freeBytes h.draw 56)
  let nonce := fit 32 (Config.freeBytes (h.draw + 1) 32)
  let session := fit 4 (Config.freeBytes (h.draw + 2) 4)
  let offer := fit 56 (Config.x448Public priv) ++ nonce
  let h : Hub := { h with draw := h.draw + 3 }
  let h := h.setPort p { h.port p with hello := { keep with priv := priv, offer := offer, session := session } }
  h.sendLocalD p (h.helloPacket p 1 0 1 offer)

/-- The HELLO state is entered (R351, step 1): OFFER and CERT fragments. -/
def Hub.helloStart (h : Hub) (p : Nat) : Hub :=
  let h := h.setLstate p lkHello
  let h := h.helloOffer p {}
  let n := certPieces.length
  (certPieces.zipIdx).foldl (fun h c => h.sendLocalD p (h.helloPacket p 2 c.2 n c.1)) h

/-- This end is side A (R351): its public key is the lower. -/
def Hello.sideA (x : Hello) : Bool := decide (leNat (x.offer.take 56) < leNat (x.peerOffer.take 56))

/-- The transcript digest H (R351). -/
def Port.transcript (q : Port) : List Byte :=
  let x := q.hello
  Config.shake256 64 (if x.sideA then x.offer ++ x.peerOffer ++ Config.deviceChain ++ q.chain
                      else x.peerOffer ++ x.offer ++ q.chain ++ Config.deviceChain)

/-- The keys of both directions, sending first (R352). -/
def Port.linkKeys (q : Port) : LinkKey × LinkKey :=
  let z := Config.x448 q.hello.priv (q.hello.peerOffer.take 56)
  let ks := Config.shake256 72 (z ++ q.transcript)
  let ab : LinkKey := { key := slice ks 0 32, salt := slice ks 64 4 }
  let ba : LinkKey := { key := slice ks 32 32, salt := slice ks 68 4 }
  if q.hello.sideA then (ab, ba) else (ba, ab)

/-- PROOF sent once the far end's OFFER and verified key are known (R351, step 3). -/
def Hub.sendProof (h : Hub) (p : Nat) : Hub :=
  let q := h.port p
  if q.hello.peerOffer = [] ∨ q.hello.peerKey = [] ∨ q.hello.offer = [] ∨ q.hello.sentProof then h
  else
    let body := leBytes 2 h.self.toNat ++ fit 114 (Config.ed448Sign h.sec.identity q.transcript)
    (h.setPort p { q with hello := { q.hello with sentProof := true } }).sendLocalD p (h.helloPacket p 3 0 1 body)

/-- What a completed exchange lets happen (R351 to R353): at bring-up the port seals and becomes ACTIVE; in a re-key DONE goes out
as the last packet under the old key. -/
def Hub.helloCheck (h : Hub) (p : Nat) : Hub :=
  let q := h.port p
  let x := q.hello
  if !(x.sentProof && x.gotProof) || decide (q.waiting ≠ []) then h
  else if h.lstate p = lkHello then
    let k := q.linkKeys
    let x' : Hello := { x with sentProof := false, gotProof := false, priv := [] }
    (h.setPort p { q with tx := k.1, rx := k.2, rxCount := 0, sealing := true, hello := x' }).linkActive p
  else if h.linkUp p && x.rekey && decide (x.nextTx.key ≠ []) then
    match h.sendLocal p (h.helloPacket p 4 0 1 []) with
    | some h =>
      let q := h.port p
      h.setPort p { q with tx := x.nextTx, hello := { q.hello with nextTx := {}, rekey := decide (x.nextRx.key ≠ []) } }
    | none => h
  else h

/-- Re-keying starts at this end (R353): a new OFFER under the current keys. -/
def Hub.rekeyStart (h : Hub) (p : Nat) : Hub :=
  let x := (h.port p).hello
  if h.linkUp p && !x.rekey then
    h.helloOffer p { x with rekey := true, sentProof := false, gotProof := false, peerOffer := [], nextTx := {}, nextRx := {} }
  else h

/-- LINK_REKEY_START (R353): the wright commands it, or the sending counter has reached 2^40. -/
def execLinkRekeyStart (p : Fin 86) (s : State) : Host.Outcome State Fault Refusal := onHub (fun h => h.rekeyStart p.val) s

/-- LINK_COUNTER_EXHAUSTED (R353): a direction's counter has reached 2^41 without a new key. -/
def execLinkCounterExhausted (p : Fin 86) (s : State) : Host.Outcome State Fault Refusal :=
  onHub (fun h =>
    if (h.port p.val).sealing && (decide (2 ^ 41 ≤ (h.port p.val).tx.count) || decide (2 ^ 41 ≤ (h.port p.val).rxCount)) then
      h.takeDown p.val
    else h) s

/-- The kind of a port for the trusted roots: 0 joist, 1 girt, 2 rafter (Table 16.4). -/
def portKind (p : Nat) : Nat := if p < 72 then 0 else if p < 78 then 1 else 2

/-- An OFFER taken. -/
def Hub.helloOfferIn (h : Hub) (p : Nat) (session body : List Byte) : Hub :=
  if body.length ≠ 88 then h
  else
    let h := if h.linkUp p then h.rekeyStart p else h
    let q := h.port p
    (h.setPort p { q with hello := { q.hello with peerOffer := body, peerSession := session } }).sendProof p

/-- A CERT fragment taken; the whole chain is verified once it is there (R351, step 2). -/
def Hub.helloCertIn (h : Hub) (p frag nfrag : Nat) (body : List Byte) : Hub :=
  let q := h.port p
  let frags := tput q.hello.frags frag body
  if h.lstate p ≠ lkHello ∨ nfrag ≤ frag ∨ 248 < body.length then h
  else
    let h := h.setPort p { q with hello := { q.hello with frags := frags, nfrag := nfrag } }
    if frags.length < nfrag then h
    else
      let chain := (frags.map (·.2)).flatten
      match Config.chainCheck chain with
      | some (key, root) =>
        if trusted h.brd.image root (portKind p) then
          (h.setPort p { h.port p with chain := chain, hello := { (h.port p).hello with peerKey := key } }).sendProof p
        else h.bringUpFail p
      | none => h.bringUpFail p

/-- A PROOF taken (R18, R351, step 3). One that fails ends a bring-up; in a re-key it is discarded. -/
def Hub.helloProofIn (h : Hub) (p : Nat) (body : List Byte) : Hub :=
  let q := h.port p
  let node : Node := BitVec.ofNat 10 (leNat (body.take 2))
  let good := decide (body.length = 116) && decide (q.hello.peerOffer ≠ []) && decide (q.hello.peerKey ≠ []) &&
    Config.ed448Verify q.hello.peerKey q.transcript (body.drop 2) && (decide (72 ≤ p) || decide (node = h.joistNode p))
  if good then
    let k := q.linkKeys
    let x := q.hello
    let x : Hello := if x.rekey then { x with gotProof := true, nextTx := k.1, nextRx := k.2 }
             else { x with gotProof := true }
    h.setPort p { q with hello := x, peer := if x.rekey then q.peer else some node }
  else if h.lstate p = lkHello then h.bringUpFail p
  else h

/-- DONE taken: the far end's next packet is under the new key (R353). -/
def Hub.helloDoneIn (h : Hub) (p : Nat) : Hub :=
  let q := h.port p
  if q.hello.rekey && decide (q.hello.nextRx.key ≠ []) then
    h.setPort p { q with rx := q.hello.nextRx, hello := { q.hello with nextRx := {}, rekey := decide (q.hello.nextTx.key ≠ []) } }
  else h

/-- MGT_HELLO (R351, R353). A packet of another session than the far end's OFFER is discarded. -/
def execMgtHello (p : Fin 86) (s : State) : Host.Outcome State Fault Refusal :=
  onHub (fun h => h.takeMgt p.val 1 fun x h =>
    let bs := x.payload
    let ty := leNat (slice bs 0 1)
    let session := slice bs 4 4
    let body := bs.drop 8
    let known := (h.port p.val).hello.peerSession
    if decide (x.dst ≠ 0x3FF) || decide (bs.length < 8) || !(decide (h.lstate p.val = lkHello) || h.linkUp p.val) then h
    else if ty = 1 then (h.helloOfferIn p.val session body).helloCheck p.val
    else if known ≠ session then h
    else if ty = 2 then (h.helloCertIn p.val (leNat (slice bs 1 1)) (leNat (slice bs 2 1)) body).helloCheck p.val
    else if ty = 3 then (h.helloProofIn p.val body).helloCheck p.val
    else if ty = 4 then h.helloDoneIn p.val
    else h) s

/-- HELLO_TIMEOUT (R351, Table 15.2). -/
def execHelloTimeout (p : Fin 86) (s : State) : Host.Outcome State Fault Refusal :=
  onHub (fun h =>
    if h.lstate p.val = lkHello ∧ (h.port p.val).stateAt + 5000000 ≤ h.now then
      (h.setFld (rPstat p.val) 32 8 (min 255 (h.fld (rPstat p.val) 32 8 + 1))).bringUpFail p.val
    else h) s

/-! ### CAP, SOUND, PING and PONG -/

/-- MGT_CAP (R70): a node that differs from the image's or from the far end's PROOF is a bring-up mismatch. -/
def execMgtCap (p : Fin 86) (s : State) : Host.Outcome State Fault Refusal :=
  onHub (fun h => h.takeMgt p.val 2 fun x h =>
    let node : Node := BitVec.ofNat 10 (leNat (slice x.payload 8 8))
    if x.dst ≠ 0x3FF ∨ x.len ≠ 16 ∨ 72 ≤ p.val ∨ ¬ h.linkUp p.val then h
    else if node = h.joistNode p.val ∧ (h.port p.val).peer = some node then
      { h with sill := { h.sill with caps := tset 0 h.sill.caps p.val (leNat (slice x.payload 0 8) % 16 + 16) } }
    else h.bringUpFail p.val) s

/-- A token's payload follows Table 14.10: its length, VERSION, KIND, and zero in every RSV bit. -/
def tokenOk (bs : List Byte) : Bool :=
  let t : Token := { bytes := bs, time := 0 }
  decide (bs.length = 56) && decide (t.num 0 1 = 1) && decide (t.num 1 1 ≤ 1) && decide (t.num 2 2 < 1024) &&
  decide (t.num 4 1 % 16 < 8) && decide (t.num 4 1 < 64) && decide (t.num 5 1 < 32) && decide (t.num 12 1 < 128) &&
  decide (t.num 15 1 = 0) && decide (t.num 25 7 = 0) && decide (t.num 48 1 < 8) && decide (t.num 52 4 = 0)

/-- The order number of a token is the first seen of its slot: orders before it are not new (R391). -/
def Hub.firstSeen (h : Hub) (t : Token) : Hub :=
  let slot := t.num 4 1 / 16
  let h : Hub := if tget 0 h.snd.seenSeq slot = 0 then
      { h with snd := { h.snd with seenSeq := tset 0 h.snd.seenSeq slot (t.num 49 1 + 1) } } else h
  if tget 0 h.snd.seenOvr slot = 0 then { h with snd := { h.snd with seenOvr := tset 0 h.snd.seenOvr slot (t.num 51 1 + 1) } } else h

/-- MGT_SOUND (R381, R382). -/
def execMgtSound (p : Fin 86) (s : State) : Host.Outcome State Fault Refusal :=
  onHub (fun h => h.takeMgt p.val 0 fun x h =>
    if x.dst ≠ 0x3FF ∨ ¬ tokenOk x.payload then h.report fltSnd .corrected 22
    else
      let t : Token := { bytes := x.payload, time := h.now }
      let h : Hub := { h with snd := { h.snd with tokens := tset none h.snd.tokens p.val (some t),
                                                  silent := h.snd.silent.filter fun q => decide (q ≠ p.val) } }
      let h := if 72 ≤ p.val ∧ p.val < 78 ∧ t.num 1 1 = 0 then h.firstSeen t else h
      if t.num 1 1 = 0 ∧ 72 ≤ p.val then h.setPort p.val { h.port p.val with peer := some (BitVec.ofNat 10 (t.num 2 2)) } else h) s

/-- A PONG to a PING (R125): TAG and payload unchanged. -/
def Packet.pongOf (x : Packet) (self dst : Node) : Packet :=
  Packet.sealChk { cls := 4, src := self, dst := dst, md := 4, opc := opcMgt, tag := x.tag, payload := x.payload,
                   part := x.part, kslot := x.kslot, kep := x.kep, flow := x.flow }

/-- The oldest packet of a modifier that is addressed to the hub's own node. -/
def Hub.takeOwnMgt (h : Hub) (md : BitVec 4) (act : Packet → Hub → Hub) : Hub :=
  let mine (x : Held) : Bool := decide (x.pkt.md = md) && decide (x.pkt.dst ≠ 0x3FF)
  match h.sill.mgt.find? mine with
  | none => h
  | some x => act x.pkt { h with sill := { h.sill with mgt := h.sill.mgt.eraseP mine } }

/-- MGT_PING (R125): on a link, or to the hub's own node. -/
def execMgtPing (p : Option (Fin 86)) (s : State) : Host.Outcome State Fault Refusal :=
  onHub (fun h =>
    match p with
    | some p => h.takeMgt p.val 3 fun x h =>
      let pong := x.pongOf h.self 0x3FF
      if h.linkUp p.val && decide (pong.cells ≤ (h.port p.val).credits.getD pong.chan 0) && !h.staged p.val pong.chan then
        h.sendLocalD p.val pong
      else h.count rPingDrop
    | none => h.takeOwnMgt 3 fun x h =>
      let pong := x.pongOf h.self x.src
      let used := ((h.swc.rx.filter fun y => decide (y.ing = .inner) && decide (y.pkt.opc = opcMgt)).map fun y => y.pkt.cells).sum
      if used + pong.cells ≤ 8 + Config.extraLocalCells then h.injectAt .inner pong else h.count rPingDrop) s

/-- MGT_PONG (R125): consumed. -/
def execMgtPong (p : Option (Fin 86)) (s : State) : Host.Outcome State Fault Refusal :=
  onHub (fun h =>
    match p with
    | some p => h.takeMgt p.val 4 fun _ h => h
    | none => h.takeOwnMgt 4 fun _ h => h) s

end Sys2Proof.Machine
end

