-- ==== Sys2Proof/Machine/Scarf.lean ====
section
/-! DEFINITION. Route scarfs (R131 to R137), the packet lifetime (R459) and the sampler's registers (R138, R461). -/
namespace Sys2Proof.Machine

/-! ### Route scarfs -/

/-- The hub with the state of a bank set (Table 4.9). -/
def Hub.setBankState (h : Hub) (b : Bool) (st : Nat) : Hub := h.setFld rScarf (if b then 3 else 1) 2 st

/-- The hub with an entry of a bank set. -/
def Hub.setRoute (h : Hub) (b : Bool) (n : Nat) (e : BitVec 32) : Hub :=
  if b then { h with swc := { h.swc with routes1 := tset 0 h.swc.routes1 n e } }
  else { h with swc := { h.swc with routes0 := tset 0 h.swc.routes0 n e } }

/-- A write of SWC_RT_ENTRY reaches the bank that is not ACTIVE, while it is FREE (R132). -/
def Hub.rtEntryWrite (h : Hub) (n : Nat) (a : Access) : Hub :=
  let b := !h.epoch
  if h.bankState b = bankFreeCode then
    h.setRoute b n ((a.merge (rwMask (rRtEntry n)) ((h.routeEntry b (BitVec.ofNat 10 n)).setWidth 64)).setWidth 32)
  else h

/-- SWC_RT_ENTRY_WRITE (R132). -/
def execSwcRtEntryWrite (n : Fin 1024) (a : Access) (s : State) : Host.Outcome State Fault Refusal :=
  onHub (fun h => h.writeAt (rRtEntry n.val) a fun h => h.rtEntryWrite n.val a) s

/-- REFUSED of SWC_SCARF. -/
def Hub.scarfRefused (h : Hub) : Hub := h.setFld rScarf 11 1 1

/-- COMMIT (R132). -/
def Hub.scarfCommit (h : Hub) : Hub :=
  if h.bankState (!h.epoch) = bankFreeCode then h.setBankState (!h.epoch) bankLoaded else h.scarfRefused

/-- Every bit of PEER_LOADED is 1. -/
def Hub.peersLoaded (h : Hub) : Bool := (List.range 3).all h.peerLoaded
/-- Every bit of PEER_DRAINED is 1. -/
def Hub.peersDrained (h : Hub) : Bool := (List.range 3).all h.peerDrained

/-- FLIP (R133). -/
def Hub.scarfFlip (h : Hub) : Hub :=
  let e := h.epoch
  if h.bankState (!e) = bankLoaded ∧ h.peersLoaded then
    ((h.setBankState (!e) bankActive).setBankState e bankDraining).setFld rScarf 0 1 (bit01 (!e))
  else h.scarfRefused

/-- SCARF_COMMIT (R132). -/
def execScarfCommit (s : State) : Host.Outcome State Fault Refusal :=
  onHub (fun h => if h.regLive rScarfCmd then h.scarfCommit else h) s

/-- SCARF_FLIP (R133). -/
def execScarfFlip (s : State) : Host.Outcome State Fault Refusal :=
  onHub (fun h => if h.regLive rScarfCmd then h.scarfFlip else h) s

/-- BANK_FREE (R135): the held packets of R136 then pass at their next route decision. -/
def execBankFree (s : State) : Host.Outcome State Fault Refusal :=
  onHub (fun h =>
    match h.draining with
    | some b => if h.drainCount b = 0 ∧ h.peersDrained then h.setBankState b bankFreeCode else h
    | none => h) s

/-! ### Lifetime and sampler -/

/-- A write of SWC_PKT_LIFETIME, ignored while the hub is READY (R459). -/
def Hub.lifetimeWrite (h : Hub) (a : Access) : Hub :=
  if h.ready then h else h.setReg rLifetime (a.merge (rwMask rLifetime) (h.reg rLifetime))

/-- SWC_PKT_LIFETIME_WRITE (R459). -/
def execSwcPktLifetimeWrite (a : Access) (s : State) : Host.Outcome State Fault Refusal :=
  onHub (fun h => h.writeAt rLifetime a fun h => h.lifetimeWrite a) s

/-- A write of SWC_SMP_CTL (R138): each port's count starts at a pseudo-random phase when EN is set. -/
def Hub.smpCtlWrite (h : Hub) (a : Access) : Hub :=
  let w := a.merge (rwMask rSmpCtl) (h.reg rSmpCtl)
  let starts := bitAt w 63 && !h.bit rSmpCtl 63
  let k := clampNat (bitsGet w 58 5) 4 20
  let h := h.setReg rSmpCtl w
  if starts then
    let phases : Table Nat := (List.range 86).foldl (fun t p => tset 0 t p ((Config.freeWord (h.draw + p)).toNat % 2 ^ k)) []
    { h with swc := { h.swc with smpCount := phases }, draw := h.draw + 86 }
  else h

/-- SAMPLER_ENABLE (R138). -/
def execSamplerEnable (a : Access) (s : State) : Host.Outcome State Fault Refusal :=
  onHub (fun h => h.writeAt rSmpCtl a fun h => h.smpCtlWrite a) s

/-- A consumer index moves to `v` where it does not pass its producer (Tables 14.8, 17.6). -/
def consNext (prod cons v : Nat) : Nat :=
  if (v + 2 ^ 32 - cons) % 2 ^ 32 ≤ (prod + 2 ^ 32 - cons) % 2 ^ 32 then v else cons

/-- A write of the consumer index in bits [31:0] of a register whose bits [63:32] are its producer. -/
def Hub.consWrite (h : Hub) (o : Nat) (a : Access) : Hub :=
  let v := bitsGet (a.merge (rwMask o) (h.reg o)) 0 32
  h.setFld o 0 32 (consNext (h.fld o 32 32) (h.fld o 0 32) v)

/-- SWC_SMP_IDX_WRITE (R461). -/
def execSwcSmpIdxWrite (a : Access) (s : State) : Host.Outcome State Fault Refusal :=
  onHub (fun h => h.writeAt rSmpIdx a fun h => h.consWrite rSmpIdx a) s

end Sys2Proof.Machine
end

