-- ==== Sys2Proof/Machine/Lanes.lean ====
section
/-! DEFINITION. Lanes and the training of ports (R404, R412 to R418), their tests and margins (R421, R422) and optical modules
(R423). -/
namespace Sys2Proof.Machine

/-! ### Lanes -/

/-- A lane of a port by its number there. -/
def laneOf (p i : Nat) : Nat := 8 * p + i
/-- The port of a lane (R397). -/
def lanePort (l : Nat) : Nat := l / 8
/-- A lane. -/
def Hub.lane (h : Hub) (l : Nat) : Lane := tget {} h.links.lanes l
/-- The hub with a lane set. -/
def Hub.setLane (h : Hub) (l : Nat) (x : Lane) : Hub := { h with links := { h.links with lanes := tset {} h.links.lanes l x } }
/-- Block lock of a lane. -/
def Hub.locked (h : Hub) (l : Nat) : Bool := h.bit (rLstat l) 63
/-- Group lock of a lane. -/
def Hub.grouped (h : Hub) (l : Nat) : Bool := h.bit (rLstat l) 62
/-- F of a lane. -/
def Hub.fom (h : Hub) (l : Nat) : Nat := h.fld (rLstat l) 48 10
/-- A lane carries planks: ACTIVE of its port. -/
def Hub.laneActive (h : Hub) (l : Nat) : Bool := (h.fld (rPstat (lanePort l)) 8 8).testBit (l % 8)
/-- The far transmitter of a port dozes. -/
def Hub.rxDoze (h : Hub) (p : Nat) : Bool := h.bit (rPstat p) 56
/-- DETECT of a port: loss of signal and lock (R414). -/
def Hub.lockMode (h : Hub) (p : Nat) : Bool := h.bit (rPctl p) 62

/-- A state in which the lanes of a port are from ADAPT onwards and their loops run (R414, R422). -/
def Hub.adapted (h : Hub) (p : Nat) : Bool := decide (lkAdapt ≤ h.lstate p) && decide (h.lstate p ≤ lkActive)
/-- A state in which planks flow. -/
def Hub.mission (h : Hub) (p : Nat) : Bool := decide (lkInit ≤ h.lstate p) && decide (h.lstate p ≤ lkActive)

/-- The lanes of a half. -/
def halfLanes (hi : Bool) : List Nat := (List.range 4).map fun i => if hi then 4 + i else i
/-- The half of a lane number. -/
def halfOf (i : Nat) : Bool := decide (4 ≤ i)

/-! ### Training (Table 15.2) -/

/-- Start-up has come to step 11 and the links may train (R439, R442), and neither a DEVICE_FATAL (R376) nor,
for joists, the state RETURNED (Table 13.12) keeps them down. -/
def Hub.mayTrain (h : Hub) (p : Nat) : Bool :=
  decide (0xB ≤ h.phase) && decide (h.phase ≠ phRecovery) && decide (h.plumb.fatal < 2) && h.portPowered p && h.bit (rPctl p) 63
    && !(decide (p < 72) && decide (h.fld rLcyState 61 3 = 3))

/-- DETECT is entered: signal, hunt and training words of its lanes are forgotten, and FAILED is cleared (Table 15.8). The taps start
from the preset again, but for an exit from DEEP, which keeps them (R413, R420). -/
def Hub.enterDetect (h : Hub) (p : Nat) : Hub :=
  let keep := (h.port p).fineAdapt
  let h := (List.range 8).foldl (fun h i =>
    let x := h.lane (laneOf p i)
    let y : Lane := { fomSum := x.fomSum, fomN := x.fomN, fomAt := x.fomAt }
    (h.setLane (laneOf p i) (if keep then { y with taps := x.taps } else y)).setFld (rLstat (laneOf p i)) 60 1 0) h
  h.setLstate p lkDetect

/-- A training failure (R412): DOWN, one failure counted, and a CORRECTED event of the port. -/
def Hub.trainFail (h : Hub) (p : Nat) : Hub :=
  (h.setFld (rPstat p) 32 8 (min 255 (h.fld (rPstat p) 32 8 + 1))).bringUpFail p

/-- SIGNAL_DETECT (Table 15.2): the lanes that have had signal for 10 µs hold a whole half. -/
def execSignalDetect (p : Fin 86) (lanes : BitVec 8) (s : State) : Host.Outcome State Fault Refusal :=
  onHub (fun h =>
    let half (hi : Bool) : Bool := (halfLanes hi).all fun i => lanes.getLsbD i
    if h.lstate p.val = lkDetect ∧ (half false ∨ half true) then
      let h := (List.range 8).foldl (fun h i =>
        let l := laneOf p.val i
        h.setLane l { h.lane l with signalAt := if lanes.getLsbD i then some h.now else none }) h
      h.setLstate p.val lkCdr
    else h) s

/-- CDR_LOCK (Table 15.2). -/
def execCdrLock (p : Fin 86) (s : State) : Host.Outcome State Fault Refusal :=
  onHub (fun h =>
    if h.lstate p.val = lkCdr then
      let h := (List.range 8).foldl (fun h i => h.setLane (laneOf p.val i) { h.lane (laneOf p.val i) with huntAt := h.now }) h
      h.setLstate p.val lkBlock
    else h) s

/-- The INIT state is entered: the INIT plank goes out and is held until acknowledged (R405, R410). -/
def Hub.enterInit (h : Hub) (p : Nat) : Hub :=
  let h := h.setLstate p lkInit
  let q := h.port p
  (h.setPort p { q with initSent := some q.nextSeq, initSeen := false, owed := noCells, owedAt := none, ackAt := none,
                        progressAt := h.now }).pushInit p

/-- ALIGN is left once the lanes of the chosen width have group lock and are deskewed (Table 15.2). -/
def Hub.alignCheck (h : Hub) (p : Nat) : Hub :=
  if h.lstate p = lkAlign ∧ ((List.range 8).all fun i => !h.laneActive (laneOf p i) || h.grouped (laneOf p i)) then h.enterInit p
  else h

/-- BLOCK is left once every lane with signal has block lock; an exit from DEEP keeps its width and goes on in ALIGN (R420). -/
def Hub.blockLockCheck (h : Hub) (p : Nat) : Hub :=
  if h.lstate p = lkBlock ∧ ((List.range 8).all fun i =>
      (h.lane (laneOf p i)).signalAt.isNone || h.locked (laneOf p i)) then
    if (h.port p).fineAdapt then (h.setLstate p lkAlign).alignCheck p else h.setLstate p lkAdapt
  else h

/-- BLOCK_LOCK (R404). -/
def execBlockLock (lane : Fin 688) (s : State) : Host.Outcome State Fault Refusal :=
  onHub (fun h =>
    let p := lanePort lane.val
    if lkBlock ≤ h.lstate p ∧ h.lstate p ≤ lkActive ∧ (h.lane lane.val).signalAt.isSome then
      (h.setFld (rLstat lane.val) 63 1 1).blockLockCheck p
    else h) s

/-- POLARITY_HUNT_TIMEOUT (R404). -/
def execPolarityHuntTimeout (lane : Fin 688) (s : State) : Host.Outcome State Fault Refusal :=
  onHub (fun h =>
    let p := lanePort lane.val
    let x := h.lane lane.val
    if (h.lstate p = lkBlock ∨ h.lstate p = lkAdapt) ∧ ¬ h.locked lane.val ∧ x.signalAt.isSome ∧ x.huntAt + 500000 ≤ h.now then
      (h.setFld (rLstat lane.val) 61 1 (1 - h.fld (rLstat lane.val) 61 1)).setLane lane.val { x with huntAt := h.now }
    else h) s

/-- GROUP_LOCK (R404). -/
def execGroupLock (lane : Fin 688) (s : State) : Host.Outcome State Fault Refusal :=
  onHub (fun h =>
    if h.locked lane.val then (h.setFld (rLstat lane.val) 62 1 1).alignCheck (lanePort lane.val) else h) s

/-! ### Narrowing (R416 to R418) -/

/-- A half of a port holds a failed lane. -/
def Hub.halfFailed (h : Hub) (p : Nat) (hi : Bool) : Bool := (halfLanes hi).any fun i => h.bit (rLstat (laneOf p i)) 60

/-- REQ is sent for a half (Table 15.4, step 1). -/
def Hub.narrowRequest (h : Hub) (p : Nat) (hi : Bool) : Hub :=
  if h.linkUp p && decide (h.fld (rPstat p) 58 2 = 3) && decide ((h.port p).narrow = .none) then
    h.setPort p { h.port p with narrow := .requested, half := hi, narrowAt := h.now }
  else h

/-- A lane has lost block or group lock: CORRECTED under the chiplet of the lane (R397). -/
def Hub.lockLost (h : Hub) (l : Nat) : Hub := h.report (fltSd (laneChip l)) .corrected 45

/-- Lanes marked FAILED: CORRECTED under the chiplet of each (R397). -/
def Hub.markFailed (h : Hub) (ls : List Nat) : Hub :=
  ls.foldl (fun h l => (h.setFld (rLstat l) 60 1 1).report (fltSd (laneChip l)) .corrected 23) h

/-- A lane fails in ACTIVE (R416): CORRECTED under the chiplet of the lane; the port narrows to the other half, or goes down. -/
def Hub.laneFail (h : Hub) (l : Nat) : Hub :=
  let p := lanePort l
  let i := l % 8
  if !h.linkUp p || h.rxDoze p || !h.laneActive l || h.bit (rLstat l) 60 then h
  else
    let h := h.markFailed [l]
    if h.fld (rPstat p) 58 2 ≠ 3 ∨ h.halfFailed p (!(halfOf i)) then h.takeDown p
    else if (h.port p).narrow = .none then h.narrowRequest p (!(halfOf i))
    else if (h.port p).half = halfOf i then h.takeDown p
    else h

/-- A narrowing completes at this end (Table 15.4): ×4 on a half, counted in LNK_LANE_FAIL and, where a lane of this end caused it,
CORRECTED under the chiplet of that lane (R397). A REQ deferred until now that names the other half takes the port down (R418). -/
def Hub.narrowDone (h : Hub) (p : Nat) (hi : Bool) : Hub :=
  let late := (h.port p).deferred
  let h := (h.setFld (rPstat p) 58 2 (if hi then 2 else 1)).setFld (rPstat p) 8 8 (if hi then 0xF0 else 0x0F)
  let h := (h.setPort p { h.port p with narrow := .none, deferred := none }).count (rLaneFail p)
  let h := match ((halfLanes (!hi)).map (laneOf p)).find? fun l => h.bit (rLstat l) 60 with
    | some l => h.report (fltSd (laneChip l)) .corrected 46
    | none => h
  if late = some (!hi) then h.takeDown p else h

/-- BLOCK_LOCK_LOSS (R404, R416, R419). -/
def execBlockLockLoss (lane : Fin 688) (s : State) : Host.Outcome State Fault Refusal :=
  onHub (fun h =>
    let p := lanePort lane.val
    if !h.locked lane.val || h.rxDoze p then h
    else
      let h := h.setFld (rLstat lane.val) 62 2 0
      ((h.setLane lane.val { h.lane lane.val with huntAt := h.now }).lockLost lane.val).laneFail lane.val) s

/-- GROUP_LOCK_LOSS (R404, R416, R419). -/
def execGroupLockLoss (lane : Fin 688) (s : State) : Host.Outcome State Fault Refusal :=
  onHub (fun h =>
    if !h.grouped lane.val || h.rxDoze (lanePort lane.val) then h
    else ((h.setFld (rLstat lane.val) 62 1 0).lockLost lane.val).laneFail lane.val) s

/-- The half in use of a ×4 port. -/
def Hub.usedHalf (h : Hub) (p : Nat) : Bool := decide (h.fld (rPstat p) 58 2 = 2)

/-- NARROW_REQ_RECEIVE (R417, R418). -/
def execNarrowReqReceive (p : Fin 86) (half : Bool) (s : State) : Host.Outcome State Fault Refusal :=
  onHub (fun h =>
    let q := h.port p.val
    if !h.linkUp p.val then h
    else match q.narrow with
      | .none =>
        if h.fld (rPstat p.val) 58 2 ≠ 3 then (if h.usedHalf p.val = half then h else h.takeDown p.val)
        else if h.halfFailed p.val half then h.takeDown p.val
        else h.setPort p.val { q with narrow := .responding, half := half }
      | .requested =>
        if q.half ≠ half then h.takeDown p.val
        else if q.hello.sideA then h
        else h.setPort p.val { q with narrow := .responding }
      | .responding => h.setPort p.val { q with deferred := some half }) s

/-- NARROW_ACK_RECEIVE (Table 15.4, step 3). -/
def execNarrowAckReceive (p : Fin 86) (half : Bool) (s : State) : Host.Outcome State Fault Refusal :=
  onHub (fun h =>
    let q := h.port p.val
    if h.linkUp p.val && decide (q.narrow = .requested) && decide (q.half = half) then h.narrowDone p.val half else h) s

/-- NARROW_COMMIT_RECEIVE (Table 15.4, step 4). -/
def execNarrowCommitReceive (p : Fin 86) (half : Bool) (s : State) : Host.Outcome State Fault Refusal :=
  onHub (fun h =>
    let q := h.port p.val
    if h.linkUp p.val && decide (q.narrow = .responding) && decide (q.half = half) then h.narrowDone p.val half else h) s

/-- NARROW_ACK_TIMEOUT (R417). -/
def execNarrowAckTimeout (p : Fin 86) (s : State) : Host.Outcome State Fault Refusal :=
  onHub (fun h =>
    let q := h.port p.val
    if h.linkUp p.val && decide (q.narrow = .requested) && decide (q.narrowAt + 10000 ≤ h.now) then h.takeDown p.val else h) s

/-! ### Adaptation (R413 to R415) -/

/-- The lanes of a port exchanged end for end: its lane numbering is reversed (R413). -/
def Hub.reverseLanes (h : Hub) (p : Nat) : Hub :=
  let olds := (List.range 8).map fun i => (h.reg (rLstat (laneOf p i)), h.lane (laneOf p i))
  let h := (List.range 8).foldl (fun h i =>
    let o := olds.getD (7 - i) (0, {})
    (h.setReg (rLstat (laneOf p i)) o.1).setLane (laneOf p i) o.2) h
  h.setFld (rPstat p) 55 1 1

/-- The lane numbers read so far run in reverse order. -/
def Hub.runsReverse (h : Hub) (p : Nat) : Bool :=
  let known := (List.range 8).filterMap fun i => (h.lane (laneOf p i)).number.map fun n => (i, n)
  decide (2 ≤ known.length) && known.all fun x => decide (x.2 = 7 - x.1)

/-- The preset in force at a port's transmitters (Table 15.6). -/
def Hub.presetOf (h : Hub) (p : Nat) : Nat := min 9 (h.fld (rPctl p) 0 4)

/-- A tap at a step from its preset after a request (Table 15.3): its step, and what COEF_STAT says of it. -/
def tapStep (span : Nat × Nat) (t : Int) (req : Nat) : Int × Nat :=
  if req = 1 then (if t < span.2 then (t + 1, 1) else (t, 3))
  else if req = 2 then (if -(span.1 : Int) < t then (t - 1, 1) else (t, 2))
  else if req = 3 then (0, 1)
  else (t, 0)

/-- A transmitter whose taps have taken the requests of a training word (R413). -/
def Lane.tuned (x : Lane) (preset : Nat) (req : BitVec 8) : Lane :=
  let ts := (List.range 4).map fun i => tapStep (Config.tapSpan preset i) (x.taps.getD i 0) (req.toNat / 4 ^ i % 4)
  { x with taps := ts.map (·.1), coefStat := (ts.getD 0 (0, 0)).2 + 4 * (ts.getD 1 (0, 0)).2 + 16 * (ts.getD 2 (0, 0)).2 + 64 * (ts.getD 3 (0, 0)).2 }

/-- TRAINING_WORD_RECEIVE (R413). A word without the MAGIC of Table 15.3 is ignored. -/
def execTrainingWordReceive (lane : Fin 688) (w : TrainingWord) (s : State) : Host.Outcome State Fault Refusal :=
  onHub (fun h =>
    let p := lanePort lane.val
    if w.magic ≠ 0x4B1A ∨ h.lstate p < lkCdr ∨ lkAdapt < h.lstate p then h
    else
      let x := (h.lane lane.val).tuned (h.presetOf p) w.coefReq
      let h := h.setLane lane.val { x with ready := w.ready, widths := w.widths.toNat, number := some w.lane.toNat }
      let h := h.setPort p { h.port p with offers := w.widths.toNat }
      if !h.bit (rPstat p) 55 && h.runsReverse p then h.reverseLanes p else h) s

/-- A lane fails adaptation: no block lock, or F below 384 where F drives it (R414, R415). -/
def Hub.adaptFailed (h : Hub) (l : Nat) : Bool :=
  !h.locked l || (!h.lockMode (lanePort l) && decide (h.fom l < 384))

/-- The width that a port trains at (R415): a code of WIDTH, 0 where no half will do. -/
def Hub.chooseWidth (h : Hub) (p : Nat) : Nat :=
  let good (hi : Bool) : Bool := (halfLanes hi).all fun i => !h.adaptFailed (laneOf p i)
  let offers := (h.port p).offers
  if good false && good true && offers.testBit 0 then 3
  else if good false && offers.testBit 1 then 1
  else if good true && offers.testBit 2 then 2
  else 0

/-- The training word that a lane sends in CDR, BLOCK and ADAPT (R413 to R415, Table 15.3): READY while its figure of merit, or in DETECT
mode 1 its block lock, allows; the widths of the halves that have signal; in mode 1 no tap requests. -/
def Hub.trainingWord (h : Hub) (l : Nat) : TrainingWord :=
  let p := lanePort l
  let half (hi : Bool) : Bool := (halfLanes hi).all fun i => (h.lane (laneOf p i)).signalAt.isSome
  { magic := 0x4B1A, lane := BitVec.ofNat 3 (l % 8), ready := !h.adaptFailed l,
    widths := BitVec.ofBool (half true) ++ BitVec.ofBool (half false) ++ BitVec.ofBool (half false && half true),
    preset := BitVec.ofNat 4 (h.presetOf p), coefReq := if h.lockMode p then 0 else Config.tapRequest l h.now,
    coefStat := BitVec.ofNat 8 (h.lane l).coefStat, fom := BitVec.ofNat 10 (h.fom l) }

/-- The lanes of a WIDTH code as a mask. -/
def widthLanes (w : Nat) : Nat := if w = 3 then 0xFF else if w = 1 then 0x0F else if w = 2 then 0xF0 else 0

/-- ADAPT_DONE (R415): both ends show READY on every lane that they keep. -/
def execAdaptDone (p : Fin 86) (s : State) : Host.Outcome State Fault Refusal :=
  onHub (fun h =>
    let w := h.chooseWidth p.val
    let kept := (List.range 8).filter (widthLanes w).testBit
    if h.lstate p.val = lkAdapt ∧ w ≠ 0 ∧ (kept.all fun i => (h.lane (laneOf p.val i)).ready) then
      let h := h.markFailed (((List.range 8).map (laneOf p.val)).filter h.adaptFailed)
      let h := (h.setFld (rPstat p.val) 58 2 w).setFld (rPstat p.val) 8 8 (widthLanes w)
      (h.setLstate p.val lkAlign).alignCheck p.val
    else h) s

/-- The timeout of a training state in ns (Table 15.2); none where it has none, or a row of its own. -/
def trainTimeout (st : Nat) : Option Nat :=
  if st = lkCdr then some 1000000 else if st = lkBlock then some 2000000 else if st = lkAdapt then some 150000000
  else if st = lkAlign then some 1000000 else if st = lkInit then some 100000 else none

/-- TRAINING_TIMEOUT (R412). -/
def execTrainingTimeout (p : Fin 86) (s : State) : Host.Outcome State Fault Refusal :=
  onHub (fun h =>
    match trainTimeout (h.lstate p.val) with
    | some t => if (h.port p.val).stateAt + t ≤ h.now then h.trainFail p.val else h
    | none => h) s

/-- DOWN_RETRY_EXPIRY (R412). -/
def execDownRetryExpiry (p : Fin 86) (s : State) : Host.Outcome State Fault Refusal :=
  onHub (fun h =>
    if h.lstate p.val = lkDown ∧ (h.port p.val).stateAt + 100000000 ≤ h.now ∧ h.mayTrain p.val then h.enterDetect p.val else h) s

/-- The figure of merit (R414); free where the amplitude is so small that the formula divides by zero. -/
def Hub.meritOf (h : Hub) (height amplitude : Nat) : Nat :=
  if amplitude / 3 = 0 then h.drawn.toNat % 1024 else min 1023 (1024 * height / (amplitude / 3))

/-- One more figure of merit in the lane's 1-minute mean, and the lowest mean and the ports at ×4 for the wear log (Table 14.17). -/
def Hub.wearMerit (h : Hub) (l f : Nat) : Hub :=
  let p := lanePort l
  let w := h.fld (rPstat p) 58 2
  let h : Hub := if h.linkUp p && (decide (w = 1) || decide (w = 2)) && !h.wear.narrowed.contains p then
    { h with wear := { h.wear with narrowed := h.wear.narrowed ++ [p] } } else h
  let x := h.lane l
  let sum := x.fomSum + f
  let n := x.fomN + 1
  if x.fomAt + 60000000000 ≤ h.now then
    let mean := sum / n
    let h := h.setLane l { x with fomSum := 0, fomN := 0, fomAt := h.now }
    if h.laneActive l && decide (mean < h.wear.fomMin) then { h with wear := { h.wear with fomMin := mean, fomPort := p } } else h
  else h.setLane l { x with fomSum := sum, fomN := n }

/-- FOM_MEASURE (R414). -/
def execFomMeasure (lane : Fin 688) (height amplitude : Nat) (s : State) : Host.Outcome State Fault Refusal :=
  onHub (fun h =>
    if h.adapted (lanePort lane.val) then
      let f := h.meritOf height amplitude
      ((h.redraw).setFld (rLstat lane.val) 48 10 f).wearMerit lane.val f
    else h) s

/-! ### Control registers -/

/-- A port switched off (R17, R420): what it held is discarded as when it goes down. -/
def Hub.portOff (h : Hub) (p : Nat) : Hub := ((h.takeDown p).setLstate p lkOff).setFld (rPstat p) 0 16 0

/-- An exit from DEEP (R420): training without HELLO. -/
def Hub.deepExit (h : Hub) (p : Nat) : Hub :=
  if h.lstate p = lkDeep then (h.setPort p { h.port p with fineAdapt := true }).enterDetect p else h

/-- A write of LNK_PCTL (Table 15.6): EN starts training from OFF or returns the port there, RETRAIN takes it down, REKEY re-keys
it, and PSTATE 0 ends DEEP. -/
def Hub.pctlWrite (h : Hub) (p : Nat) (a : Access) : Hub :=
  let v := a.value &&& a.half.lanes
  let h := h.setReg (rPctl p) (a.merge (rwMask (rPctl p)) (h.reg (rPctl p)))
  let h := if !h.bit (rPctl p) 63 then (if h.lstate p = lkOff then h else h.portOff p)
           else if h.lstate p = lkOff ∧ h.mayTrain p then h.enterDetect p else h
  let h := if bitAt v 58 then h.takeDown p else h
  let h := if bitAt v 57 then h.rekeyStart p else h
  if h.fld (rPctl p) 60 2 % 3 = 0 then h.deepExit p else h

/-- LNK_PCTL_ENABLE (R412). -/
def execLnkPctlEnable (p : Fin 86) (a : Access) (s : State) : Host.Outcome State Fault Refusal :=
  onHub (fun h => h.writeAt (rPctl p.val) a fun h => h.pctlWrite p.val a) s

/-- LNK_PCTL_RETRAIN (R412). -/
def execLnkPctlRetrain (p : Fin 86) (a : Access) (s : State) : Host.Outcome State Fault Refusal :=
  onHub (fun h => h.writeAt (rPctl p.val) a fun h => h.pctlWrite p.val a) s

/-! ### PRBS, margins and modules (R421 to R423) -/

/-- The port of a lane accepts LNK_PRBS writes: OFF or DOWN. -/
def Hub.prbsOpen (h : Hub) (l : Nat) : Bool := decide (h.lstate (lanePort l) = lkOff) || decide (h.lstate (lanePort l) = lkDown)

/-- The loops and driver of a lane run for a test though its port is OFF: GEN_EN, CHK_EN or LOOP is set, and LOOP 3 acts as 0 (R421). -/
def Hub.laneTested (h : Hub) (l : Nat) : Bool :=
  decide (h.lstate (lanePort l) = lkOff) && (h.bit (rPrbs l) 63 || h.bit (rPrbs l) 62 || decide (h.fld (rPrbs l) 58 2 % 3 ≠ 0))

/-- One transmitted bit inverted: in a near-end loop the synchronised checker of the lane counts it. -/
def Hub.prbsInvert (h : Hub) (l : Nat) : Hub :=
  if h.bit (rPrbs l) 63 && h.bit (rPrbs l) 62 && h.bit (rPrbs l) 51 && decide (h.fld (rPrbs l) 58 2 = 1) then
    h.setFld (rPrbs l) 0 32 (min (h.fld (rPrbs l) 0 32 + 1) (2 ^ 32 - 1))
  else h

/-- A write of LNK_PRBS (R421): a checker that is started or stopped loses its synchronisation. -/
def Hub.prbsWrite (h : Hub) (l : Nat) (a : Access) : Hub :=
  if !h.prbsOpen l then h
  else
    let was := h.bit (rPrbs l) 62
    let h := h.setReg (rPrbs l) (a.merge (rwMask (rPrbs l)) (h.reg (rPrbs l)))
    let h := if h.bit (rPrbs l) 62 && was then h else h.setFld (rPrbs l) 51 1 0
    if bitAt (a.value &&& a.half.lanes) 57 then h.prbsInvert l else h

/-- LNK_PRBS_WRITE (R421). -/
def execLnkPrbsWrite (lane : Fin 688) (a : Access) (s : State) : Host.Outcome State Fault Refusal :=
  onHub (fun h => h.writeAt (rPrbs lane.val) a fun h => h.prbsWrite lane.val a) s

/-- PRBS_INJECT (R421): INJ written alone. -/
def execPrbsInject (lane : Fin 688) (s : State) : Host.Outcome State Fault Refusal :=
  onHub (fun h => if h.prbsOpen lane.val && h.regLive (rPrbs lane.val) then h.prbsInvert lane.val else h) s

/-- PRBS_CHECKER_SYNC (R421). -/
def execPrbsCheckerSync (lane : Fin 688) (s : State) : Host.Outcome State Fault Refusal :=
  onHub (fun h =>
    if h.bit (rPrbs lane.val) 62 && !h.bit (rPrbs lane.val) 51 && h.prbsOpen lane.val then
      (h.setFld (rPrbs lane.val) 51 1 1).setFld (rPrbs lane.val) 0 32 0
    else h) s

/-- MARGIN_SAMPLE (R422). -/
def execMarginSample (lane : Fin 688) (vmarg hmarg : Nat) (s : State) : Host.Outcome State Fault Refusal :=
  onHub (fun h =>
    if h.adapted (lanePort lane.val) then
      (h.setFld (rLstat lane.val) 40 8 (min vmarg 255)).setFld (rLstat lane.val) 32 8 (min hmarg 255)
    else h) s

/-- The integer part of the logarithm to base 10, by at most `fuel` divisions. -/
def log10 : Nat → Nat → Nat
  | 0, _ => 0
  | k + 1, n => if n < 10 then 0 else log10 k (n / 10) + 1

/-- Received power in 0.1 dBm from units of 0.1 µW (R423): round(100 × (log10 v - 4)), or -400 for 0. -/
def powerOf (v : Nat) : Int := if v = 0 then -400 else (((log10 1000 (v ^ 200) + 1) / 2 : Nat) : Int) - 400

/-- MODULE_POLL (R423): a module that fails to answer is not PRESENT until a read succeeds. -/
def execModulePoll (x : Fin 8) (r : Option ModuleRead) (s : State) : Host.Outcome State Fault Refusal :=
  onHub (fun h =>
    if !h.regLive (rMod x.val) then h
    else match r with
    | none => h.setFld (rMod x.val) 63 1 0
    | some m =>
      let ps := m.powers.map fun v => powerOf v.toNat
      let low := ps.foldl min (ps.headD (-400))
      let h := (h.setFld (rMod x.val) 63 1 1).setFld (rMod x.val) 62 1 (bit01 m.alarm)
      ((h.setFld (rMod x.val) 32 16 (ofInt 16 low)).setFld (rMod x.val) 8 8 m.temp.toNat).setFld (rMod x.val) 0 8 m.state.toNat) s

/-- MODULE_INSERTION (R423). -/
def execModuleInsertion (x : Fin 8) (alarm : BitVec 16) (s : State) : Host.Outcome State Fault Refusal :=
  onHub (fun h => if h.regLive (rMod x.val) then h.setFld (rMod x.val) 16 16 (ofInt 16 (powerOf alarm.toNat)) else h) s

end Sys2Proof.Machine
end

