-- ==== Sys2Proof/Machine/Planks.lean ====
section
/-! DEFINITION. Planks: receipt, acknowledgement, replay and credits (R401, R403, R405 to R410), and the low-power states (R419,
R420). -/
namespace Sys2Proof.Machine

/-! ### Low-power states (R419, R420) -/

/-- A packet waits for the transmitter of a port. -/
def Hub.hasPackets (h : Hub) (p : Nat) : Bool :=
  ((List.range 5).any fun c => decide (h.qlist p c ≠ [])) || decide ((h.port p).waiting ≠ [])

/-- A transmitter stops dozing: what it owes goes out, and packets that wait for credit. -/
def Hub.txWake (h : Hub) (p : Nat) : Hub :=
  if h.bit (rPstat p) 57 then
    let h := h.setFld (rPstat p) 57 1 0
    let h := h.setPort p { h.port p with idleAt := h.now }
    (h.flushOwed p).drainLocal p ((h.port p).waiting.length + 1)
  else h

/-- The 4 µs without progress of the acknowledged PSEQ have passed (R409). -/
def Hub.replayDue (h : Hub) (p : Nat) : Bool :=
  decide ((h.port p).unacked ≠ []) && decide ((h.port p).progressAt + 4000 ≤ h.now)

/-- A wake event (R419). -/
def Hub.wakeEvent (h : Hub) (p : Nat) : Bool :=
  let q := h.port p
  let late (t : Option Nat) : Bool := match t with
    | some t => decide (t + 1000 ≤ h.now)
    | none => false
  h.hasPackets p || (q.owed.any fun c => decide (8 ≤ c)) || late q.owedAt || late q.ackAt || q.wantReplay || h.replayDue p

/-- The transmitter of a port may doze (R419): DOZE_EN, idle for DOZE_IDLE, nothing owed, and no wake event. -/
def Hub.mayDoze (h : Hub) (p : Nat) : Bool :=
  let q := h.port p
  h.linkUp p && h.bit (rPctl p) 59 && !h.bit (rPstat p) 57 && decide (q.idleAt + h.fld (rPctl p) 32 16 ≤ h.now) &&
    decide (q.owed = noCells) && q.ackAt.isNone && !h.wakeEvent p && decide (q.narrow = .none) && decide (q.unacked.length < 1024)

/-- DOZE_ENTER (R419): the DOZE plank, and the driver idles. -/
def execDozeEnter (p : Fin 86) (s : State) : Host.Outcome State Fault Refusal :=
  onHub (fun h => if h.mayDoze p.val then (h.pushPlanks p.val 1).setFld (rPstat p.val) 57 1 1 else h) s

/-- DOZE_WAKE (R419). -/
def execDozeWake (p : Fin 86) (s : State) : Host.Outcome State Fault Refusal :=
  onHub (fun h => if h.linkUp p.val && h.wakeEvent p.val then h.txWake p.val else h) s

/-- DEEP is entered (R420): both directions idle, and the port counts as down. Keys, counters and equaliser settings stay. -/
def Hub.enterDeep (h : Hub) (p : Nat) : Hub :=
  let h := (h.setLstate p lkDeep).setFld (rPstat p) 56 2 0
  let h := h.dropLocks p
  let h := h.setPort p { h.port p with deepReq := none, unacked := [], owed := noCells, owedAt := none, ackAt := none,
                                       wantReplay := false, rplSent := false, replays := 0 }
  let h : Hub := { h with swc := { h.swc with returning := h.swc.returning.filter fun x => decide (x ≠ p) } }
  if p < 72 then h.detourStart p else h.moveAway p

/-- PSTATE of a port; 0b11 acts as 0. -/
def Hub.pstate (h : Hub) (p : Nat) : Nat := h.fld (rPctl p) 60 2 % 3

/-- DEEP_REQUEST (R420): a DOZE plank with DEEP = 1. -/
def execDeepRequest (p : Fin 86) (s : State) : Host.Outcome State Fault Refusal :=
  onHub (fun h =>
    let q := h.port p.val
    if h.linkUp p.val && decide (h.pstate p.val = 2) && decide (q.unacked = []) && !h.hasPackets p.val && q.deepReq.isNone &&
        decide (q.narrow = .none) then
      let h := (h.pushPlanks p.val 1).setFld (rPstat p.val) 57 1 1
      h.setPort p.val { h.port p.val with deepReq := some h.now }
    else h) s

/-- DEEP_REQUEST_TIMEOUT (R420): the port goes on as one that dozes. -/
def execDeepRequestTimeout (p : Fin 86) (s : State) : Host.Outcome State Fault Refusal :=
  onHub (fun h =>
    match (h.port p.val).deepReq with
    | some t => if t + 10000 ≤ h.now then h.setPort p.val { h.port p.val with deepReq := none } else h
    | none => h) s

/-- DEEP_EXIT (R420): at either end. -/
def execDeepExit (p : Fin 86) (s : State) : Host.Outcome State Fault Refusal := onHub (fun h => h.deepExit p.val) s

/-- A DOZE plank taken (R419, R420): the far transmitter dozes; a port with PSTATE 1 and nothing to send accepts DEEP, and an
answered request enters it. -/
def Hub.takeDoze (h : Hub) (p : Nat) (deep deepAck : Bool) : Hub :=
  let h := h.setFld (rPstat p) 56 1 1
  if deepAck && (h.port p).deepReq.isSome then h.enterDeep p
  else if deep && decide (h.pstate p = 1) && !h.hasPackets p && h.linkUp p && decide ((h.port p).unacked.length < 1024) then
    (h.pushPlanks p 1).enterDeep p
  else h

/-! ### Acknowledgement and replay (R408, R409) -/

/-- An ACK taken: the planks up to it are released, and their packets leave the hub (R134). -/
def Hub.takeAck (h : Hub) (p : Nat) (ack : Nat) : Hub :=
  let q := h.port p
  match q.unacked.findIdx? fun k => decide (k.pseq = ack) with
  | none => h
  | some i =>
    let at_ := ((q.unacked[i]?).map (·.at_)).getD h.now
    h.setPort p { q with unacked := q.unacked.drop (i + 1), progressAt := h.now, replays := 0, rtt := h.now - at_ }

/-- One error of S_E (R383), kept for the last 1 ms: kind 0 a corrected codeword, 1 a replay. -/
def Hub.noteErr (h : Hub) (p kind : Nat) : Hub :=
  let l := (h.now, kind) :: ((tget [] h.snd.errs p).filter fun e => decide (h.now < e.1 + 1000000))
  { h with snd := { h.snd with errs := tset [] h.snd.errs p l } }

/-- The stored planks sent again (R409); after 8 successive replays without progress the port goes down instead. -/
def Hub.replay (h : Hub) (p : Nat) : Hub :=
  let q := h.port p
  if 8 ≤ q.replays then h.takeDown p
  else
    let h := h.setFld (rPstat p) 57 1 0
    let again := h.codePlanks p (q.unacked.map fun (k : SentPlank) => ({ k with at_ := h.now } : SentPlank))
    let q' : Port := { q with replays := q.replays + 1, resentAt := h.now, wantReplay := false, progressAt := h.now, unacked := again }
    (((h.planksSent p again.length).setPort p q').count (rReplay p)).noteErr p 1

/-- REPLAY_RESEND (R409): at most once per round trip. -/
def execReplayResend (p : Fin 86) (s : State) : Host.Outcome State Fault Refusal :=
  onHub (fun h =>
    let q := h.port p.val
    if h.mission p.val && q.wantReplay && decide (q.unacked ≠ []) && decide (q.resentAt + q.rtt ≤ h.now) then h.replay p.val else h) s

/-- REPLAY_TIMER_EXPIRY (R409). -/
def execReplayTimerExpiry (p : Fin 86) (s : State) : Host.Outcome State Fault Refusal :=
  onHub (fun h => if h.mission p.val && h.replayDue p.val then h.replay p.val else h) s

/-! ### Packets of the stream (R406, R407) -/

/-- The virtual channel of a received packet; a reserved CLASS uses that of CLASS mod 5 until it is refused. -/
def Packet.rxChan (x : Packet) : Nat := 2 * (x.cls.toNat % 5) + bit01 x.ph

/-- A packet that has arrived whole on a port (R106, R134). -/
def Hub.arrive (h : Hub) (p : Fin 86) (x : Packet) : Hub :=
  let x := if 72 ≤ p.val ∧ p.val < 78 then x else { x with rep := h.epoch }
  let y : Held := { pid := h.swc.nextPid, ing := .port p, vc := x.rxChan, at_ := h.now, pkt := x }
  { h with swc := { h.swc with nextPid := h.swc.nextPid + 1, rx := h.swc.rx ++ [y] } }

/-- A HELLO packet of TYPE DONE ends the far end's use of its key: its counter starts again (R353). -/
def Packet.isDone (x : Packet) : Bool := decide (x.opc = opcMgt) && decide (x.md = 1) && decide (x.payload.head? = some 4)

/-- A failed tag (R353, R407): replay is requested from the plank that holds the packet's first byte, `back` planks before. -/
def Hub.tagFailed (h : Hub) (p back : Nat) : Hub :=
  let q := h.port p
  let ts := h.now :: (q.tagFails.filter fun t => decide (h.now < t + 1000000))
  let h := (h.setPort p { q with tagFails := ts, rplSent := true, expect := (q.expect + 4096 - back % 4096) % 4096 }).count (rTagFail p)
  if 16 ≤ ts.length then (h.takeDown p).report (fltSd (portChip p)) .contained 24 else h

/-- The packets that end in a plank, in order: `false` where a tag fails (R406 to R408). Before the exchange completes only HELLO
travels, in the clear; a packet below the expected counter is discarded without error. -/
def Hub.takePackets (h : Hub) (p : Fin 86) : List SealedPacket → Hub × Bool
  | [] => (h, true)
  | k :: ks =>
    let q := h.port p.val
    if !k.sealed && !q.sealing then
      (if k.pkt.opc = opcMgt ∧ k.pkt.md = 1 then h.arrive p k.pkt else h).takePackets p ks
    else if k.sealed && decide (k.counter < q.rxCount) then h.takePackets p ks
    else if !k.sealed || !k.tagOk || decide (k.counter ≠ q.rxCount) then (h.tagFailed p.val k.back, false)
    else
      let n := if k.pkt.isDone && q.hello.rekey then 0 else q.rxCount + 1
      ((h.setPort p.val { q with rxCount := n }).arrive p k.pkt).takePackets p ks

/-! ### Receipt of a plank -/

/-- A plank is sequenced (R405). -/
def PlankBody.sequenced : PlankBody → Bool
  | .data _ => true
  | .init _ => true
  | .doze _ _ => true
  | .fill => false
  | .reserved => false

/-- The next expected plank accepted: ACK covers it, and RPL ends. -/
def Hub.acceptPlank (h : Hub) (p : Nat) : Hub :=
  let q := h.port p
  h.setPort p { q with expect := (q.expect + 1) % 4096, rplSent := false,
                       ackAt := if h.bit (rPstat p) 57 then some (q.ackAt.getD h.now) else none }

/-- A plank discarded: RPL is set until the expected one arrives. -/
def Hub.discardPlank (h : Hub) (p : Nat) : Hub := h.setPort p { h.port p with rplSent := true }

/-- INIT is left once each end's INIT plank is acknowledged (Table 15.2). A port that comes out of DEEP is then ACTIVE. -/
def Hub.initCheck (h : Hub) (p : Nat) : Hub :=
  let q := h.port p
  let acked : Bool := match q.initSent with
    | some n => !(q.unacked.any fun k => decide (k.pseq = n))
    | none => false
  if h.lstate p = lkInit ∧ acked ∧ q.initSeen then
    if q.fineAdapt then (h.setPort p { q with fineAdapt := false, initSent := none }).linkActive p
    else (h.setPort p { q with initSent := none }).helloStart p
  else h

/-- The body of an accepted plank. The credits of an INIT plank count to the 64 cells that a receiver may advertise (R57, R410). -/
def Hub.takeBody (h : Hub) (p : Fin 86) (k : Plank) : Hub :=
  match k.body with
  | .data ps =>
    let (h, good) := h.takePackets p ps
    if !good then h
    else
      let h := h.acceptPlank p.val
      let q := h.port p.val
      if k.crVc.toNat < 10 then h.setPort p.val { q with credits := refund q.credits k.crVc.toNat k.crCells.toNat } else h
  | .init cs =>
    let h := h.acceptPlank p.val
    if h.lstate p.val = lkInit then
      h.setPort p.val { h.port p.val with initSeen := true, credits := ((cs ++ noCells).take 10).map (min 64) }
    else h
  | .doze deep deepAck => (h.acceptPlank p.val).takeDoze p.val deep deepAck
  | .fill => h
  | .reserved => h

/-- The far transmitter has woken: a plank other than DOZE. -/
def Hub.rxWake (h : Hub) (p : Nat) (b : PlankBody) : Hub :=
  match b with
  | .doze _ _ => h
  | _ => h.setFld (rPstat p) 56 1 0

/-- A decoded plank (R408). -/
def Hub.takePlank (h : Hub) (p : Fin 86) (k : Plank) : Hub :=
  if k.body = .reserved then h
  else if k.body.sequenced && decide (k.pseq.toNat ≠ (h.port p.val).expect) then h.discardPlank p.val
  else
    let h := (h.rxWake p.val k.body).takeAck p.val k.ack.toNat
    let h := if k.rpl then h.setPort p.val { h.port p.val with wantReplay := decide ((h.port p.val).unacked ≠ []) } else h
    let h := (h.takeBody p k).initCheck p.val
    (h.drainLocal p.val ((h.port p.val).waiting.length)).helloCheck p.val

/-- A codeword that does not decode (R403, R416). -/
def Hub.badCodeword (h : Hub) (p l : Nat) : Hub :=
  let n := (h.lane l).uncorr + 1
  let h := ((h.count (rCwUncorr p)).discardPlank p).setLane l { h.lane l with uncorr := n }
  if 8 ≤ n then h.laneFail l else h

/-- PLANK_RECEIVE (R401, R403, R405 to R410). -/
def execPlankReceive (p : Fin 86) (k : Plank) (s : State) : Host.Outcome State Fault Refusal :=
  onHub (fun h =>
    let l := laneOf p.val k.lane.val
    if !h.mission p.val || !h.laneActive l then h
    else if !k.decoded then h.badCodeword p.val l
    else
      let h := h.setLane l { h.lane l with uncorr := 0 }
      let h := if k.symbols = 0 then h
               else ((h.count (rCwCorr p.val)).countBy (rSymCorr p.val) (min k.symbols 8)).noteErr p.val 0
      h.takePlank p k) s

end Sys2Proof.Machine
end

