-- ==== Sys2Proof/Machine/Faults.lean ====
section
/-! DEFINITION. The plumb's commands (R372 to R380) and the wear log (R394 to R396). -/
namespace Sys2Proof.Machine

/-- A block whose checkers are the hub's own internal ones (R384): frame, bridge, switch core, routes, pegs, mortises, sawpits,
kerfs, bays, Scribe and pool memory. -/
def internalSrc (s : Nat) : Bool := (decide (8 ≤ s) && decide (s ≤ 12)) || (decide (14 ≤ s) && decide (s ≤ 34))

/-- FAULT_EVENT (R372 to R378): detected by a block's checker or a sensor. -/
def execFaultEvent (src : Fin 47) (cls : FaultClass) (checker : BitVec 16) (d0 d1 d2 d3 : Word) (s : State) :
    Host.Outcome State Fault Refusal :=
  onHub (fun h =>
    if h.brd.aonReset then h
    else
      let h := h.fault src.val cls checker [d0, d1, d2, d3]
      if cls = .contained ∧ internalSrc src.val then
        { h with plumb := { h.plumb with internal := h.now :: h.plumb.internal.filter fun t => decide (h.now < t + 10000000) } }
      else h) s

/-- FAULT_N is driven low (R377, R475): in a pulse, while HOLD is set, or until the AON power-on reset ends. -/
def Hub.faultLow (h : Hub) : Bool :=
  h.brd.supplies && (h.brd.aonReset || h.plumb.pulse.isSome || h.bit rFltPin 0)

/-- SMB_ALERT_N is driven low (R477). -/
def Hub.smbAlertLow (h : Hub) : Bool := h.bit rFltFirst 63

/-- MODx_RST_N is driven low (R475). -/
def Hub.moduleResetLow (h : Hub) : Bool := h.brd.supplies && !h.brd.resetN
/-- MODx_LPMODE is driven high: while RESET_N is low (R475), and while the rafter port has EN = 0 (R423). -/
def Hub.moduleLowPower (h : Hub) (x : Nat) : Bool := h.brd.supplies && (!h.brd.resetN || !h.bit (rPctl (78 + x)) 63)

/-- FAULT_PULSE_END (R377). -/
def execFaultPulseEnd (s : State) : Host.Outcome State Fault Refusal :=
  onHub (fun h =>
    match h.plumb.pulse with
    | some t => if t ≤ h.now then { h with plumb := { h.plumb with pulse := none } } else h
    | none => h) s

/-- A write of FLT_FIRST (R373): clearing VALID also clears OVF. -/
def Hub.firstWrite (h : Hub) (a : Access) : Hub :=
  if bitAt (a.value &&& a.half.lanes) 63 then (h.setFld rFltFirst 63 1 0).setFld rFltOvf 0 1 0 else h

/-- FLT_FIRST_CLEAR (R373). -/
def execFltFirstClear (a : Access) (s : State) : Host.Outcome State Fault Refusal :=
  onHub (fun h => h.writeAt rFltFirst a fun h => h.firstWrite a) s

/-- FLT_LOG_CONS_WRITE (R380). -/
def execFltLogConsWrite (a : Access) (s : State) : Host.Outcome State Fault Refusal :=
  onHub (fun h => h.writeAt rFltLog a fun h => h.consWrite rFltLog a) s

/-- A write of FLT_ERR_INJ, ignored while the hub is READY (R379). -/
def Hub.injWrite (h : Hub) (a : Access) : Hub :=
  if h.ready then h else h.setReg rFltInj (a.merge (rwMask rFltInj) (h.reg rFltInj))

/-- FLT_ERR_INJ_WRITE (R379). -/
def execFltErrInjWrite (a : Access) (s : State) : Host.Outcome State Fault Refusal :=
  onHub (fun h => h.writeAt rFltInj a fun h => h.injWrite a) s

/-! ### The wear log -/

/-- WEAR_RECORD_HOURLY (R395). -/
def execWearRecordHourly (m : WearInputs) (s : State) : Host.Outcome State Fault Refusal :=
  onHub (fun h =>
    if !h.wrightRuns then h
    else
      let h : Hub := { h with wear := { h.wear with hours := h.wear.hours + 1, last := m } }
      h.wearAppend h.wearRecord) s

/-- The records of the last 720 hours, and of the whole ring. -/
def Hub.wearRecent (h : Hub) : List (List Byte) :=
  (List.range (min 720 h.wear.count)).map fun i => tget [] h.wear.records ((h.wear.count - 1 - i) % 32768)

/-- The 256 bytes of a summary (R396). -/
def Hub.summary (h : Hub) : List Byte :=
  let body := fit 142 (Config.summaryBody h.wear.sumHour h.wear.hours h.wearRecent (h.wear.records.map (·.2)) h.wear.chain)
  body ++ fit 114 (if h.sec.identity = [] then [] else Config.ed448Sign h.sec.identity body)

/-- WEAR_SUMMARY (R396): every 720 powered hours, and once READY after a life-cycle transition. -/
def execWearSummary (s : State) : Host.Outcome State Fault Refusal :=
  onHubV (fun v h =>
    if h.wrightRuns && (decide (h.wear.sumHour + 720 ≤ h.wear.hours) || (h.ready && decide (h.wear.transSeen ≠ v.trans))) then
      { h with wear := { h.wear with sums := tput h.wear.sums (h.wear.sumCount % 64) h.summary, sumCount := h.wear.sumCount + 1,
                                     sumHour := h.wear.hours, transSeen := v.trans } }
    else h) s

end Sys2Proof.Machine
end

