-- ==== Sys2Proof/Machine/Sounding.lean ====
section
/-! DEFINITION. Sounding (R381 to R393): tokens, scores, the decision rules, expulsion, and overrides. -/
namespace Sys2Proof.Machine

/-! ### Scores (R383, R384) -/

/-- S_F of some lanes of a port: their worst F, or whether all are locked where the image names that mode. -/
def Hub.lanesScore (h : Hub) (p : Nat) (ls : List Nat) : Nat :=
  if h.lockMode p then (if ls.all fun l => h.locked l && h.grouped l then 255 else 0)
  else (ls.foldl (fun m l => min m (h.fom l)) 1023) / 4

/-- The active lanes of a port. -/
def Hub.activeLanes (h : Hub) (p : Nat) : List Nat := ((List.range 8).map (laneOf p)).filter h.laneActive

/-- Entries of a kind in a list of times of the last 1 ms. -/
def Hub.errCount (h : Hub) (p kind : Nat) : Nat :=
  ((tget [] h.snd.errs p).filter fun e => decide (e.2 = kind) && decide (h.now < e.1 + 1000000)).length

/-- S_O of a port. -/
def Hub.opticScore (h : Hub) (p : Nat) : Nat :=
  if p < 78 then 255
  else
    let o := rMod (p - 78)
    if h.bit o 63 then (sat (8 * (signed 16 (h.fld o 32 16) - signed 16 (h.fld o 16 16))) 0 255).toNat else 0

/-- A port's score (Table 14.11): 0 while its link is down. -/
def Hub.scoreOf (h : Hub) (p : Nat) : Nat :=
  if h.linkUp p then
    min (min (h.lanesScore p (h.activeLanes p)) (255 - min 255 (16 * bitlen (h.errCount p 0) + 32 * h.errCount p 1))) (h.opticScore p)
  else 0

/-- The port's score as last computed (SND_PSCORE). -/
def Hub.pscore (h : Hub) (p : Nat) : Nat := h.fld (rPscore (p / 8)) (8 * (p % 8)) 8

/-- The hub's score (Table 14.12). -/
def Hub.hubScore (h : Hub) : Nat :=
  let n := (h.plumb.internal.filter fun t => decide (h.now < t + 10000000)).length
  let sv := sat (4 * (850 - (h.brd.vReq : Int))) 0 255
  let st := sat (8 * (h.snd.slack : Int)) 0 255
  let sh := sat (16 * (105 - h.snd.tj)) 0 255
  let sp : Int := if h.alive then max 0 (255 - 64 * (n : Int)) else 0
  (min (min sv st) (min sh sp)).toNat

/-! ### What the hub knows of its board -/

/-- This hub's board slot. -/
def Hub.slotSelf (h : Hub) : Nat := h.fld rSelfNode 20 2
/-- This hub's plane. -/
def Hub.planeSelf (h : Hub) : Nat := h.fld rSelfNode 16 3
/-- The tray of this hub. -/
def Hub.tray (h : Hub) : Nat := h.planeSelf / 4
/-- A board peer is silent (R382). -/
def Hub.peerSilent (h : Hub) (n : Nat) : Bool := h.snd.silent.contains (72 + 2 * n) && h.snd.silent.contains (73 + 2 * n)
/-- A token of a board peer is EXPELLED, FATAL or READY. -/
def Token.expelled (t : Token) : Bool := t.flag 5 3
/-- FATAL of a token. -/
def Token.fatal (t : Token) : Bool := t.flag 5 4
/-- READY of a token. -/
def Token.ready (t : Token) : Bool := t.flag 5 0
/-- SUSPECT of a token. -/
def Token.suspect (t : Token) : Bool := t.flag 5 2

/-- The token of the board hub of a slot other than this one. -/
def Hub.slotToken (h : Hub) (s : Nat) : Option Token := if s = h.slotSelf then none else h.peerToken (h.slotPair s)

/-- A board hub may be the arbiter (R387). -/
def Hub.mayArbitrate (h : Hub) (s : Nat) : Bool :=
  if s = h.slotSelf then h.ready && !h.snd.expelled && h.alive
  else match h.slotToken s with
    | some t => t.ready && !t.expelled && !t.fatal
    | none => false

/-- A board hub is in service: neither silent, EXPELLED nor FATAL (R389). -/
def Hub.slotIn (h : Hub) (s : Nat) : Bool :=
  if s = h.slotSelf then !h.snd.expelled && h.alive
  else match h.slotToken s with
    | some t => !t.expelled && !t.fatal
    | none => false

/-- PLANES_IN of the accelerators' tokens of the last 10 ms, though a link be silent since (R389). -/
def Hub.accVotes (h : Hub) : List Nat :=
  (List.range 72).filterMap fun p => match tget none h.snd.tokens p with
    | some t => if t.num 1 1 = 1 ∧ h.now < t.time + 10000000 then some (t.num 14 1) else none
    | none => none

/-- The value that the most accelerators report; among equals one drawn freely (R389). -/
def Hub.votedPlanes (h : Hub) : Nat :=
  let vs := h.accVotes
  let best := vs.foldl (fun m v => max m (vs.count v)) 0
  let tops := (vs.filter fun v => decide (vs.count v = best)).dedup
  tops.getD (h.drawn.toNat % tops.length) 0

/-- PLANES_IN (R389): this tray by the hub's own tokens, the other by the accelerators'. -/
def Hub.planesIn (h : Hub) : Nat :=
  let t := h.tray
  let own := ((List.range 4).filter h.slotIn).foldl (fun m s => m ||| 2 ^ (4 * t + s)) 0
  let other := if h.bit rSelfNode 24 then h.votedPlanes &&& (0xF * 2 ^ (4 * (1 - t))) else 0
  own ||| other

/-- The number of planes in a mask. -/
def countPlanes (m : Nat) : Nat := ((List.range 8).filter m.testBit).length

/-! ### The expulsion record (R388). Times carry a bias so that ages reach back before the hub's own start. -/

/-- The bias of recorded expulsion times. -/
def expelBias : Nat := 2 ^ 62
/-- The time of an expulsion of an age in ms. -/
def Hub.agedAt (h : Hub) (age : Nat) : Nat := h.now + expelBias - age * 1000000
/-- The age in ms of a recorded expulsion. -/
def Hub.ageOf (h : Hub) (t : Nat) : Nat := (h.now + expelBias - t) / 1000000
/-- An expulsion recorded at age 0; the last four are kept. -/
def Hub.recordExpel (h : Hub) : Hub := { h with snd := { h.snd with expels := (h.agedAt 0 :: h.snd.expels).take 4 } }
/-- Recorded ages within the window. -/
def Hub.budgetUsed (h : Hub) : Nat :=
  (h.snd.expels.filter fun t => decide (h.ageOf t < h.fld rSndCfg 4 12 * 60000)).length
/-- An expulsion is within budget. -/
def Hub.inBudget (h : Hub) : Bool := decide (h.budgetUsed < h.fld rSndCfg 0 4)
/-- An expulsion is within the floor (R389). -/
def Hub.inFloor (h : Hub) : Bool := decide (clampNat (h.fld rSndCfg 16 4) 1 8 + 1 ≤ countPlanes h.planesIn)
/-- A token younger than 1 ms is held from every board peer that is not silent (R387). -/
def Hub.peersFresh (h : Hub) : Bool :=
  (List.range 3).all fun n => h.peerSilent n || (match h.peerToken n with
    | some t => decide (h.now < t.time + 1000000)
    | none => false)

/-- The BUDGET of a token as recorded times, by the time at which it arrived. -/
def budgetOf (t : Token) : List Nat :=
  (List.range 4).filterMap fun i =>
    if t.num (32 + 4 * i) 4 = 0xFFFFFFFF then none else some (t.time + expelBias - t.num (32 + 4 * i) 4 * 1000000)

/-! ### Tokens (Table 14.10) -/

/-- WEIGHT as sent. -/
def Hub.weight (h : Hub) : Nat := if !h.alive || h.snd.expelled then 0 else if h.snd.suspect then 64 else 255
/-- FLAGS as sent. -/
def Hub.sndFlags (h : Hub) : Nat :=
  bit01 h.ready + 2 * bit01 h.snd.isArb + 4 * bit01 h.snd.suspect + 8 * bit01 h.snd.expelled + 16 * bit01 (!h.alive)
/-- JOIST_UP as sent. -/
def Hub.joistUp (h : Hub) : Nat := ((List.range 72).filter h.portUp).foldl (fun m j => m ||| 2 ^ j) 0
/-- The SCARF byte of a token. -/
def Hub.scarfByte (h : Hub) : Nat :=
  bit01 h.epoch + 2 * h.bankState false + 8 * h.bankState true + 32 * bit01 (decide (h.drainCount false = 0))
    + 64 * bit01 (decide (h.drainCount true = 0))
/-- BUDGET as the arbiter sends it. -/
def Hub.budgetBytes (h : Hub) : List Byte :=
  if h.snd.isArb then
    (List.range 4).flatMap fun i => leBytes 4 (match h.snd.expels[i]? with
      | some t => min (h.ageOf t) 0xFFFFFFFE
      | none => 0xFFFFFFFF)
  else zeros 16
/-- ORDER as the arbiter sends it. -/
def Hub.orderByte (h : Hub) : Nat :=
  if h.snd.isArb then (match h.snd.order with
    | some s => 4 + s
    | none => 0) else 0

/-- The payload of the token that goes out on a port with a sequence number. -/
def Hub.tokenBytes (h : Hub) (p seq : Nat) : List Byte :=
  [1, 0] ++ leBytes 2 h.self.toNat ++ leBytes 1 (h.planeSelf + 16 * h.slotSelf) ++ leBytes 1 h.sndFlags
    ++ leBytes 1 (h.fld rSndStat 56 8) ++ leBytes 1 h.weight ++ leBytes 4 seq ++ leBytes 1 h.scarfByte ++ leBytes 1 (h.pscore p)
    ++ leBytes 1 (h.fld rSndStat 40 8) ++ [0] ++ leBytes 9 h.joistUp ++ zeros 7 ++ h.budgetBytes ++ leBytes 1 h.orderByte
    ++ leBytes 1 h.snd.orderSeq ++ leBytes 2 h.snd.ovr.toNat ++ zeros 4

/-- A token sent on a port that is up. -/
def Hub.sendToken (h : Hub) (p : Nat) : Hub :=
  if h.linkUp p then
    let seq := tget 0 h.snd.sent p + 1
    let x := h.mgt 0 0 (h.tokenBytes p seq)
    ({ h with snd := { h.snd with sent := tset 0 h.snd.sent p seq } } : Hub).sendLocalD p x
  else h

/-- SOUND_TOKEN_SEND (R381). -/
def execSoundTokenSend (s : State) : Host.Outcome State Fault Refusal :=
  onHub (fun h => (List.range 86).foldl Hub.sendToken h) s

/-- LINK_SILENT (R382): 1 ms without a valid token. -/
def execLinkSilent (p : Fin 86) (s : State) : Host.Outcome State Fault Refusal :=
  onHub (fun h =>
    let fresh : Bool := match tget none h.snd.tokens p.val with
      | some t => decide (h.now < t.time + 1000000)
      | none => decide (h.now < 1000000)
    if fresh || h.snd.silent.contains p.val || !h.domainOn 2 then h
    else { h with snd := { h.snd with silent := h.snd.silent ++ [p.val] } }) s

/-! ### Counting evaluations (Table 14.13) -/

/-- Rules by number: 0 NARROW, 1 DETOUR, 2 DEWEIGHT, 3 ABSENT, 5 EXPEL, 6 SUSPECT. -/
def ruleKey (rule object : Nat) : Nat := 256 * rule + object

/-- A rule's condition held, or did not, at this evaluation: the hub with the count, and the count. -/
def Hub.tally (h : Hub) (rule object : Nat) (held : Bool) : Hub × Nat :=
  let k := ruleKey rule object
  let n := if held then tget 0 h.snd.counts k + 1 else 0
  ({ h with snd := { h.snd with counts := tset 0 h.snd.counts k n } }, n)

/-- An undoing condition held, or did not: the hub with the time since when it holds, and whether it has held for `span` ns. -/
def Hub.sustain (h : Hub) (rule object : Nat) (held : Bool) (span : Nat) : Hub × Bool :=
  let k := ruleKey rule object
  let since := if held then (if tget 0 h.snd.since k = 0 then h.now + 1 else tget 0 h.snd.since k) else 0
  ({ h with snd := { h.snd with since := tset 0 h.snd.since k since } }, held && decide (since + span ≤ h.now + 1))

/-! ### Rules on ports -/

/-- NARROW: one half is poor and the other good for five evaluations. -/
def Hub.ruleNarrow (h : Hub) (p : Nat) : Hub :=
  let thr := h.fld rSndCfg 48 8
  let low (hi : Bool) : Bool := decide (h.lanesScore p ((halfLanes hi).map (laneOf p)) < thr)
  let held := h.linkUp p && decide (h.fld (rPstat p) 58 2 = 3) && decide (low false ≠ low true)
  let (h, n) := h.tally 0 p held
  if 5 ≤ n then h.narrowRequest p (low false) else h

/-- DETOUR: a joist that is up scores below DOWN_T for five evaluations, until it has scored UP_T for 1 s. -/
def Hub.ruleDetour (h : Hub) (j : Nat) : Hub :=
  let isLow := h.snd.low.contains j
  let (h, n) := h.tally 1 j (h.linkUp j && !isLow && decide (h.pscore j < h.fld rSndCfg 32 8))
  let (h, good) := h.sustain 1 j (isLow && h.linkUp j && decide (h.fld rSndCfg 56 8 ≤ h.pscore j)) 1000000000
  if good then { h with snd := { h.snd with low := h.snd.low.filter fun x => decide (x ≠ j) } }
  else if 5 ≤ n then ({ h with snd := { h.snd with low := h.snd.low ++ [j] } } : Hub).linkDown j
  else h

/-- The far end of a port says that it is SUSPECT. -/
def Hub.farSuspect (h : Hub) (p : Nat) : Bool :=
  match h.portToken p with
  | some t => t.suspect
  | none => false

/-- DEWEIGHT: a girt or rafter port, until it has scored UP_T and its far end has not been SUSPECT for 100 ms. Flows that change
path move under R120. -/
def Hub.ruleDeweight (h : Hub) (p : Nat) : Hub :=
  let isDewt := h.snd.dewt.contains p
  let bad := decide (h.pscore p < h.fld rSndCfg 40 8) || h.farSuspect p
  let (h, n) := h.tally 2 p (h.linkUp p && !isDewt && bad)
  let (h, good) := h.sustain 2 p (isDewt && decide (h.fld rSndCfg 56 8 ≤ h.pscore p) && !h.farSuspect p) 100000000
  if good then ({ h with snd := { h.snd with dewt := h.snd.dewt.filter fun x => decide (x ≠ p) } } : Hub).returnPort p
  else if 5 ≤ n then
    (siblings p).foldl Hub.returnPort { h with snd := { h.snd with dewt := h.snd.dewt ++ [p] } }
  else h

/-! ### Rules on nodes -/

/-- A node marked in SWC_ABSENT, or its mark cleared. -/
def Hub.markAbsent (h : Hub) (n : Node) (b : Bool) : Hub := h.setFld (rAbsent (n.toNat / 64)) (n.toNat % 64) 1 (bit01 b)

/-- A joist is down on every board peer that is not silent and not expelled. -/
def Hub.downAtPeers (h : Hub) (j : Nat) : Bool :=
  (List.range 3).all fun n => h.peerSilent n || (match h.peerToken n with
    | some t => t.expelled || !(t.num 16 9).testBit j
    | none => false)

/-- The joists whose nodes ABSENT has marked, set. -/
def Hub.setAbsJ (h : Hub) (l : List Nat) : Hub := { h with snd := { h.snd with absJ := l } }

/-- ABSENT: a joist's accelerator is down here and at every such peer for two evaluations, until its joist is up here and its
CAP has arrived. -/
def Hub.ruleAbsent (h : Hub) (j : Nat) : Hub :=
  let named := decide (1024 ≤ tget 0 h.brd.joists j)
  let (h, n) := h.tally 3 j (named && !h.portUp j && h.downAtPeers j)
  if h.portUp j && (tget 0 h.sill.caps j).testBit 4 && h.snd.absJ.contains j then
    (h.markAbsent (h.joistNode j) false).setAbsJ (h.snd.absJ.filter fun x => decide (x ≠ j))
  else if 2 ≤ n then
    (h.markAbsent (h.joistNode j) true).setAbsJ (if h.snd.absJ.contains j then h.snd.absJ else h.snd.absJ ++ [j])
  else h

/-- The nodes that the ACTIVE bank reaches through a girt pair. -/
def Hub.pairNodes (h : Hub) (n : Nat) : List Node :=
  ((List.range 1024).map (BitVec.ofNat 10)).filter fun d =>
    let e := h.routeEntry h.epoch d
    decide (entryField e 31 1 = 1) && decide (entryField e 29 2 = 1) && decide (72 + 2 * n ≤ entryField e 22 7) &&
      decide (entryField e 22 7 ≤ 73 + 2 * n)

/-- PEER_ABSENT: a board peer is silent, FATAL or EXPELLED, until it is READY, not EXPELLED and not silent. -/
def Hub.rulePeerAbsent (h : Hub) (n : Nat) : Hub :=
  let slot := h.pairSlot n
  let bad := h.peerSilent n || (match h.peerToken n with
    | some t => t.fatal || t.expelled
    | none => false)
  let good : Bool := match h.peerToken n with
    | some t => t.ready && !t.expelled
    | none => false
  let mark (b : Bool) : Hub := (h.pairNodes n).foldl (fun h d => h.markAbsent d b) h
  if bad then
    let h := mark true
    { h with snd := { h.snd with absP := if h.snd.absP.contains slot then h.snd.absP else h.snd.absP ++ [slot] } }
  else if good && h.snd.absP.contains slot then
    let h := mark false
    { h with snd := { h.snd with absP := h.snd.absP.filter fun x => decide (x ≠ slot) } }
  else h

/-! ### The arbiter (R387 to R392) -/

/-- The last token that arrived from a board hub other than this one, though its links be silent now. -/
def Hub.lastToken (h : Hub) (s : Nat) : Option Token :=
  if s = h.slotSelf then none
  else
    let n := h.slotPair s
    match tget none h.snd.tokens (72 + 2 * n), tget none h.snd.tokens (73 + 2 * n) with
    | some a, some b => if a.time ≤ b.time then some b else some a
    | some a, none => some a
    | none, x => x

/-- The record as a board hub's last token gave it while it was the arbiter, and when that token came; what this hub has taken
over before where the last token is no arbiter's (R388). -/
def Hub.recordFrom (h : Hub) (s : Nat) : List Nat × Option Nat :=
  match h.lastToken s with
  | some t => if t.flag 5 1 then (budgetOf t, some t.time) else (h.snd.expels, h.snd.budgetAt)
  | none => (h.snd.expels, h.snd.budgetAt)

/-- The record that a hub which becomes the arbiter begins with (R388): the former arbiter's of the last 100 ms, otherwise BUDGET_N
expulsions at age 0. -/
def Hub.inherited (h : Hub) : List Nat :=
  let unknown := List.replicate (min 4 (h.fld rSndCfg 0 4)) (h.agedAt 0)
  match h.snd.arbSlot with
  | none => unknown
  | some f =>
    let (rec, at_) := h.recordFrom f
    match at_ with
    | some t => if f ≠ h.slotSelf ∧ h.now < t + 100000000 then rec else unknown
    | none => unknown

/-- The arbiter of the board, and the record that this hub keeps as the arbiter or takes over from it (R387, R388). -/
def Hub.arbitrate (h : Hub) : Hub :=
  let arb := (List.range 4).find? h.mayArbitrate
  let mine := decide (arb = some h.slotSelf)
  let (expels, at_) :=
    if mine then (if h.snd.isArb then h.snd.expels else h.inherited, h.snd.budgetAt)
    else match arb with
      | some a => h.recordFrom a
      | none => (h.snd.expels, h.snd.budgetAt)
  { h with snd := { h.snd with isArb := mine, arbSlot := arb.orElse fun _ => h.snd.arbSlot, expels := expels, budgetAt := at_,
                               order := if mine then h.snd.order else none } }

/-- A board peer has left service without an order (R392): silent or FATAL after its tokens had come. One whose last token shows
EXPELLED left by an order, which its record counts already. -/
def Hub.slotLost (h : Hub) (s : Nat) : Bool :=
  match h.lastToken s with
  | some t => (h.peerSilent (h.slotPair s) || t.fatal) && !t.expelled
  | none => false

/-- Losses of board peers: each recorded once by the arbiter as an expulsion (R392). -/
def Hub.recordLosses (h : Hub) : Hub :=
  (List.range 4).foldl (fun h s =>
    if h.slotLost s then
      if h.snd.lost.contains s then h
      else
        let h : Hub := { h with snd := { h.snd with lost := h.snd.lost ++ [s] } }
        if h.snd.isArb then h.recordExpel else h
    else { h with snd := { h.snd with lost := h.snd.lost.filter fun x => decide (x ≠ s) } }) h

/-- The score of a board hub as this one knows it. -/
def Hub.slotScore (h : Hub) (s : Nat) : Nat :=
  if s = h.slotSelf then h.fld rSndStat 56 8 else match h.slotToken s with
    | some t => t.num 6 1
    | none => 255

/-- An expulsion ordered (R390). -/
def Hub.orderExpel (h : Hub) (s : Nat) : Hub :=
  ({ h with snd := { h.snd with order := some s, orderSeq := (h.snd.orderSeq + 1) % 256 } } : Hub).recordExpel

/-- An order whose slot shows EXPELLED has been carried out. -/
def Hub.orderDone (h : Hub) : Hub :=
  match h.snd.order with
  | some s =>
    let done := if s = h.slotSelf then h.snd.expelled else match h.slotToken s with
      | some t => t.expelled
      | none => true
    if done then { h with snd := { h.snd with order := none } } else h
  | none => h

/-- The candidates of EXPEL in the order of R390, counting this evaluation. -/
def Hub.candidates (h : Hub) : Hub × List Nat :=
  (List.range 4).foldl (fun (x : Hub × List Nat) s =>
    let (h, n) := x.1.tally 5 s (x.1.slotIn s && decide (x.1.slotScore s < x.1.fld rSndCfg 24 8))
    (h, if 15 ≤ n then x.2 ++ [s] else x.2)) (h, [])

/-- The arbiter's decision on the first candidate that budget and floor allow: at most one order at a time. -/
def Hub.decideExpel (h : Hub) : Hub :=
  let (h, cs) := h.candidates
  if !h.snd.isArb || h.snd.hold.isSome || h.snd.order.isSome || !h.peersFresh || !h.inBudget || !h.inFloor then h
  else
    let best := cs.foldl (fun b s => match b with
      | none => some s
      | some c => if h.slotScore s < h.slotScore c then some s else some c) none
    match best with
    | some s => h.orderExpel s
    | none => h

/-- This hub is a candidate that is not expelled: SUSPECT, with its reason (R390, Table 14.16); cleared at UP_T for 1 s. -/
def Hub.decideSuspect (h : Hub) : Hub :=
  let (h, good) := h.sustain 6 0 (h.snd.suspect && decide (h.fld rSndCfg 56 8 ≤ h.fld rSndStat 56 8)) 1000000000
  let due := decide (15 ≤ tget 0 h.snd.counts (ruleKey 5 h.slotSelf)) && h.snd.hold.isNone && h.slotIn h.slotSelf
  let why := if !h.inBudget then 1 else if !h.inFloor then 2 else if !h.peersFresh then 3 else 0
  if good then ({ h with snd := { h.snd with suspect := false } } : Hub).setFld rSndStat 16 2 0
  else if due && decide (why ≠ 0) then
    let h := if h.snd.suspect then h else h.report fltSnd .corrected 25
    ({ h with snd := { h.snd with suspect := true } } : Hub).setFld rSndStat 16 2 why
  else h

/-! ### Orders and overrides seen in tokens (R391, R393) -/

/-- This hub becomes EXPELLED. -/
def Hub.becomeExpelled (h : Hub) : Hub :=
  if h.snd.expelled then h
  else
    let h : Hub := { h with snd := { h.snd with expelled := true, suspect := false },
                            wear := { h.wear with events := h.wear.events.set 3 (h.wear.events.getD 3 0 + 1) } }
    (h.setFld rSndStat 16 2 0).report fltSnd .corrected 26

/-- The orders that this hub holds as (sender's slot, ORDER_SEQ, slot to expel). -/
def Hub.ordersSeen (h : Hub) : List (Nat × Nat × Option Nat) :=
  let own := if h.snd.isArb then [(h.slotSelf, h.snd.orderSeq, h.snd.order)] else []
  own ++ (List.range 4).filterMap fun s => match h.slotToken s with
    | some t => if t.flag 5 1 then some (s, t.num 49 1, if t.flag 48 2 then some (t.num 48 1 % 4) else none) else none
    | none => none

/-- New orders taken (R391). -/
def Hub.takeOrders (h : Hub) : Hub :=
  h.ordersSeen.foldl (fun h o =>
    if tget 0 h.snd.seenSeq o.1 = o.2.1 + 1 then h
    else
      let h : Hub := { h with snd := { h.snd with seenSeq := tset 0 h.snd.seenSeq o.1 (o.2.1 + 1) } }
      if o.2.2 = some h.slotSelf then h.becomeExpelled else h) h

/-- The plane actions that this hub holds as (sender's slot, OVR). -/
def Hub.ovrSeen (h : Hub) : List (Nat × Nat) :=
  (h.slotSelf, h.snd.ovr.toNat) :: (List.range 4).filterMap fun s => (h.slotToken s).map fun t => (s, t.num 50 2)

/-- A plane action (Table 14.15): the arbiter orders an expulsion or drops its order; the hub of the plane returns to
service. -/
def Hub.applyOvr (h : Hub) (w : Nat) : Hub :=
  let action := w % 16
  let plane := w / 16 % 8
  let force := w.testBit 7
  if plane / 4 ≠ h.tray then h
  else if action = 1 then
    (if h.snd.isArb && h.peersFresh && (force || h.inFloor) && h.slotIn (plane % 4) then h.orderExpel (plane % 4) else h)
  else if action = 2 then
    let h : Hub := if h.snd.order = some (plane % 4) then { h with snd := { h.snd with order := none } } else h
    if plane = h.planeSelf then
      let h : Hub := { h with snd := { h.snd with expelled := false, suspect := false, counts := tset 0 h.snd.counts (ruleKey 5 h.slotSelf) 0 } }
      h.setFld rSndStat 16 2 0
    else h
  else h

/-- New plane actions taken; an EXPEL waits at an arbiter that does not hold fresh tokens of its peers (R387). -/
def Hub.takeOvrs (h : Hub) : Hub :=
  h.ovrSeen.foldl (fun h o =>
    if tget 0 h.snd.seenOvr o.1 = o.2 / 256 + 1 ∨ (o.2 % 16 = 1 ∧ h.snd.isArb ∧ ¬ h.peersFresh) then h
    else ({ h with snd := { h.snd with seenOvr := tset 0 h.snd.seenOvr o.1 (o.2 / 256 + 1) } } : Hub).applyOvr o.2) h

/-- The arbiter's token, or its own state where this hub is the arbiter, shows a plane action applied (R393). -/
def Hub.ovrShown (h : Hub) (w : OvrWait) : Bool :=
  let order := if h.snd.isArb then h.snd.order else match h.snd.arbSlot.bind h.slotToken with
    | some t => if t.flag 48 2 then some (t.num 48 1 % 4) else none
    | none => none
  let planes := if h.snd.isArb then h.planesIn else match h.snd.arbSlot.bind h.slotToken with
    | some t => t.num 14 1
    | none => 0
  let inService := planes.testBit (4 * h.tray + w.slot)
  if w.action = 1 then decide (order = some w.slot) || !inService else decide (order ≠ some w.slot) && inService

/-- An override that waits: complete once the arbiter shows it, or after 2 ms with a status that the spec does not name. -/
def Hub.ovrCheck (h : Hub) : Hub :=
  match h.snd.ovrCmd with
  | none => h
  | some w =>
    let finish (st : Nat) : Hub :=
      let h : Hub := { h with snd := { h.snd with ovrCmd := none } }
      match h.cmdOf w.func with
      | some c => h.cmdEnd c st id
      | none => h
    if h.ovrShown w then finish stOk
    else if w.until_ ≤ h.now then (finish (Config.overrideUnapplied h.draw).toNat).redraw
    else h

/-! ### An evaluation -/

/-- SND_STAT as Table 14.16 gives it; SUSP_WHY and, with no arbiter, ARB_SLOT stay. -/
def Hub.updateStat (h : Hub) : Hub :=
  let planes := h.planesIn
  let h := ((h.setFld rSndStat 48 8 h.weight).setFld rSndStat 40 8 planes).setFld rSndStat 36 4 (countPlanes planes)
  let h := match h.snd.arbSlot with
    | some a => h.setFld rSndStat 33 3 a
    | none => h
  ((h.setFld rSndStat 32 1 (bit01 h.snd.hold.isSome)).setFld rSndStat 28 4 (min 15 h.budgetUsed)).setFld rSndStat 0 5 h.sndFlags

/-- Every port's score stored in SND_PSCORE. -/
def Hub.scorePorts (h : Hub) : Hub :=
  (List.range 86).foldl (fun h p => h.setFld (rPscore (p / 8)) (8 * (p % 8)) 8 (h.scoreOf p)) h

/-- SOUNDING_EVALUATE (R383 to R393): scores, then the rules of Table 14.13. -/
def execSoundingEvaluate (m : Measures) (s : State) : Host.Outcome State Fault Refusal :=
  onHub (fun h =>
    if !h.domainOn 2 then h
    else
      let h : Hub := { h with snd := { h.snd with slack := m.slack, tj := m.tj } }
      let h := h.scorePorts
      let h := h.setFld rSndStat 56 8 h.hubScore
      let h := (List.range 86).foldl Hub.ruleNarrow h
      let h := (List.range 72).foldl Hub.ruleDetour h
      let h := ((List.range 14).map (72 + ·)).foldl Hub.ruleDeweight h
      let h := (List.range 72).foldl Hub.ruleAbsent h
      let h := (List.range 3).foldl Hub.rulePeerAbsent h
      let h := h.arbitrate.recordLosses
      let h := h.takeOrders.takeOvrs.orderDone
      let h := h.decideExpel.decideSuspect
      (h.ovrCheck.redraw).updateStat) s

/-! ### Overrides (R393, Table 14.15) -/

/-- A SOUND_OVERRIDE with an ACTION, after the checks that every action shares: a reserved action, and a PLANE that does not lie on
the hub's own board, give BAD_DESC. -/
def Hub.onOvr (h : Hub) (f action : Nat) (act : Cmd → Hub → Hub) : Hub :=
  h.onCmd f 0x30 fun c h =>
    let a := bitsGet (c.w 0) 0 4
    if c.len ≠ 8 ∨ a = 0 ∨ 6 < a ∨ bitsGet (c.w 0) 4 3 / 4 ≠ h.tray then h.cmdEnd c stBadDesc id
    else if a = action then act c h
    else h

/-- A plane action relayed through OVR; one at a time (R393). -/
def Hub.relayOvr (h : Hub) (f : Nat) (c : Cmd) : Hub :=
  let w := c.w 0
  let plane := bitsGet w 4 3
  if h.snd.ovrCmd.isSome then h
  else
    let seq := (h.snd.ovrSeq + 1) % 256
    let wait : OvrWait := { func := f, action := bitsGet w 0 4, slot := plane % 4, until_ := h.now + 2000000 }
    let h : Hub := { h with snd := { h.snd with ovr := BitVec.ofNat 16 (bitsGet w 0 8 + 256 * seq), ovrSeq := seq,
                                                ovrCmd := some wait } }
    h.cmdRun c 0

/-- OVR_EXPEL (R393). -/
def execOvrExpel (f : Fin 32) (s : State) : Host.Outcome State Fault Refusal :=
  onHub (fun h => h.onOvr f.val 1 fun c h => h.relayOvr f.val c) s

/-- OVR_RESTORE (R393). -/
def execOvrRestore (f : Fin 32) (s : State) : Host.Outcome State Fault Refusal :=
  onHub (fun h => h.onOvr f.val 2 fun c h => h.relayOvr f.val c) s

/-- OVR_MARK_ABSENT (R393, R460). -/
def execOvrMarkAbsent (f : Fin 32) (s : State) : Host.Outcome State Fault Refusal :=
  onHub (fun h => h.onOvr f.val 3 fun c h => (h.markAbsent (BitVec.ofNat 10 (bitsGet (c.w 0) 8 10)) true).cmdEnd c stOk id) s

/-- OVR_CLEAR_ABSENT (R393, R460): sounding's rules act again after their own counts. -/
def execOvrClearAbsent (f : Fin 32) (s : State) : Host.Outcome State Fault Refusal :=
  onHub (fun h => h.onOvr f.val 4 fun c h =>
    let n : Node := BitVec.ofNat 10 (bitsGet (c.w 0) 8 10)
    let js := (List.range 72).filter fun j => decide (1024 ≤ tget 0 h.brd.joists j) && decide (h.joistNode j = n)
    let h : Hub := { h with snd := { h.snd with absJ := h.snd.absJ.filter fun j => !js.contains j,
                                                counts := js.foldl (fun t j => tset 0 t (ruleKey 3 j) 0) h.snd.counts } }
    (h.markAbsent n false).cmdEnd c stOk id) s

/-- OVR_WIDEN (R393): the port retrains at full width. -/
def execOvrWiden (f : Fin 32) (s : State) : Host.Outcome State Fault Refusal :=
  onHub (fun h => h.onOvr f.val 5 fun c h =>
    let p := bitsGet (c.w 0) 18 7
    if 85 < p then h.cmdEnd c stBadDesc id else (h.takeDown p).cmdEnd c stOk id) s

/-- OVR_HOLD (R393). -/
def execOvrHold (f : Fin 32) (s : State) : Host.Outcome State Fault Refusal :=
  onHub (fun h => h.onOvr f.val 6 fun c h =>
    let m := bitsGet (c.w 0) 18 7
    let h : Hub := { h with snd := { h.snd with hold := if m = 0 then none else some (h.now + m * 60000000000) } }
    (h.setFld rSndStat 32 1 (bit01 (decide (m ≠ 0)))).cmdEnd c stOk id) s

/-- OVR_HOLD_EXPIRY (R393). -/
def execOvrHoldExpiry (s : State) : Host.Outcome State Fault Refusal :=
  onHub (fun h =>
    match h.snd.hold with
    | some t => if t ≤ h.now then ({ h with snd := { h.snd with hold := none } } : Hub).setFld rSndStat 32 1 0 else h
    | none => h) s

end Sys2Proof.Machine
end

