-- ==== Sys2Proof/Machine/Power.lean ====
section
/-! DEFINITION. Power domains (R444, R445), clock gates (R448), the power and thermal limits (R451, R452), the core supply
(R469) and the events of supplies and clocks (R446, R471). -/
namespace Sys2Proof.Machine

/-! ### Domains -/

/-- A register keeps its value: its domain is on, whatever gates its clock. -/
def Hub.regPowered (h : Hub) (o : Nat) : Bool :=
  if 0x600000 ≤ o ∧ o < 0x640000 then h.bayDomain ((o - 0x600000) / 0x1000)
  else if 0x700000 ≤ o ∧ o < 0x720000 then h.domainOn 11
  else h.regLive o

/-- A memory cell's device is powered. -/
def Hub.cellPowered (h : Hub) (o : Nat) : Bool :=
  match windowOf o with
  | .hbm => h.domainOn 8 && h.domainOn 9
  | .lp => h.domainOn 10
  | .loft => h.bayDomain ((o - loftBase) / 0x400000)
  | _ => true

/-- What lies in a domain that is off is lost (R425, R444): registers take their reset values, memory and units are as at reset. -/
def Hub.dropDead (h : Hub) : Hub :=
  let core := h.domainOn 2 && h.domainOn 3
  let pits := h.domainOn 6 && h.domainOn 7
  let links : Links := { ports := h.links.ports.filter fun x => h.portPowered x.1,
                         lanes := h.links.lanes.filter fun x => h.portPowered (x.1 / 8) }
  let bays : Bays := { threads := h.bays.threads.filter fun x => h.bayDomain (x.1 / 16),
                       queues := h.bays.queues.filter fun x => h.bayDomain (x.1 / 16),
                       accs := h.bays.accs.filter fun x => h.bayDomain (x.1 / 8192),
                       caches := h.bays.caches.filter fun x => h.bayDomain x.1,
                       turns := h.bays.turns.filter fun x => h.bayDomain (x.1 / 4),
                       cycles := h.bays.cycles.filter fun x => h.bayDomain x.1 }
  let mem : Mem := { h.mem with cells := h.mem.cells.filter fun c => h.cellPowered c.1,
                                marks := h.mem.marks.filter fun m => h.cellPowered (32 * m.1) }
  let h : Hub := { h with regs := h.regs.filter fun r => h.regPowered r.1, links := links, bays := bays, mem := mem,
                          sec := { h.sec with pages := h.sec.pages.filter fun g => h.cellPowered (65536 * g.1) } }
  let h : Hub := if core then h else
    { h with swc := {}, sill := {}, pegs := {}, mts := [], scr := {}, snd := if h.domainOn 2 then h.snd else {} }
  let h : Hub := if pits then h else { h with coll := {}, plumb := if h.domainOn 6 then h.plumb else { h.plumb with log := [], logBad := [] } }
  if h.domainOn 11 then h else { h with host := {} }

/-- The order of Table 16.9 in which domains switch on. -/
def domainOrder : List Nat := [2, 3, 6, 7, 4, 5, 8, 9, 10, 11, 12, 13, 14, 15, 16, 17, 18, 19]

/-- A bay belongs to a partition. -/
def Hub.bayTenant (h : Hub) (b : Nat) : Bool := (h.bayPart b).isSome
/-- A bay belongs to the system: one of its queues is enabled with SYS, or a SYS thread runs. -/
def Hub.baySystem (h : Hub) (b : Nat) : Bool :=
  ((List.range 16).any fun k => decide (k / 4 ≠ 2) && h.bit (rQcfgBay b (k / 4) (k % 4)) 63 && h.bit (rQcfgBay b (k / 4) (k % 4)) 62) ||
  ((List.range 16).any fun t => h.threadSys b t && decide ((h.thread b t).state = .run))

/-- A node's own LPDDR5X window holds a fabric address. -/
def Hub.inLp (h : Hub) (fa : Nat) : Bool := decide (faNode fa = h.self) && decide (windowOf (faOff fa) = .lp)

/-- A table of a context, or one that its valid entries lead to through this hub's pool, lies in this hub's LPDDR5X window. -/
def Hub.tableInLp (h : Hub) (c : Nat) : Nat → Nat → Bool
  | 0, _ => false
  | lvl + 1, t =>
    let fa := h.tableFa c t
    h.inLp fa || (h.inPool fa && (List.range 512).any fun i =>
      match h.entry c (leWord (h.bytes (faOff fa + 8 * i) 8)) (lvl + 1) with
      | .table t' _ => h.tableInLp c lvl t'
      | _ => false)

/-- A domain may be switched off while the hub is READY (R445). -/
def Hub.mayOff (h : Hub) (d : Nat) : Bool :=
  if d = 4 ∨ d = 5 then
    (List.range 64).all fun b => decide (bayWest b ≠ decide (d = 4)) || !(h.bayTenant b || h.baySystem b || h.lentBays.contains b)
  else if d = 10 then
    ((List.range 16).all fun p => (h.regions p).all fun r => decide (r.1 < lpBase)) &&
    ((List.range 256).all fun n => !(h.bit (rSegDir n) 63 && h.inLp (h.fld (rSegDir n) 0 52))) &&
    ((List.range 256).all fun n => !(h.ctxBit n 63 && h.tableInLp n (h.ctxLevels n) (h.fld (rCtxRoot n) 12 40 * 4096)))
  else if 12 ≤ d then
    (List.range 86).all fun p => !(decide (8 * p / 86 = d - 12) || decide ((8 * p + 7) / 86 = d - 12)) || !h.bit (rPctl p) 63
  else false

/-- Domains switched off, and what they hold lost. An LPDDR5X tier that is off reads as absent (R445, R308). -/
def Hub.switchOff (h : Hub) (ds : List Nat) : Hub :=
  let on := ds.foldl (fun w d => bitsPut w (32 + d) 1 0) (h.reg rPwrDom)
  let h := h.setReg rPwrDom on
  let h : Hub := { h with brd := { h.brd with todo := h.brd.todo.filter fun d => !ds.contains d } }
  let h := if ds.contains 10 then (h.setFld rMemTop 58 2 3).setFld rMemTop 32 26 0 else h
  h.dropDead

/-- Domains asked to switch on join those that wait, in the order of Table 16.9. -/
def Hub.switchOn (h : Hub) (ds : List Nat) : Hub :=
  let new := domainOrder.filter fun d => ds.contains d && !h.brd.todo.contains d && !h.domainOn d
  { h with brd := { h.brd with stepAt := if h.brd.todo = [] ∧ new ≠ [] then h.now else h.brd.stepAt, todo := h.brd.todo ++ new } }

/-- A write of PWR_DOM (Table 16.10, R445). -/
def Hub.pwrDomWrite (h : Hub) (a : Access) : Hub :=
  let old := h.reg rPwrDom
  let new := a.merge (rwMask rPwrDom) old
  let new := if bitAt (a.value &&& a.half.lanes) 63 then bitsPut new 63 1 0 else new
  let off := domainOrder.filter fun d => bitAt old d && !bitAt new d
  let on := domainOrder.filter fun d => bitAt new d && !bitAt old d
  if h.ready && off.any (fun d => !h.mayOff d) then h.setFld rPwrDom 63 1 1
  else ((h.setReg rPwrDom new).switchOff off).switchOn on

/-- PWR_DOM_WRITE (R445). -/
def execPwrDomWrite (a : Access) (s : State) : Host.Outcome State Fault Refusal :=
  onHub (fun h => h.writeAt rPwrDom a fun h => h.pwrDomWrite a) s

/-! ### Clock gates (R448) -/

/-- The clock bits of bays that a write can set: their domain is on, and the part has the bay (R2). -/
def Hub.bayClockable (h : Hub) (b : Nat) : Bool := h.bayDomain b && (decide (b < 48) || decide (h.fld rPwrCap 16 16 ≠ 0x03B6))

/-- A word with the bits of a list cleared that an old word does not hold. -/
def keepClear (new old : Word) (ok : Nat → Bool) (n : Nat) : Word :=
  (List.range n).foldl (fun w i => if ok i || bitAt old i then w else bitsPut w i 1 0) new

/-- A write of CLK_EN_BAY (R448). -/
def Hub.clkBayWrite (h : Hub) (a : Access) : Hub :=
  let old := h.reg rClkBay
  let new := keepClear (a.merge (rwMask rClkBay) old) old h.bayClockable 64
  if (List.range 64).any fun b => bitAt old b && !bitAt new b && (h.bayTenant b || h.baySystem b) then h.setFld rClkBlk 63 1 1
  else h.setReg rClkBay new

/-- CLK_EN_BAY_WRITE (R448). -/
def execClkEnBayWrite (a : Access) (s : State) : Host.Outcome State Fault Refusal :=
  onHub (fun h => h.writeAt rClkBay a fun h => h.clkBayWrite a) s

/-- The domain of a bit of CLK_EN_BLK is on: sawpits 0 to 15, host ports at 16 and 17. -/
def Hub.blkClockable (h : Hub) (i : Nat) : Bool := h.domainOn (if i < 8 then 6 else if i < 16 then 7 else 11)

/-- A write of CLK_EN_BLK (R448). -/
def Hub.clkBlkWrite (h : Hub) (a : Access) : Hub :=
  let old := h.reg rClkBlk
  let new := keepClear (a.merge (rwMask rClkBlk) old) old h.blkClockable 18
  let new := if bitAt (a.value &&& a.half.lanes) 63 then bitsPut new 63 1 0 else new
  if (List.range 16).any fun i => bitAt old i && !bitAt new i && decide (h.sawLoad i ≠ 0) then h.setFld rClkBlk 63 1 1
  else h.setReg rClkBlk new

/-- CLK_EN_BLK_WRITE (R448). -/
def execClkEnBlkWrite (a : Access) (s : State) : Host.Outcome State Fault Refusal :=
  onHub (fun h => h.writeAt rClkBlk a fun h => h.clkBlkWrite a) s

/-! ### Power and temperature (R451, R452) -/

/-- LIMIT_W in force (Table 16.15). -/
def Hub.powerLimit (h : Hub) : Nat := min (max 400 (h.fld rPwrCap 0 16)) (h.fld rPwrCap 16 16)

/-- The estimate of `watts` at full duty, of which `engines` are ME and VE, holds a limit at duty d/64. -/
def dutyFits (watts engines limit d : Nat) : Bool := decide ((watts : Int) * 64 - (engines : Int) * (64 - (d : Int)) ≤ (limit : Int) * 64)

/-- The largest duty from 8 to 64 that holds a limit; 8 where none does. -/
def dutyFor (watts engines limit : Nat) : Nat := (((List.range 57).map (64 - ·)).find? (dutyFits watts engines limit)).getD 8

/-- DUTY, PCAP and THERM from the two limits. -/
def Hub.applyDuty (h : Hub) : Hub :=
  let p := h.brd.dutyPower
  let t := h.brd.dutyTherm
  ((h.setFld rPwrThr 56 8 (min p t)).setFld rPwrThr 55 1 (bit01 (decide (p < 64) && decide (p ≤ t)))).setFld rPwrThr 54 1
    (bit01 (decide (t < 64) && decide (t ≤ p)))

/-- The estimate at DUTY in W. -/
def estimate (watts engines d : Nat) : Nat := (watts * 64 - engines * (64 - d)) / 64

/-- POWER_ESTIMATE_TICK (R451): `watts` the estimate at full duty, `engines` the part of it that scales. -/
def execPowerEstimateTick (watts engines : Nat) (tj : Int) (s : State) : Host.Outcome State Fault Refusal :=
  onHub (fun h =>
    if !h.wrightRuns then h
    else
      let limit := h.powerLimit
      let bad := !dutyFits watts engines limit 8
      let h : Hub := { h with brd := { h.brd with dutyPower := dutyFor watts engines limit } }
      let h := h.applyDuty
      let h := (h.setFld rPwrThr 53 1 (bit01 bad)).setFld rPwrThr 32 16 (estimate watts engines (h.fld rPwrThr 56 8))
      let h := h.setFld rPwrThr 24 8 (ofInt 8 tj)
      if bad ∧ h.brd.overAt ≤ h.now then
        ({ h with brd := { h.brd with overAt := h.now + 10000000 } } : Hub).report fltPwr .corrected 30
      else h) s

/-- T_THR in force (Table 16.15). -/
def Hub.thermalThreshold (h : Hub) : Nat := min 105 (h.fld rPwrCap 40 8)

/-- The thermal limit after a tick (R452). -/
def thermalNext (d thr : Nat) (tj : Int) : Nat :=
  if (thr : Int) ≤ tj then max 8 (d - 4) else if tj < (thr : Int) - 2 then min 64 (d + 4) else d

/-- THERMAL_THROTTLE_TICK (R452). -/
def execThermalThrottleTick (tj : Int) (s : State) : Host.Outcome State Fault Refusal :=
  onHub (fun h =>
    if !h.wrightRuns then h
    else
      let h : Hub := { h with brd := { h.brd with dutyTherm := thermalNext h.brd.dutyTherm h.thermalThreshold tj } }
      h.applyDuty.setFld rPwrThr 24 8 (ofInt 8 tj)) s

/-! ### Clocks, rails and the core supply -/

/-- REFCLK_LOSS (R446): of REFCLK_CORE, or of REFCLK_SD, once the settle delay has ended (R427). -/
def execRefclkLoss (serdes : Bool) (s : State) : Host.Outcome State Fault Refusal :=
  onHub (fun h => if h.wrightRuns then h.report fltClk .deviceFatal (31 + bit01 serdes) else h) s

/-- RAIL_EXCURSION (R471): the rails are monitored while RESET_N is high. -/
def execRailExcursion (s : State) : Host.Outcome State Fault Refusal :=
  onHub (fun h => if h.brd.resetN then h.report fltPwr .deviceFatal 33 else h) s

/-- The next voltage in mV on the way to a target: at most 5 mV, within 650 to 850 (R469). -/
def avsStep (v target : Nat) : Nat :=
  let t := clampNat target 650 850
  if v < t then min t (v + 5) else max t (v - 5)

/-- AVS_COMMAND (R469). -/
def execAvsCommand (vReq : Nat) (ack : Bool) (s : State) : Host.Outcome State Fault Refusal :=
  onHub (fun h =>
    if !h.domainOn 2 || decide (h.now < h.brd.avsAt) then h
    else
      let miss := if ack then 0 else h.brd.avsMiss + 1
      let h : Hub := { h with brd := { h.brd with vReq := avsStep h.brd.vReq vReq, avsAt := h.now + 20000, avsMiss := miss } }
      if miss = 3 then h.report fltPwr .deviceFatal 34 else h) s

end Sys2Proof.Machine
end

