-- ==== Sys2Proof/Machine/Reset.lean ====
section
/-! DEFINITION. Resets (R425, R426, R469, R475), what NVM and fuses give at reset, entry to RECOVERY (R437), and the recovery
commands (R438). -/
namespace Sys2Proof.Machine

/-! ### What a reset leaves -/

/-- PHASE set. -/
def Hub.setPhase (h : Hub) (n : Nat) : Hub := h.setFld rPwrBoot 60 4 n

/-- LCY_STATE (Table 13.14), with TOKEN as given. -/
def Vault.lcyWord (v : Vault) (token : Nat) : Word :=
  BitVec.ofNat 64 (v.state * 2 ^ 61 + v.suffix * 2 ^ 59 + token * 2 ^ 48 + v.trans % 512 * 2 ^ 39 + v.owners.length)

/-- MAX_W of a part (Table 16.15). -/
def Vault.maxWatts (v : Vault) : Nat := if v.gradeB then 0x03B6 else 0x047E

/-- The registers whose reset values lie in fuses and NVM (Tables 13.14, 13.15, 16.6, 16.12, 16.15). -/
def Hub.loadFuses (v : Vault) (h : Hub) : Hub :=
  let h := h.setFld rPwrBoot 40 6 v.floor
  let h := (h.setFld rPwrCap 16 16 v.maxWatts).setFld rPwrCap 0 16 v.maxWatts
  let h := if v.gradeB then h.setFld rClkBay 48 16 0 else h
  (h.setReg rLcyState (v.lcyWord 0)).setReg rLcyWipes (BitVec.ofNat 64 v.wipes)

/-- The hub while RESET_N is low (R425): no data is kept. What the AON domain's own reset holds stays: its timer, the latched slot,
THERMTRIP_N, a pulse of FAULT_N, the management buses and the record of debug access; so do the wear log, which lies in NVM, and
the pins. -/
def Hub.held (v : Vault) (h : Hub) : Hub :=
  let b := h.brd
  let d : Board := { supplies := b.supplies, aonReset := b.aonReset, supplyAt := b.supplyAt, slot := b.slot,
                     thermtrip := b.thermtrip, perst := b.perst, smbPtr := b.smbPtr, smbOut := b.smbOut, jtag := b.jtag,
                     scan := b.scan, debug := b.debug &&& 8 }
  (({ now := h.now, draw := h.draw, wear := h.wear, brd := d, plumb := { pulse := h.plumb.pulse } } : Hub).loadFuses v).setPhase 2

/-- NVM after a write that did not finish: the bank or area that was being written holds free bytes. -/
def Vault.interrupted (v : Vault) (h : Hub) : Vault :=
  let free := Config.freeBytes h.draw 0x1000000
  let v := match h.brd.upd with
    | some (_, token, _) => v.programmed h.brd.bank token free
    | none => v
  match h.brd.rcv with
  | some c =>
    if c = 1 ∨ c = 2 then
      (if h.fld rRcvCtl 54 2 = 2 then v.programmed false true free else v.setBank (h.bit rRcvCtl 54) (nvmProgram [] 0 free))
    else v
  | none => v

/-- AON_SUPPLY_IN_RANGE (R425, R475). -/
def execAonSupplyInRange (s : State) : Host.Outcome State Fault Refusal :=
  onHub (fun h => if h.brd.supplies then h else { h with brd := { h.brd with supplies := true, supplyAt := h.now } }) s

/-- AON_SUPPLY_LOSS (R470): every state ends but what lies in NVM and fuses. -/
def execAonSupplyLoss (s : State) : Host.Outcome State Fault Refusal :=
  onBoth (fun v h => (v.interrupted h, { wear := h.wear, draw := h.draw + 1 })) s

/-- AON_POWER_ON_RESET_END (R425, R426, R449): BOARD_SLOT is latched and CLK_TIME starts. -/
def execAonPowerOnResetEnd (slot : BitVec 2) (s : State) : Host.Outcome State Fault Refusal :=
  onHubV (fun v h =>
    if h.brd.supplies && h.brd.aonReset && decide (h.brd.supplyAt + 2000000 ≤ h.now) then
      let h : Hub := { h with now := 0, brd := { h.brd with aonReset := false, supplyAt := 0, slot := slot } }
      (h.loadFuses v).setPhase 2
    else h) s

/-- RESET_N_ASSERT (R425). RESET_N is ignored in the AON power-on reset. -/
def execResetNAssert (s : State) : Host.Outcome State Fault Refusal :=
  onBoth (fun v h =>
    if h.brd.aonReset || !h.brd.resetN then (v, h)
    else (v.interrupted h, (h.held (v.interrupted h)).redraw)) s

/-! ### RECOVERY (R437) -/

/-- Entry to RECOVERY for a cause of RCV_WHY: only AON, SEC and PCIE stay on, only the PFs are enabled, and PCIE switches on if it
was off. -/
def Hub.enterRecovery (h : Hub) (why : Nat) : Hub :=
  let dom := bitsPut (bitsPut (h.reg rPwrDom) 0 20 0x803) 32 20 (if h.domainOn 11 then 0x803 else 3)
  let h : Hub := { h.setReg rPwrDom dom with brd := { h.brd with todo := [], stepAt := h.now, upd := none } }
  let h := (h.setPhase phRecovery).setFld rPwrBoot 56 4 why
  let h := h.dropDead
  let h := (List.range 32).foldl (fun h f =>
    h.setReg (rHstFunc f) (if isPf f then bitsPut (h.reg (rHstFunc f)) 62 2 3 else 0)) h
  if h.domainOn 11 then h else { h with brd := { h.brd with todo := [11] } }

/-- The COMPAT record (R436). -/
def compatRecord (result bank : Nat) (img : List Byte) (floor : Nat) : List Byte :=
  leBytes 2 Config.stepping.toNat ++ leBytes 1 result ++ leBytes 1 bank ++ leBytes 4 (imgVersion img 1) ++ leBytes 4 (imgVersion img 2)
    ++ leBytes 4 (imgVersion img 3) ++ leBytes 4 (imgVersion img 4) ++ leBytes 1 (imgRollback img) ++ leBytes 1 floor

/-- The first AON edge with RESET_N high (R426): the straps are sampled, the nonce drawn and the identity key derived (R336, Table
13.5). A slot other than the latched one leads to RECOVERY. -/
def Hub.strapEdge (v : Vault) (st : Straps) (h : Hub) : Hub :=
  let h : Hub := { h with brd := { h.brd with resetN := true, straps := st, strapAt := h.now, compat := compatRecord 2 0xFF [] v.floor },
                          sec := { h.sec with identity := if v.state = 5 then [] else Config.identityKey } }
  let h := h.setFld rPwrBoot 46 9 (st.settle.toNat + st.slot.toNat * 2 ^ 3 + st.plane.toNat * 2 ^ 5 + bit01 st.bank * 2 ^ 8)
  let h := (h.setReg rNonce h.drawn).redraw
  if st.slot = h.brd.slot then h.setPhase 3 else h.enterRecovery 4

/-- RESET_N_DEASSERT (R426). -/
def execResetNDeassert (straps : Straps) (s : State) : Host.Outcome State Fault Refusal :=
  onHubV (fun v h => if h.brd.aonReset || h.brd.resetN then h else h.strapEdge v straps) s

/-! ### Recovery commands (R438, Table 16.7) -/

/-- A PF of a port reaches the recovery interface. -/
def Hub.rcvPort (h : Hub) (port : Nat) : Bool := h.inRecovery && h.hostOn port && (h.func (16 * port)).mem

/-- STATE of LCY_STATE. -/
def Hub.lcy (h : Hub) : Nat := h.fld rLcyState 61 3

/-- An area that ERASE and PROGRAM may change: the token area, or a bank that did not pass at this boot. -/
def Hub.rcvWritable (h : Hub) (area : Nat) : Bool := decide (area = 2) || (decide (area < 2) && !h.brd.passed.getD area false)

/-- A recovery command taken, or refused with RESULT 1; none while one is running. -/
def Hub.rcvTake (h : Hub) (port code : Nat) (ok : Bool) (act : Hub → Hub) : Hub :=
  if !h.rcvPort port || h.bit rRcvCtl 63 then h
  else
    let h := act h
    if ok && (decide (h.lcy ≠ 5) || decide (code = 4)) then
      let h : Hub := { h with brd := { h.brd with rcv := some code } }
      (h.setFld rRcvCtl 63 1 1).setFld rRcvCtl 60 3 0
    else h.setFld rRcvCtl 60 3 1

/-- RCV_ERASE (R438). -/
def execRcvErase (port : Fin 2) (area : BitVec 2) (s : State) : Host.Outcome State Fault Refusal :=
  onHub (fun h => h.rcvTake port.val 1 (h.rcvWritable area.toNat) fun h => h.setFld rRcvCtl 54 2 area.toNat) s

/-- RCV_PROGRAM (R438): the token area has 16 pages. -/
def execRcvProgram (port : Fin 2) (area : BitVec 2) (page : BitVec 12) (s : State) : Host.Outcome State Fault Refusal :=
  onHub (fun h => h.rcvTake port.val 2 (h.rcvWritable area.toNat && (decide (area.toNat < 2) || decide (page.toNat < 16)))
    fun h => (h.setFld rRcvCtl 54 2 area.toNat).setFld rRcvCtl 32 12 page.toNat) s

/-- RCV_VERIFY (R438): of a bank. -/
def execRcvVerify (port : Fin 2) (area : BitVec 2) (s : State) : Host.Outcome State Fault Refusal :=
  onHub (fun h => h.rcvTake port.val 3 (decide (area.toNat < 2)) fun h => h.setFld rRcvCtl 54 2 area.toNat) s

/-- RCV_ATTEST (R438). -/
def execRcvAttest (port : Fin 2) (s : State) : Host.Outcome State Fault Refusal :=
  onHub (fun h => h.rcvTake port.val 4 true id) s

/-- RCV_RESET (R438): the hub restarts as RESET_N restarts it, with the straps as they stand. A retired hub refuses it. -/
def execRcvReset (port : Fin 2) (s : State) : Host.Outcome State Fault Refusal :=
  onHubV (fun v h =>
    if !h.rcvPort port.val || h.bit rRcvCtl 63 then h
    else if h.lcy = 5 then h.setFld rRcvCtl 60 3 1
    else (h.held v).strapEdge v h.brd.straps) s

/-- `n` bytes of the recovery buffer from its start. -/
def Hub.rcvBytes (h : Hub) (n : Nat) : List Byte := wordsBytes ((List.range (n / 8)).map fun i => h.reg (rRcvBuf + 8 * i))

/-- BUSY ends with a RESULT. -/
def Hub.rcvEnd (h : Hub) (result : Nat) : Hub :=
  ({ h with brd := { h.brd with rcv := none } } : Hub).setFld rRcvCtl 60 4 result

/-- NVM with an area of a recovery command set. -/
def Vault.setArea (v : Vault) (area : Nat) (t : List (Nat × Byte)) : Vault :=
  if area = 2 then { v with token := t } else v.setBank (decide (area = 1)) t
/-- An area of a recovery command. -/
def Vault.area (v : Vault) (area : Nat) : List (Nat × Byte) := if area = 2 then v.token else v.bank (decide (area = 1))

/-- RECOVERY_CMD_DONE (R438): a device that failed leaves free bytes where it was to write. -/
def execRecoveryCmdDone (deviceOk : Bool) (s : State) : Host.Outcome State Fault Refusal :=
  onBoth (fun v h =>
    let area := h.fld rRcvCtl 54 2
    match h.brd.rcv with
    | none => (v, h)
    | some 1 =>
      if deviceOk then (v.setArea area [], h.rcvEnd 0)
      else (v.setArea area (nvmProgram [] 0 (Config.freeBytes h.draw 0x1000000)), h.redraw.rcvEnd 2)
    | some 2 =>
      let at_ := 4096 * h.fld rRcvCtl 32 12
      if deviceOk then (v.setArea area (nvmProgram (v.area area) at_ (h.rcvBytes 4096)), h.rcvEnd 0)
      else (v.setArea area (nvmProgram (v.area area) at_ (Config.freeBytes h.draw 4096)), h.redraw.rcvEnd 2)
    | some 3 =>
      let img := bankImage (v.area area)
      if !deviceOk then (v, h.rcvEnd 2)
      else if !(v.candidate img && v.imageVerified img) then (v, h.rcvEnd 3)
      else
        let ok := imgCompat Config.stepping.toNat img
        let h : Hub := { h with brd := { h.brd with compat := compatRecord (bit01 (!ok)) area img v.floor } }
        (v, h.rcvEnd (if ok then 0 else 4))
    | some 4 =>
      let rep := h.report_ v (h.rcvBytes 32) 0xFF
      let h := (List.range (ceilDiv rep.length 8)).foldl (fun h i => h.setReg (rRcvBuf + 8 * i) (leWord (slice rep (8 * i) 8))) h
      (v, (h.setFld rRcvCtl 0 13 rep.length).rcvEnd 0)
    | some _ => (v, h.rcvEnd 0)) s

end Sys2Proof.Machine
end

