-- ==== Sys2Proof/Machine/Registers.lean ====
section
/-! DEFINITION. Reads of the management registers, writes of those that have no command of their own (R6 to R13, R315, R453 to
R465), and the wright's clearing read (R455). -/
namespace Sys2Proof.Machine

/-! ### What a read returns -/

/-- Words of a byte string, eight bytes from an offset. -/
def wordAt (bs : List Byte) (off : Nat) : Word := leWord (slice bs off 8)

/-- SWC_SCARF with what the peers' tokens say (Table 4.10). -/
def Hub.scarfView (h : Hub) : Word :=
  let bits (f : Nat → Bool) (lo : Nat) : Nat := ((List.range 3).map fun n => bit01 (f n) * 2 ^ (lo + n)).sum
  bitsPut (bitsPut (h.reg rScarf) 8 3 (bits h.peerDrained 0)) 5 3 (bits h.peerLoaded 0)

/-- A code of a thread's state (Table 9.2). -/
def TState.code : TState → Nat
  | .idle => 0 | .run => 1 | .halted => 2 | .faulted => 3 | .stopped => 4

/-- BAY_TSTAT. -/
def Hub.tstatView (h : Hub) (b t : Nat) : Word :=
  let x := h.thread b t
  BitVec.ofNat 64 (x.state.code * 2 ^ 61 + bit01 x.hmode * 2 ^ 60 + x.cause * 2 ^ 48 + x.epc % 2 ^ 20 * 2 ^ 20 + x.pc % 2 ^ 20)

/-- BAY_QSTAT: OUTST counts the requests of the queue. -/
def Hub.qstatView (h : Hub) (b e q : Nat) : Word :=
  bitsPut (h.reg (rQstat b e q)) 0 9 (h.sill.out.filter fun o => decide (o.agent = .queue b e q)).length

/-- LNK_PSTAT: UNACK, FOM_MIN and LOCKED follow the port. -/
def Hub.pstatView (h : Hub) (p : Nat) : Word :=
  let fom := ((h.activeLanes p).map h.fom).foldl min 1023
  let locked := ((List.range 8).map fun i => bit01 (h.locked (laneOf p i)) * 2 ^ i).sum
  bitsPut (bitsPut (bitsPut (h.reg (rPstat p)) 40 11 (h.port p).unacked.length) 16 10 (if h.activeLanes p = [] then 0 else fom)) 0 8 locked

/-- KRF_FREE (Table 6.5). -/
def Hub.krfFreeView (h : Hub) : Word := BitVec.ofNat 64 (h.slowFree * 2 ^ 32 + h.fastFree * 2 ^ 16 + h.coll.waiting.length)

/-- SIL_TAGS (Table 17.8). -/
def Hub.tagsView (h : Hub) : Word :=
  let bays := h.sill.out.filter fun o => match o.agent with
    | .queue _ _ _ => true
    | .thread _ _ => true
    | _ => false
  BitVec.ofNat 64 (bays.length * 2 ^ 16 + (h.sill.out.filter fun o => decide (o.node = h.self)).length)

/-- MTS_FULLk. -/
def Hub.fullView (h : Hub) (k : Nat) : Word :=
  BitVec.ofNat 64 ((List.range 64).map fun j => bit01 (h.mortise (64 * k + j)).full * 2 ^ j).sum

/-- SEC_PART_STAT: SWEEP counts pages under the old epoch during REKEY. -/
def Hub.partView (h : Hub) (p : Nat) : Word :=
  bitsPut (h.reg (rPartStat p)) 0 40 (if h.partState p = ptRekey then (h.pagesUnder p (!h.wepoch p)).length else 0)

/-- SEC_KSLOT: INFLIGHT; all zero after DEVICE_FATAL (R376). -/
def Hub.kslotView (h : Hub) (n : Nat) : Word :=
  if 2 ≤ h.plumb.fatal then 0 else bitsPut (h.reg (rKslot n)) 0 32 (h.inflight n)

/-- HST_FUNC: PART is the function's partition. -/
def Hub.funcView (h : Hub) (f : Nat) : Word := bitsPut (h.reg (rHstFunc f)) 48 4 ((h.funcPart f).getD 0)

/-- A word with only the bits of a list of indices that hold. -/
def maskBits (w : Word) (ok : Nat → Bool) (n : Nat) : Word :=
  (List.range n).foldl (fun w i => if ok i then w else bitsPut w i 1 0) w

/-- A read of the bay pages (Table 17.10). -/
def Hub.readBay (h : Hub) (o : Nat) : Word :=
  let b := (o - 0x600000) / 0x1000
  let p := o % 0x1000
  if 0x100 ≤ p ∧ p < 0x500 ∧ p % 0x40 = 8 then h.qstatView b ((p - 0x100) / 0x100) ((p - 0x100) / 0x40 % 4)
  else if 0x800 ≤ p ∧ p < 0xA00 ∧ p % 0x20 = 8 then h.tstatView b ((p - 0x800) / 0x20)
  else if 0x800 ≤ p ∧ p < 0xA00 ∧ p % 0x20 = 0x10 then (h.thread b ((p - 0x800) / 0x20)).info
  else h.reg o

/-- A read of the switch core, sill, sawpit and kerf blocks. -/
def Hub.readCore (h : Hub) (o : Nat) : Word :=
  if o = rPoolFree then BitVec.ofNat 64 h.poolFree
  else if o = rScarf then h.scarfView
  else if o = rDrain 0 then BitVec.ofNat 64 (h.drainCount false)
  else if o = rDrain 1 then BitVec.ofNat 64 (h.drainCount true)
  else if 0x102000 ≤ o ∧ o < 0x104000 then (h.routeEntry (!h.epoch) (BitVec.ofNat 10 ((o - 0x102000) / 8))).setWidth 64
  else if 0x104000 ≤ o ∧ o < 0x106000 then (h.routeEntry h.epoch (BitVec.ofNat 10 ((o - 0x104000) / 8))).setWidth 64
  else if o = rSilTags then h.tagsView
  else if 0x230810 ≤ o ∧ o < 0x230830 then h.fullView ((o - 0x230810) / 8)
  else if o = rSawOpen then BitVec.ofNat 64 (h.coll.slots.filter fun x => decide (x.2.state ≠ .free)).length
  else if o = rKrfFree then h.krfFreeView
  else if 0x400040 ≤ o ∧ o < 0x4000C0 then
    BitVec.ofNat 64 (h.slowUse ((o - 0x400040) / 8) * 2 ^ 32 + h.fastUse ((o - 0x400040) / 8))
  else h.reg o

/-- A word of the wright's copy of the wear log (R465). -/
def Hub.readWlog (h : Hub) (r : Nat) : Word :=
  if r < 0x400000 then wordAt (tget [] h.wear.records (r / 128)) (r % 128)
  else wordAt (tget [] h.wear.sums ((r - 0x400000) / 256)) ((r - 0x400000) % 256)

/-- A word of the fault log (R380); zero in a 32-byte word that the decoder does not mend (R305). -/
def Hub.readLog (h : Hub) (r : Nat) : Word :=
  if r % 64 < 32 ∧ ¬ codeMends (tget 0 h.plumb.logBad (r / 64)) then 0 else (tget [] h.plumb.log (r / 64)).getD (r % 64 / 8) 0

/-- What a read of the fault log by the wright finds of its code (R305): an event under bit KRF for a bad word. -/
def Hub.logEvent (h : Hub) (o : Nat) : Hub :=
  let k := tget 0 h.plumb.logBad ((o - 0x30000) / 64)
  if 0x30000 ≤ o ∧ o < 0x40000 ∧ o % 64 < 32 ∧ k ≠ 0 then
    if codeMends k then h.report fltKrf .corrected 43 else h.report fltKrf .contained 43
  else h

/-- The value of an assigned register whose block answers. -/
def Hub.readLive (h : Hub) (o : Nat) : Word :=
  if 0x2000 ≤ o ∧ o < 0x4000 then (if h.inRecovery then h.reg o else 0)
  else if o = rClkBay then maskBits (h.reg o) h.bayClockable 64
  else if o = rClkBlk then maskBits (h.reg o) h.blkClockable 18
  else if o = rClkTime then BitVec.ofNat 64 h.now
  else if 0x30000 ≤ o ∧ o < 0x40000 then h.readLog (o - 0x30000)
  else if 0x50100 ≤ o ∧ o < 0x50180 then h.partView ((o - 0x50100) / 8)
  else if 0x50200 ≤ o ∧ o < 0x50400 then h.kslotView ((o - 0x50200) / 8)
  else if 0x100000 ≤ o ∧ o < 0x500000 then h.readCore o
  else if 0x600000 ≤ o ∧ o < 0x640000 then h.readBay o
  else if 0x700000 ≤ o ∧ o < 0x720000 then
    (if o % 0x1000 = 0 then h.funcView ((o - 0x700000) / 0x1000) else if o % 0x1000 = 8 then h.reg rNonce else h.reg o)
  else if 0x800000 ≤ o ∧ o < 0xC04000 then h.readWlog (o - 0x800000)
  else if 0x1000000 ≤ o ∧ o < 0x1005600 ∧ o % 0x100 = 8 then h.pstatView ((o - 0x1000000) / 0x100)
  else h.reg o

/-- A 64-bit read of a management offset: zero where none is assigned or its block does not answer (R12, R445, R448). -/
def Hub.regRead (h : Hub) (o : Nat) : Word :=
  if (regInfo o).isSome && h.regLive o then h.readLive o else 0

/-! ### What a host reads -/

/-- A function's BARs answer its host (R313); in RECOVERY only those of a PF do (R437). -/
def Hub.barOn (h : Hub) (f : Nat) : Bool :=
  h.hostOn (f / 16) && (if h.inRecovery then isPf f else h.funcOn f) && (h.func f).mem

/-- An offset of the PWR, FLT or LCY block, all that BAR0 presents in RECOVERY (R437). -/
def rcvBlock (o : Nat) : Bool :=
  decide (o < 0x10000) || (decide (0x20000 ≤ o) && decide (o < 0x30000)) || (decide (0x40000 ≤ o) && decide (o < 0x50000))

/-- What an access of some width reads of a register (R6). -/
def Half.pick (x : Half) (w : Word) : Word :=
  match x with
  | .full => w
  | .low => loHalf w
  | .high => hiHalf w
  | .other => 0

/-- A read of BAR0 by a function (R6, R315): a PF reads every register, a VF its own HST_ registers and SCR_INV; every other
offset reads as zero. In RECOVERY a PF reads the PWR, LCY and FLT registers alone (R437). -/
def Hub.bar0Read (h : Hub) (f o : Nat) (half : Half) : Word := half.pick <|
  if h.inRecovery && !rcvBlock o then 0
  else if h.barOn f && (isPf f || decide (o = rScrInv) || (decide (0x700000 ≤ o) && decide (o < 0x720000) && decide ((o - 0x700000) / 0x1000 = f)))
  then h.regRead o else 0

/-- HEAD of a ring (Table 12.4). -/
def Hub.headView (h : Hub) (f r : Nat) : Word :=
  BitVec.ofNat 64 (bit01 (decide ((h.ring f r).err ≠ 0)) * 2 ^ 63 + h.inFlight f r % 2 ^ 11 * 2 ^ 32 + (h.ring f r).head % 2 ^ 32)

/-- STAT of a mortise (Table 12.11). -/
def Hub.mtsStat (h : Hub) (n : Nat) : Word :=
  let m := h.mortise n
  BitVec.ofNat 64 (bit01 m.full * 2 ^ 63 + m.rej % 4 * 2 ^ 48 + m.takes % 2 ^ 32)

/-- A word of the notice that a mortise holds, for RX_FUNC of a mortise with RX_HOST = 1 (R334); zero for any other reader. -/
def Hub.noticeView (h : Hub) (f n off : Nat) : Word :=
  if h.bit (rMtsCfg n) 57 && decide (h.fld (rMtsCfg n) 52 5 = f) && (h.mortise n).full then wordAt (h.mortise n).notice off else 0

/-- A read of BAR4 without an effect (R6, R318, Tables 12.4 and 12.11): HEAD, STAT, the notice, the MSI-X table and the PBA. FENCE and
COMMIT are commands of their own. -/
def Hub.bar4Read (h : Hub) (f o : Nat) (half : Half) : Word := half.pick <|
  if !h.bar4On f then 0
  else if o < 0x400 ∧ o % 0x40 = 8 then h.headView f (o / 0x40)
  else if 0x8000 ≤ o ∧ o < 0xC000 then
    let n := (o - 0x8000) / 0x40
    if o % 0x40 = 0x18 then h.mtsStat n
    else if o % 0x40 = 0x20 then h.noticeView f n 0
    else if o % 0x40 = 0x28 then h.noticeView f n 8
    else 0
  else if 0xC000 ≤ o ∧ o < 0xC200 ∧ o % 8 = 0 then (h.func f).vector ((o - 0xC000) / 8)
  else if o = 0xE000 then BitVec.ofNat 64 (h.func f).pending
  else 0

/-! ### The wright's clearing read (R6, R455) -/

/-- The bits of a register that a read by the wright clears. -/
def rcMask (o : Nat) : Word := match regInfo o with | some i => i.rc | none => 0

/-- WRIGHT_RC_READ (R6, R455): only an aligned 64-bit read clears. -/
def execWrightRcRead (off : BitVec 26) (half : Half) (s : State) : Host.Outcome State Fault Refusal :=
  onHub (fun h =>
    if !h.wrightRuns then h
    else
      let o := off.toNat
      let h' := ({ h with brd := { h.brd with wrightOut := half.pick (h.regRead o) } } : Hub).logEvent o
      if half = .full ∧ h.regLive o ∧ o % 8 = 0 then h'.setReg o (h.reg o &&& ~~~ (rcMask o)) else h') s

/-! ### Writes (R7, R454) -/

/-- A write by the access codes of Table 0.3: RW bits take the value, W1C bits written 1 clear. -/
def Hub.plainWrite (h : Hub) (o : Nat) (a : Access) : Hub :=
  match regInfo o with
  | none => h
  | some i =>
    let w := a.merge i.rw (h.reg o)
    h.setReg o (w &&& ~~~ (a.value &&& a.half.lanes &&& i.w1c))

/-- A write of SWC_SCARF_CMD (Table 4.11): COMMIT, then FLIP. -/
def Hub.scarfCmdWrite (h : Hub) (a : Access) : Hub :=
  let v := a.value &&& a.half.lanes
  let h := if bitAt v 0 then h.scarfCommit else h
  if bitAt v 1 then h.scarfFlip else h

/-- A write of MEM_UNC_ADDR or SCR_BFLT: clearing VALID also clears OVF (Tables 10.8, 11.3). -/
def Hub.validWrite (h : Hub) (o : Nat) (a : Access) : Hub :=
  if bitAt (a.value &&& a.half.lanes) 63 then (h.setFld o 63 1 0).setFld o 62 1 0 else h

/-- A write of a register that REG_WRITE may name, by that register's rules; every other by its access codes. -/
def Hub.bayWrite (h : Hub) (o : Nat) (a : Access) : Hub :=
  match grantedOf o with
  | .other => h.plainWrite o a
  | g => h.grantedWrite g a

/-- A write by the wright of a register that answers. -/
def Hub.wrightWrite (h : Hub) (o : Nat) (a : Access) : Hub :=
  if 0x2000 ≤ o ∧ o < 0x4000 then (if h.inRecovery && !h.bit rRcvCtl 63 then h.plainWrite o a else h)
  else if o = rPwrDom then h.pwrDomWrite a
  else if o = rClkBay then h.clkBayWrite a
  else if o = rClkBlk then h.clkBlkWrite a
  else if o = rFltFirst then h.firstWrite a
  else if o = rFltInj then h.injWrite a
  else if o = rFltLog then h.consWrite o a
  else if o = rLifetime then h.lifetimeWrite a
  else if o = rScarfCmd then h.scarfCmdWrite a
  else if o = rSmpCtl then h.smpCtlWrite a
  else if o = rSmpRing then (if h.bit rSmpCtl 63 then h else h.plainWrite o a)
  else if o = rSmpIdx then h.consWrite o a
  else if 0x102000 ≤ o ∧ o < 0x104000 then h.rtEntryWrite ((o - 0x102000) / 8) a
  else if 0x230000 ≤ o ∧ o < 0x230800 then h.mtsWrite ((o - 0x230000) / 8) a
  else if o = rSawSeed then h.seedWrite (a.merge (rwMask o) (h.reg o))
  else if o = rMemUnc ∨ (0x503000 ≤ o ∧ o < 0x503400 ∧ o % 0x10 = 0) then h.validWrite o a
  else if o = rScrInv then h.invWrite .wright a
  else if 0x1000000 ≤ o ∧ o < 0x1005600 ∧ o % 0x100 = 0 then h.pctlWrite ((o - 0x1000000) / 0x100) a
  else if 0x1010000 ≤ o ∧ o < 0x1012B00 ∧ o % 0x10 = 8 then h.prbsWrite ((o - 0x1010000) / 0x10) a
  else h.bayWrite o a

/-- A register that a function may write (R315): a PF those of its port's functions, a VF its own, and SCR_INV. -/
def funcMayWrite (f o : Nat) : Bool :=
  decide (o = rScrInv) || (decide (0x700000 ≤ o) && decide (o < 0x720000) &&
    (let g := (o - 0x700000) / 0x1000
     if isPf f then decide (g / 16 = f / 16) else decide (g = f)))

/-- A recovery command written to CMD (R438, Table 16.7), with AREA and PAGE as they stand; a reserved one is refused. -/
def Hub.rcvCommand (v : Vault) (h : Hub) (port cmd : Nat) : Hub :=
  let area := h.fld rRcvCtl 54 2
  if cmd = 1 then h.rcvTake port 1 (h.rcvWritable area) id
  else if cmd = 2 then h.rcvTake port 2 (h.rcvWritable area && (decide (area < 2) || decide (h.fld rRcvCtl 32 12 < 16))) id
  else if cmd = 3 then h.rcvTake port 3 (decide (area < 2)) id
  else if cmd = 4 then h.rcvTake port 4 true id
  else if cmd = 5 ∧ h.lcy ≠ 5 then (h.held v).strapEdge v h.brd.straps
  else h.setFld rRcvCtl 60 3 1

/-- A write by a function in RECOVERY reaches the recovery buffer, and PWR_RCV_CTL, whose CMD runs a command (R438, R454, R458). -/
def Hub.rcvWrite (v : Vault) (h : Hub) (f o : Nat) (a : Access) : Hub :=
  if !(isPf f && h.rcvPort (f / 16)) || h.bit rRcvCtl 63 then h
  else if 0x2000 ≤ o ∧ o < 0x4000 ∧ o % 8 = 0 then h.plainWrite o a
  else if o = rRcvCtl then
    let cmd := bitsGet (a.value &&& a.half.lanes) 56 4
    if cmd = 0 then h.plainWrite o a else (h.plainWrite o a).rcvCommand v (f / 16) cmd
  else h

/-- A write by a function (R315). -/
def Hub.funcWrite (v : Vault) (h : Hub) (f o : Nat) (a : Access) : Hub :=
  if h.inRecovery then h.rcvWrite v f o a
  else if !(h.hostOn (f / 16) && h.funcOn f && (h.func f).mem) || !funcMayWrite f o then h
  else if o = rScrInv then h.invWrite (.func ⟨f % 32, Nat.mod_lt f (by decide)⟩) a
  else h.plainWrite o a

/-- REGISTER_WRITE (R7, R12, R454). -/
def execRegisterWrite (w : Writer) (off : BitVec 26) (a : Access) (s : State) : Host.Outcome State Fault Refusal :=
  onHubV (fun v h =>
    let o := off.toNat
    match w with
    | .wright => if h.wrightRuns && (regInfo o).isSome then h.writeAt o a fun h => h.wrightWrite o a else h
    | .func f => if (regInfo o).isSome then h.writeAt o a fun h => h.funcWrite v f.val o a else h) s

end Sys2Proof.Machine
end

