-- ==== Sys2Proof/Machine/Boot.lean ====
section
/-! DEFINITION. Start-up from the settle delay to READY (R427, R434 to R436, R439 to R442), with transition tokens (R368), memory
training (R308) and the full wipe (R309, R310, R369). -/
namespace Sys2Proof.Machine

/-- Start-up stands at a step, and no DEVICE_FATAL has stopped it. -/
def Hub.booting (h : Hub) (ph : Nat) : Bool := h.brd.resetN && decide (h.phase = ph) && decide (h.plumb.fatal < 2)

/-- The next step begins. -/
def Hub.nextStep (h : Hub) (ph : Nat) : Hub := ({ h with brd := { h.brd with stepAt := h.now } } : Hub).setPhase ph

/-! ### Step 4: key slots, life-cycle state and tokens (R347, R368) -/

/-- A spare for each failed slot below 50, lowest first; none where the spares do not suffice. -/
def mapSpares (bad : List Nat) : Option (Table Nat) :=
  let need := (List.range 50).filter bad.contains
  let free := ((List.range 14).map (50 + ·)).filter fun n => !bad.contains n
  if free.length < need.length then none else some (need.zip free)

/-- The bytes of the token area that hold a token. -/
def Vault.tokenBytes (v : Vault) : List Byte := nvmRead v.token 0 242

/-- The keys that may sign the transition to a state (Table 13.13); none where it is no transition. -/
def Vault.tokenKeys (v : Vault) (target suffix : Nat) : List (List Byte) :=
  let owner := if v.owners = [] then [] else [v.ownerKey]
  if v.state = 0 ∧ target = 1 then [Config.broefKey 0]
  else if v.state = 1 ∧ target = 2 then owner
  else if (v.state = 2 ∨ v.state = 4) ∧ target = 3 then owner
  else if v.state = 3 ∧ target = 2 then owner
  else if v.state = 3 ∧ target = 4 ∧ 1 ≤ suffix ∧ suffix ≤ 3 then [Config.broefKey 1]
  else if v.state < 5 ∧ target = 5 then owner ++ [Config.broefKey 1]
  else []

/-- NEW_OWNER of a token. -/
def tokenOwner (t : List Byte) : List Byte := slice t 20 64

/-- TOKEN (Table 13.14) for the token area's contents: 0 where it is erased, 1 where the token is to be applied. -/
def Vault.tokenCode (v : Vault) : Nat :=
  let t := v.tokenBytes
  let target := imgNum t 0 1
  let zero := (tokenOwner t).all fun b => decide (b = 0)
  if t.all fun b => decide (b = 0xFF) then 0
  else if imgNum t 4 8 ≠ v.serial ∨ imgNum t 12 8 ≠ v.wipes ∨
      ¬ (v.tokenKeys target (imgNum t 1 1)).any (fun k => Config.ed448Verify k (t.take 128) (slice t 128 114)) then 2
  else if v.state = 0 ∧ target = 1 ∧ zero then 4
  else if ¬ zero ∧ 4 ≤ v.owners.length then 3
  else 1

/-- NVM and fuses after a token has been applied (R368, steps 1 to 4). A SUFFIX once given stays in the states that follow REGRADED
(DESIGN CHOICE, log entry 37: R3 ties it to REGRADED). -/
def Vault.applyToken (v : Vault) : Vault :=
  let t := v.tokenBytes
  let target := imgNum t 0 1
  let owner := tokenOwner t
  { v with trans := v.trans + 1, state := target, sealed := v.trans + 1, token := [],
           suffix := if target = 4 then imgNum t 1 1 else v.suffix,
           owners := if owner.all (fun b => decide (b = 0)) then v.owners else v.owners ++ [owner] }

/-- The highest suffix that a RETURNED device is recertified at (R370, Table 13.16): its core AVS margin in mV, worst figure of merit,
ports narrowed to x4, most corrected pool errors of a tier in a day, and uncorrectable ones of 30 days. None may go only to RETIRED. Who
signs the token judges it; the hub takes the suffix that the token bears (R368). -/
def recertified (mv : Int) (fom narrow corr unc : Nat) : Option Nat :=
  if unc ≠ 0 then none
  else if 25 ≤ mv ∧ 600 ≤ fom ∧ narrow = 0 ∧ corr ≤ 10 then some 1
  else if 15 ≤ mv ∧ 450 ≤ fom ∧ narrow ≤ 2 ∧ corr ≤ 1000 then some 2
  else if 8 ≤ mv ∧ 350 ≤ fom ∧ narrow ≤ 8 then some 3
  else none

/-! ### Steps 5 and 6: bank choice, compatibility and straps (R16, R435, R436) -/

/-- The bank that start-up runs: of the candidates in ROLLBACK order, ties to the preferred bank, the first that verifies. -/
def Vault.chooseBank (v : Vault) (pref : Bool) : Option Bool :=
  let a := imgRollback (bankImage v.bankA)
  let b := imgRollback (bankImage v.bankB)
  let first := if b < a then false else if a < b then true else pref
  [first, !first].find? fun k => v.candidate (bankImage (v.bank k)) && v.imageVerified (bankImage (v.bank k))

/-- The plane count of an image's NODES record. -/
def imgPlanes (img : List Byte) : Option Nat :=
  ((configOf img 1).head?.bind fun b => Config.nodesRecord b 72).map fun (w : Word) => w.toNat

/-- The straps name the plane that the image and the slot allow (R16). With no plane count every plane passes, and any count but 8 acts
as four (DESIGN CHOICE, log entry 37). -/
def strapsFit (st : Straps) (img : List Byte) : Bool :=
  decide (st.slot.toNat = st.plane.toNat % 4) && (match imgPlanes img with
    | some n => decide (st.plane.toNat < n)
    | none => true)

/-- Steps 5 to 7 up to the first domain's switching on. -/
def Hub.startImage (v : Vault) (h : Hub) : Hub :=
  let dig (b : Bool) : List Byte := Config.shake256 64 (nvmRead (v.bank b) 0 0x1000000)
  let h : Hub := { h with brd := { h.brd with digA := dig false, digB := dig true } }
  match v.chooseBank h.brd.straps.bank with
  | none => h.enterRecovery 1
  | some b =>
    let img := bankImage (v.bank b)
    let ok := imgCompat Config.stepping.toNat img
    let h : Hub := { h with brd := { h.brd with bank := b, image := img, passed := [!b, b],
                                                compat := compatRecord (bit01 (!ok)) (bit01 b) img v.floor } }
    let h := (h.setFld rPwrBoot 55 1 (bit01 b)).setFld rPwrBoot 34 6 (imgRollback img)
    if !ok then h.enterRecovery 2
    else if !strapsFit h.brd.straps img then h.enterRecovery 4
    else
      let h := h.nextStep 7
      let h := h.setFld rPwrDom 0 20 0xFFFFF
      { h with brd := { h.brd with todo := domainOrder } }

/-- Step 4 once the self-test has passed: the system slots are keyed, a token is acted on, and the state decides how start-up goes
on. -/
def startSecurity (v : Vault) (h : Hub) : Vault × Hub :=
  let h := (h.freshSlot 32 (kslotWord ksWrite 1 0 false)).freshSlot 33 (kslotWord ksRead 1 0 true)
  if v.sealed ≠ v.trans then (v, h.enterRecovery 5)
  else
    let code := v.tokenCode
    let applied := decide (code = 1)
    let v := if applied then v.applyToken else v
    let h : Hub := { h with brd := { h.brd with wipeCause := bit01 applied, wipeTwice := applied },
                            sec := { h.sec with identity := if v.state = 5 then [] else h.sec.identity } }
    let h := h.setReg rLcyState (v.lcyWord code)
    (v, if v.state = 0 then h.enterRecovery 6 else if v.state = 5 then h.enterRecovery 7 else h.startImage v)

/-- SETTLE_DELAY_EXPIRY (R427, steps 4 to 7): `badSlots` fail their self-test. -/
def execSettleDelayExpiry (refclkCore : Bool) (badSlots : List (Fin 64)) (secOk : Bool) (s : State) :
    Host.Outcome State Fault Refusal :=
  onBoth (fun v h =>
    if !h.booting 3 || decide (h.now < h.brd.strapAt + 2 ^ h.brd.straps.settle.toNat * 1000000) then (v, h)
    else if !refclkCore then (v, (h.report fltClk .deviceFatal 35).setFld rFltPin 0 1 1)
    else
      let h := h.nextStep 4
      match (if secOk then mapSpares (badSlots.map (·.val)) else none) with
      | none => (v, h.report fltSec .deviceFatal 36)
      | some sp => startSecurity v { h with sec := { h.sec with spares := sp } }) s

/-! ### Step 8: CONFIG (R434) -/

/-- NODES: the hub's node and planes, the functions and the nodes expected on joists. -/
def Hub.applyNodes (h : Hub) (body : List Byte) : Hub :=
  let node (k : Nat) : Option Nat := (Config.nodesRecord body k).map fun (w : Word) => w.toNat
  let st := h.brd.straps
  let h := h.setReg rSelfNode (BitVec.ofNat 64 ((node 73).getD 0 % 1024 + st.plane.toNat * 2 ^ 16 + st.slot.toNat * 2 ^ 20
    + bit01 (decide (node 72 = some 8)) * 2 ^ 24))
  let h := (List.range 32).foldl (fun h f =>
    h.setReg (rHstFunc f) (match node (74 + f) with
      | some n => BitVec.ofNat 64 (n % 1024 + bit01 (isPf f) * 2 ^ 62 + 2 ^ 63)
      | none => 0)) h
  let js : Table Nat := (List.range 72).foldl (fun t j => match node j with
    | some n => tset 0 t j (1024 + n % 1024)
    | none => t) []
  { h with brd := { h.brd with joists := js } }

/-- ROUTES: the entries of bank 0. -/
def Hub.applyRoutes (h : Hub) (body : List Byte) : Hub :=
  let es : Table (BitVec 32) := (List.range 1024).foldl (fun t n => tset 0 t n (BitVec.ofNat 32 (imgNum body (4 * n) 4))) []
  { h with swc := { h.swc with routes0 := es } }

/-- A pair of REGS: fields that only the image sets (KRF_CFG.SLOW, Table 6.6) as well. -/
def Hub.configWrite (h : Hub) (o : Nat) (w : Word) : Hub :=
  let h := if o = rVcMap then h else h.writeAt o { value := w } fun h => h.wrightWrite o { value := w }
  if o = rKrfCfg then h.setFld rKrfCfg 0 21 (min 1048576 (bitsGet w 0 21)) else h

/-- A CONFIG record applied. -/
def Hub.applyRecord (h : Hub) (r : Nat × List Byte) : Hub :=
  if r.1 = 1 then h.applyNodes r.2
  else if r.1 = 2 then h.applyRoutes r.2
  else if r.1 = 3 then h.partApply (leWords 32 r.2)
  else if r.1 = 4 then (regPairs r.2.length r.2).foldl (fun h p => h.configWrite p.1 p.2) h
  else h

/-- A joist named by the image. -/
def Hub.joistNamed (h : Hub) (j : Nat) : Bool := decide (tget 0 h.brd.joists j ≠ 0)

/-- EN of each joist from NODES (R17). -/
def Hub.joistEnables (h : Hub) : Hub := (List.range 72).foldl (fun h j => h.setFld (rPctl j) 63 1 (bit01 (h.joistNamed j))) h

/-- The pairs of every REGS record, in order. -/
def imgPairs (img : List Byte) : List (Nat × Word) := (configOf img 4).flatMap fun b => regPairs b.length b

/-- No REGS pair leaves a joist's EN at another value than NODES gives (R17). -/
def Hub.joistPairsOk (h : Hub) (ps : List (Nat × Word)) : Bool :=
  (List.range 72).all fun j => match (ps.filter fun p => decide (p.1 = rPctl j)).getLast? with
    | some p => decide (bitAt p.2 63 = h.joistNamed j)
    | none => true

/-- The node IDs of NODES are unique, of 10 bits, and none is 0x3FF; the hub has one (R26). -/
def nodesOk (body : List Byte) : Bool :=
  let ids := ((List.range 72) ++ ((List.range 33).map (73 + ·))).filterMap fun k => (Config.nodesRecord body k).map fun (w : Word) => w.toNat
  (Config.nodesRecord body 73).isSome && ids.all (fun n => decide (n < 0x3FF)) && decide ids.Nodup

/-- Records that are pairwise apart. -/
def recsApart : List (List Word) → Bool
  | [] => true
  | a :: r => (r.all fun b => recApart a b && decide (recPart a ≠ recPart b)) && recsApart r

/-- Usable stripes of the devices of Table 11.1 (R295, R296): 32 KiB of HBM3E, and 8 KiB of LPDDR5X. -/
def hbmStripes : Nat := 0x430E23
/-- As `hbmStripes`. -/
def lpStripes : Nat := 0x34FB5E0

/-- The hub with the extents that its devices have, which the registers show only after step 9. -/
def Hub.asPopulated (h : Hub) : Hub :=
  (h.setFld rMemTop 0 23 hbmStripes).setFld rMemTop 32 26 (if h.domainOn 10 then lpStripes else 0)

/-- The PART records pass R344. -/
def Hub.imagePartsOk (h : Hub) (ps : List (List Word)) : Bool :=
  ps.all recFormOk && recsApart ps && spansDisjoint (ps.flatMap recRegions) && (ps.flatMap recRegions).all h.asPopulated.regionThere &&
  ps.all h.recEnabled && ps.all h.recQuotaOk

/-- CONFIG and the firmware sections are accepted (R17, R26, R111, R124, R344, R434, R442), judged on what they have set. -/
def Hub.configOk (h : Hub) (img : List Byte) : Bool :=
  let parts := (configOf img 3).map (leWords 32)
  let ps := imgPairs img
  !([1, 2, 3, 4].any fun t => Config.sectionRejected (imgSection img t)) &&
  decide ((configOf img 1).length = 1) && (configOf img 1).all nodesOk && h.joistPairsOk ps &&
  decide (88 * ((List.range 5).map h.qmin).sum ≤ 720896) &&
  (ps.all fun p => decide (p.1 ≠ rVcMap) || decide (p.2 = 0x9876543210)) &&
  h.imagePartsOk parts && (!imgFlag img 1 || parts.isEmpty)

/-- The configuration of the command mortises (R336). -/
def Hub.commandMortises (h : Hub) : Hub :=
  (List.range 32).foldl (fun h f =>
    h.setReg (rMtsCfg (224 + f)) (BitVec.ofNat 64 (bit01 (h.funcOn f) * 2 ^ 63 + 2 ^ 62 + 2 ^ 36 + f * 2 ^ 31 + 2 ^ 19))) h

/-- Step 8: firmware loaded and CONFIG applied, or RECOVERY. -/
def Hub.loadImage (h : Hub) : Hub :=
  let img := h.brd.image
  let h := ((imgConfig img).foldl Hub.applyRecord (h.nextStep 8)).joistEnables
  if h.configOk img then h.commandMortises.nextStep 9
  else ({ h with brd := { h.brd with compat := h.brd.compat.set 2 3 } } : Hub).enterRecovery 3

/-! ### Step 7: domains (R444, R445) -/

/-- A domain has power-good. A host port starts training where PERST# is high (R441); LPDDR5X switched on at run time waits for
its training. -/
def Hub.powerGood (h : Hub) (d : Nat) : Hub :=
  let h := h.setFld rPwrDom (32 + d) 1 1
  let b := h.brd
  { h with brd := { b with todo := b.todo.drop 1, stepAt := h.now,
                           pcieAt := if d = 11 then b.perst.map (!·) else b.pcieAt,
                           step := if d = 10 ∧ 11 ≤ h.phase then 9 else b.step } }

/-- The domain that is switching on. -/
def Hub.switching (h : Hub) (d : Nat) : Bool := h.brd.resetN && decide (h.plumb.fatal < 2) && decide (h.brd.todo.head? = some d)

/-- DOMAIN_POWER_GOOD (R444): the next domain starts; after the last of step 7 the image is loaded. -/
def execDomainPowerGood (d : Fin 20) (s : State) : Host.Outcome State Fault Refusal :=
  onHub (fun h =>
    if !h.switching d.val then h
    else
      let h := h.powerGood d.val
      if h.phase = 7 ∧ h.brd.todo = [] then h.loadImage else h) s

/-- DOMAIN_POWER_GOOD_TIMEOUT (R439). -/
def execDomainPowerGoodTimeout (d : Fin 20) (s : State) : Host.Outcome State Fault Refusal :=
  onHub (fun h =>
    if h.switching d.val && decide (h.brd.stepAt + 2000000 ≤ h.now) then h.report fltPwr .deviceFatal 37 else h) s

/-! ### Steps 9 and 10: memory -/

/-- LPDDR5X as training left it (R308): a rate and its stripes, or absent with a CONTAINED fault, which is DEVICE_FATAL where the
image requires the tier. A tier whose domain is off is absent without one. -/
def Hub.lpTrained (h : Hub) (r : Training) : Hub :=
  if !h.domainOn 10 then (h.setFld rMemTop 58 2 3).setFld rMemTop 32 26 0
  else match r.lpRate with
    | some k => (h.setFld rMemTop 58 2 k.val).setFld rMemTop 32 26 lpStripes
    | none =>
      ((h.setFld rMemTop 58 2 3).setFld rMemTop 32 26 0).report fltLpd (if imgFlag h.brd.image 3 then .deviceFatal else .contained) 38

/-- The stacks that failed training. -/
def Training.failed (r : Training) : List Nat := (List.range 4).filter fun k => !r.trained.getLsbD k

/-- MEMORY_TRAINING_DONE (R296, R308, R369): in step 9 the wipe count advances and the full wipe starts; at run time the LPDDR5X
tier comes back wiped (R445). -/
def execMemoryTrainingDone (r : Training) (s : State) : Host.Outcome State Fault Refusal :=
  onBoth (fun v h =>
    if h.booting 9 then
      (if r.failed ≠ [] then (v, r.failed.foldl (fun h k => h.report (fltHbm k) .deviceFatal 39) h)
       else
         let h := (h.setFld rMemTop 0 23 hbmStripes).lpTrained r
         if 2 ≤ h.plumb.fatal then (v, h)
         else
           let h := (h.setReg rLcyWipes (BitVec.ofNat 64 (v.wipes + 1))).setReg rMemWipe 0
           ({ v with wipes := v.wipes + 1 }, ({ h with brd := { h.brd with wipeAt := h.now, step := 0, wipeFail := none } } : Hub).nextStep 10))
    else if h.brd.step = 9 ∧ h.brd.resetN ∧ 11 ≤ h.phase then
      (v, ({ h with brd := { h.brd with step := 0 } } : Hub).lpTrained r)
    else (v, h)) s

/-- Memory and every guarded SRAM zero, the fault log of the kerf SRAM among them, every pool page CLEAR (R309, R369, R380). -/
def Hub.wiped (h : Hub) : Hub :=
  { h with mem := {}, bays := { h.bays with caches := [] }, scr := { h.scr with buffers := [] },
           sec := { h.sec with pages := [] }, plumb := { h.plumb with log := [], logBad := [] } }

/-- MEM_WIPE_STAT at the end of a wipe (Table 11.7). -/
def Hub.wipeStat (h : Hub) (verified : Bool) (result unit : Nat) : Word :=
  BitVec.ofNat 64 (2 ^ 63 + bit01 verified * 2 ^ 62 + result * 2 ^ 48 + (if result = 0 then 0xFF else unit) * 2 ^ 40
    + (h.now - h.brd.wipeAt) / 1000000 % 2 ^ 32)

/-- The full wipe ends, and the links train (steps 10 and 11). EVER_OPEN covers the time since (Table 13.10). -/
def Hub.wipeEnd (h : Hub) (verified : Bool) (result unit : Nat) : Hub :=
  let h := h.setReg rMemWipe (h.wipeStat verified result unit)
  let h := if result = 0 then h else h.report fltWipe .contained 40
  let h : Hub := { h with brd := { h.brd with step := 0, debug := if h.brd.debug &&& 7 = 0 then 0 else h.brd.debug } }
  let h := h.nextStep 11
  (List.range 86).foldl (fun h p => if h.mayTrain p then h.enterDetect p else h) h

/-- WIPE_WRITE_PASS_DONE (R309, R310): `fail` is the first unit that could not write. -/
def execWipeWritePassDone (fail : Option (Fin 17)) (s : State) : Host.Outcome State Fault Refusal :=
  onHub (fun h =>
    if !h.booting 10 || decide (h.brd.step ≠ 0) then h
    else
      let h := h.wiped
      if h.brd.wipeTwice || imgFlag h.brd.image 2 then
        { h with brd := { h.brd with step := 1, wipeFail := fail.map (·.val) } }
      else match fail with
        | none => h.wipeEnd false 0 0
        | some u => h.wipeEnd false 1 u.val) s

/-- WIPE_VERIFY_PASS_DONE (R310): `fail` is the first unit with a word that failed twice. -/
def execWipeVerifyPassDone (fail : Option (Fin 17)) (s : State) : Host.Outcome State Fault Refusal :=
  onHub (fun h =>
    if !h.booting 10 || decide (h.brd.step ≠ 1) then h
    else match fail, h.brd.wipeFail with
      | some u, _ => h.wipeEnd true 2 u.val
      | none, some u => h.wipeEnd true 1 u
      | none, none => h.wipeEnd true 0 0) s

/-! ### Steps 11 and 12 -/

/-- Every enabled girt is ACTIVE. -/
def Hub.girtsUp (h : Hub) : Bool := (List.range 6).all fun g => !h.bit (rPctl (72 + g)) 63 || h.linkUp (72 + g)

/-- LINK_TRAINING_WINDOW_EXPIRY (R440, R442): a TEST image stops here. -/
def execLinkTrainingWindowExpiry (s : State) : Host.Outcome State Fault Refusal :=
  onHub (fun h =>
    if !h.booting 11 || !(h.girtsUp || decide (h.brd.stepAt + 200000000 ≤ h.now)) then h
    else if imgFlag h.brd.image 1 then h.setPhase phTest
    else (List.range 86).foldl Hub.sendToken (h.nextStep 12)) s

/-- READY_EDGE (R440): 1 ms after the first tokens. -/
def execReadyEdge (s : State) : Host.Outcome State Fault Refusal :=
  onBoth (fun v h =>
    if !h.booting 12 || decide (h.now < h.brd.stepAt + 1000000) then (v, h)
    else
      let v := if imgFlag h.brd.image 0 then { v with floor := max v.floor (min 63 (imgRollback h.brd.image)) } else v
      let h := (List.range 64).foldl (fun h b => h.setFld (rBayMode b) 0 2 0) (h.setPhase phReady)
      (v, (h.setFld rPwrBoot 40 6 v.floor).setFld rPwrBoot 0 32 ((h.now - h.brd.strapAt) / 1000000))) s

end Sys2Proof.Machine
end

