-- ==== Sys2Proof/Machine/Egress.lean ====
section
/-! DEFINITION. The egress of the hub (R100, R115, R116, R123, R364): the head of a queue sent, replicated or dropped. -/
namespace Sys2Proof.Machine

/-- The operation for which the sill sent a collective packet that was dropped ends with TENANT_GONE (R364): the collective of a COLR,
the local member of a COLC. -/
def Hub.goneOp (h : Hub) (p : Packet) : Hub :=
  if p.cls = 2 ∧ p.src = h.self then
    (if (h.slot p.cid).gen = p.gen then h.endColl p.cid nakGone 0 0 else h)
  else if p.cls = 1 then
    match h.coll.members.find? fun m => decide (m.node = p.src) && decide (m.hub = p.dst) && decide (m.cid = p.cid) &&
        decide (m.gen = p.gen) && decide (m.memb = p.memb) with
    | some m => h.memberEnd m nakGone 0 0 0 0
    | none => h
  else h

/-- A dropped packet of a destroyed key slot (R364): counted for its partition; a request is NAKed with TENANT_GONE, and the operation of
a collective packet that the sill sent ends. Every member of a combine group is such a packet. -/
def Hub.tenantGone (h : Hub) (x : Held) : Hub :=
  x.members.foldl (fun h m =>
    let p := m.pkt.kslot.toNat / 2
    let h : Hub := { h with sec := { h.sec with drops := tset 0 h.sec.drops p (tget 0 h.sec.drops p + 1) } }
    if m.pkt.cls = 0 then h.raiseNak (x.alone m) nakGone else h.goneOp m.pkt) h

/-- PACKET_TRANSMIT (R100, R115, R116, R364). -/
def execPacketTransmit (out : Fin 86) (cls : Fin 5) (s : State) : Host.Outcome State Fault Refusal :=
  onHub (fun h =>
    match h.qlist out.val cls.val with
    | [] => h
    | x :: _ =>
      if !h.alive || !h.portUp out.val then h
      else if h.sec.gone.contains x.pkt.kslot.toNat then (h.dropQ out.val cls.val).tenantGone x
      else if h.lostFlush x.pkt then h.dropQ out.val cls.val
      else if x.members.any fun m => decide (m.upset = some true) then h.readHead out.val cls.val x
      else h.sendHead out.val cls.val x) s

/-- MULTICAST_REPLICATE (R123): reservations are taken in ascending order and held; once all are held every copy goes. -/
def execMulticastReplicate (girt : Bool) (cls : Fin 5) (s : State) : Host.Outcome State Fault Refusal :=
  onHub (fun h =>
    let out := if girt then 87 else 86
    match h.qlist out cls.val with
    | [] => h
    | x :: _ =>
      if !h.alive then h
      else if h.sec.gone.contains x.pkt.kslot.toNat then (h.dropQ out cls.val).tenantGone x
      else if x.upset = some true then h.readHead out cls.val x
      else
        let (js, gs, lost) := h.copies girt x
        let here := x.pkt.mask.testBit 78
        let plan := h.resvPlan x js gs
        let got := h.takeResv x (h.resvOf out cls.val) plan
        if got.length < plan.length then { h with swc := { h.swc with resv := tset [] h.swc.resv (qkey out cls.val) got } }
        else
          let h := h.popQ out cls.val
          let h := if x.upset.isSome then h.reportInternal fltSwc 5 else h
          let h := js.foldl (fun h j => h.transmit j (h.joistCopy x j)) h
          let h := gs.foldl (fun h g => h.transmit g.1 (girtCopy x g.1 g.2)) h
          let h := if here then h.deliver { x with pkt := Packet.setMask ({ outgoing 78 x with dst := h.self } : Packet) 0 } else h
          (h.countBy rTrsCopies (js.length + gs.length + bit01 here)).countBy rTrsNoTarget lost) s

end Sys2Proof.Machine
end

