-- ==== Sys2Proof/Machine/Pins.lean ====
section
/-! DEFINITION. The management pins (R476 to R479): thermal trip, SMBus, the test access port and debug access. -/
namespace Sys2Proof.Machine

/-- THERMTRIP (R476): THERMTRIP_N goes low, whatever the clocks do. -/
def execThermtrip (s : State) : Host.Outcome State Fault Refusal :=
  onHub (fun h => if h.brd.supplies then { h with brd := { h.brd with thermtrip := true } } else h) s

/-! ### SMBus (R477, R478) -/

/-- The SMBus interface runs: AON is out of its power-on reset. -/
def Hub.smbOn (h : Hub) : Bool := h.brd.supplies && !h.brd.aonReset

/-- SMB_SET_PTR (R478): a byte count other than 4 is not accepted. -/
def execSmbSetPtr (count : BitVec 8) (pointer : BitVec 32) (s : State) : Host.Outcome State Fault Refusal :=
  onHub (fun h =>
    if h.smbOn && decide (count = 4) then { h with brd := { h.brd with smbPtr := pointer.toNat / 8 * 8 } } else h) s

/-- The register that the SMBus reads at an offset: of the PWR, CLK, FLT and LCY blocks only, without the recovery buffer. -/
def Hub.smbValue (h : Hub) (o : Nat) : Word :=
  if (o < 0x30000 ∨ (0x40000 ≤ o ∧ o < 0x50000)) ∧ ¬ (0x2000 ≤ o ∧ o < 0x4000) then h.regRead o else 0

/-- SMB_READ (R478): the byte count 8, the register, and the pointer advanced by 8. -/
def execSmbRead (s : State) : Host.Outcome State Fault Refusal :=
  onHub (fun h =>
    if h.smbOn then
      { h with brd := { h.brd with smbOut := 8 :: leBytes 8 (h.smbValue h.brd.smbPtr).toNat, smbPtr := (h.brd.smbPtr + 8) % 2 ^ 32 } }
    else h) s

/-- The 7-bit SMBus address (R477). -/
def Hub.smbAddress (h : Hub) : Nat := 0x58 + h.brd.slot.toNat

/-- SMB_ALERT_RESPONSE (R477): answered with the hub's address while it drives SMB_ALERT_N low. -/
def execSmbAlertResponse (s : State) : Host.Outcome State Fault Refusal :=
  onHub (fun h =>
    if h.smbOn && h.smbAlertLow then { h with brd := { h.brd with smbOut := [BitVec.ofNat 8 (2 * h.smbAddress)] } } else h) s

/-! ### Test access port (R479). Instructions: 1 IDCODE, 2 BYPASS, 3 SAMPLE/PRELOAD, 4 EXTEST -/

/-- The bits of a word, least significant first. -/
def bitsOf (n w : Nat) : List Bool := (List.range n).map w.testBit

/-- JTAG_IDCODE (R479). -/
def execJtagIdcode (s : State) : Host.Outcome State Fault Refusal :=
  onHub (fun h => if h.brd.supplies then { h with brd := { h.brd with jtag := 1, scan := bitsOf 32 Config.idcode.toNat } } else h) s

/-- JTAG_BYPASS (R479). -/
def execJtagBypass (s : State) : Host.Outcome State Fault Refusal :=
  onHub (fun h => if h.brd.supplies then { h with brd := { h.brd with jtag := 2, scan := [false] } } else h) s

/-- JTAG_SAMPLE_PRELOAD (R479): `scan` is what the boundary cells sample. -/
def execJtagSamplePreload (scan : List Bool) (s : State) : Host.Outcome State Fault Refusal :=
  onHub (fun h => if h.brd.supplies then { h with brd := { h.brd with jtag := 3, scan := scan } } else h) s

/-- JTAG_EXTEST (R479): accepted only while RESET_N is low. -/
def execJtagExtest (s : State) : Host.Outcome State Fault Refusal :=
  onHub (fun h => if h.brd.supplies && !h.brd.resetN then { h with brd := { h.brd with jtag := 4 } } else h) s

/-- DEBUG_ACCESS_OPEN (R479, Table 13.10): each access that opens sets its bit, and EVER_OPEN. -/
def execDebugAccessOpen (jtag scan wrightDbg : Bool) (s : State) : Host.Outcome State Fault Refusal :=
  onHub (fun h =>
    let open_ := bit01 jtag + bit01 scan * 2 + bit01 wrightDbg * 4
    if h.brd.aonReset || decide (open_ = 0) then h
    else { h with brd := { h.brd with debug := h.brd.debug ||| BitVec.ofNat 64 (open_ + 8) } }) s

end Sys2Proof.Machine
end

