-- ==== Sys2Proof/Machine/Dispatch.lean ====
section
/-! DEFINITION. Which meaning each command has. -/
namespace Sys2Proof.Machine

/-- The effect of a command on everything but the queue. -/
def exec (i : Instr) (s : State) : Host.Outcome State Fault Refusal :=
  match i with
  | .aonPowerOnResetEnd slot => Sys2Proof.Machine.execAonPowerOnResetEnd slot s
  | .resetNAssert => Sys2Proof.Machine.execResetNAssert s
  | .resetNDeassert straps => Sys2Proof.Machine.execResetNDeassert straps s
  | .settleDelayExpiry refclkCore badSlots secOk => Sys2Proof.Machine.execSettleDelayExpiry refclkCore badSlots secOk s
  | .domainPowerGood d => Sys2Proof.Machine.execDomainPowerGood d s
  | .domainPowerGoodTimeout d => Sys2Proof.Machine.execDomainPowerGoodTimeout d s
  | .memoryTrainingDone r => Sys2Proof.Machine.execMemoryTrainingDone r s
  | .wipeWritePassDone fail => Sys2Proof.Machine.execWipeWritePassDone fail s
  | .wipeVerifyPassDone fail => Sys2Proof.Machine.execWipeVerifyPassDone fail s
  | .linkTrainingWindowExpiry => Sys2Proof.Machine.execLinkTrainingWindowExpiry s
  | .readyEdge => Sys2Proof.Machine.execReadyEdge s
  | .rcvErase port area => Sys2Proof.Machine.execRcvErase port area s
  | .rcvProgram port area page => Sys2Proof.Machine.execRcvProgram port area page s
  | .rcvVerify port area => Sys2Proof.Machine.execRcvVerify port area s
  | .rcvAttest port => Sys2Proof.Machine.execRcvAttest port s
  | .rcvReset port => Sys2Proof.Machine.execRcvReset port s
  | .recoveryCmdDone deviceOk => Sys2Proof.Machine.execRecoveryCmdDone deviceOk s
  | .pwrDomWrite a => Sys2Proof.Machine.execPwrDomWrite a s
  | .clkEnBayWrite a => Sys2Proof.Machine.execClkEnBayWrite a s
  | .clkEnBlkWrite a => Sys2Proof.Machine.execClkEnBlkWrite a s
  | .powerEstimateTick watts engines tj => Sys2Proof.Machine.execPowerEstimateTick watts engines tj s
  | .thermalThrottleTick tj => Sys2Proof.Machine.execThermalThrottleTick tj s
  | .refclkLoss serdes => Sys2Proof.Machine.execRefclkLoss serdes s
  | .railExcursion => Sys2Proof.Machine.execRailExcursion s
  | .avsCommand vReq ack => Sys2Proof.Machine.execAvsCommand vReq ack s
  | .thermtrip => Sys2Proof.Machine.execThermtrip s
  | .smbSetPtr count pointer => Sys2Proof.Machine.execSmbSetPtr count pointer s
  | .smbRead => Sys2Proof.Machine.execSmbRead s
  | .smbAlertResponse => Sys2Proof.Machine.execSmbAlertResponse s
  | .jtagIdcode => Sys2Proof.Machine.execJtagIdcode s
  | .jtagBypass => Sys2Proof.Machine.execJtagBypass s
  | .jtagSamplePreload scan => Sys2Proof.Machine.execJtagSamplePreload scan s
  | .jtagExtest => Sys2Proof.Machine.execJtagExtest s
  | .registerWrite w off a => Sys2Proof.Machine.execRegisterWrite w off a s
  | .ingressRoute ing vc => Sys2Proof.Machine.execIngressRoute ing vc s
  | .queueAdmit ing vc => Sys2Proof.Machine.execQueueAdmit ing vc s
  | .packetTransmit out cls => Sys2Proof.Machine.execPacketTransmit out cls s
  | .multicastReplicate girt cls => Sys2Proof.Machine.execMulticastReplicate girt cls s
  | .localDelivery ing vc => Sys2Proof.Machine.execLocalDelivery ing vc s
  | .packetAgeDiscard place => Sys2Proof.Machine.execPacketAgeDiscard place s
  | .lossRecordExpiry pair => Sys2Proof.Machine.execLossRecordExpiry pair s
  | .drainRateWindow out cls => Sys2Proof.Machine.execDrainRateWindow out cls s
  | .hotWindowEnd j => Sys2Proof.Machine.execHotWindowEnd j s
  | .combinedAtResponse => Sys2Proof.Machine.execCombinedAtResponse s
  | .combinedAtTimeout tag => Sys2Proof.Machine.execCombinedAtTimeout tag s
  | .rdRead src dst => Sys2Proof.Machine.execRdRead src dst s
  | .rdFlush src dst => Sys2Proof.Machine.execRdFlush src dst s
  | .wr src dst => Sys2Proof.Machine.execWr src dst s
  | .wra src dst => Sys2Proof.Machine.execWra src dst s
  | .atAdd src dst => Sys2Proof.Machine.execAtAdd src dst s
  | .atAnd src dst => Sys2Proof.Machine.execAtAnd src dst s
  | .atOr src dst => Sys2Proof.Machine.execAtOr src dst s
  | .atXor src dst => Sys2Proof.Machine.execAtXor src dst s
  | .atSwap src dst => Sys2Proof.Machine.execAtSwap src dst s
  | .atCas src dst => Sys2Proof.Machine.execAtCas src dst s
  | .atMax src dst => Sys2Proof.Machine.execAtMax src dst s
  | .atMin src dst => Sys2Proof.Machine.execAtMin src dst s
  | .send src dst => Sys2Proof.Machine.execSend src dst s
  | .hostPcieCompletion id r => Sys2Proof.Machine.execHostPcieCompletion id r s
  | .hostCompletionTimeout id => Sys2Proof.Machine.execHostCompletionTimeout id s
  | .rspData => Sys2Proof.Machine.execRspData s
  | .rspAck => Sys2Proof.Machine.execRspAck s
  | .nak => Sys2Proof.Machine.execNak s
  | .reqTimeoutExpiry node tag => Sys2Proof.Machine.execReqTimeoutExpiry node tag s
  | .fenceComplete a => Sys2Proof.Machine.execFenceComplete a s
  | .fenceTimeout a => Sys2Proof.Machine.execFenceTimeout a s
  | .pegWaitTimeout a => Sys2Proof.Machine.execPegWaitTimeout a s
  | .mgtSound p => Sys2Proof.Machine.execMgtSound p s
  | .mgtHello p => Sys2Proof.Machine.execMgtHello p s
  | .mgtCap p => Sys2Proof.Machine.execMgtCap p s
  | .mgtPing p => Sys2Proof.Machine.execMgtPing p s
  | .mgtPong p => Sys2Proof.Machine.execMgtPong p s
  | .helloTimeout p => Sys2Proof.Machine.execHelloTimeout p s
  | .portDown p => Sys2Proof.Machine.execPortDown p s
  | .joistPortReturn j => Sys2Proof.Machine.execJoistPortReturn j s
  | .detourDrainAcked j => Sys2Proof.Machine.execDetourDrainAcked j s
  | .detourLifetimeExpiry j => Sys2Proof.Machine.execDetourLifetimeExpiry j s
  | .girtReturnRelease p => Sys2Proof.Machine.execGirtReturnRelease p s
  | .swcRtEntryWrite n a => Sys2Proof.Machine.execSwcRtEntryWrite n a s
  | .scarfCommit => Sys2Proof.Machine.execScarfCommit s
  | .scarfFlip => Sys2Proof.Machine.execScarfFlip s
  | .bankFree => Sys2Proof.Machine.execBankFree s
  | .swcPktLifetimeWrite a => Sys2Proof.Machine.execSwcPktLifetimeWrite a s
  | .samplerEnable a => Sys2Proof.Machine.execSamplerEnable a s
  | .swcSmpIdxWrite a => Sys2Proof.Machine.execSwcSmpIdxWrite a s
  | .sawSrSeedWrite a => Sys2Proof.Machine.execSawSrSeedWrite a s
  | .collectiveOpen o desc => Sys2Proof.Machine.execCollectiveOpen o desc s
  | .kerfAdmit => Sys2Proof.Machine.execKerfAdmit s
  | .admissionWaitExpiry id => Sys2Proof.Machine.execAdmissionWaitExpiry id s
  | .colcCount => Sys2Proof.Machine.execColcCount s
  | .colcScale => Sys2Proof.Machine.execColcScale s
  | .colcData => Sys2Proof.Machine.execColcData s
  | .colcConfirm => Sys2Proof.Machine.execColcConfirm s
  | .colrCount => Sys2Proof.Machine.execColrCount s
  | .colrScale => Sys2Proof.Machine.execColrScale s
  | .colrData => Sys2Proof.Machine.execColrData s
  | .colrFinal => Sys2Proof.Machine.execColrFinal s
  | .stallTimerExpiry cid => Sys2Proof.Machine.execStallTimerExpiry cid s
  | .memberLocalTimeout id => Sys2Proof.Machine.execMemberLocalTimeout id s
  | .slotDoneExpiry cid => Sys2Proof.Machine.execSlotDoneExpiry cid s
  | .raiseU3Convert cid chunk => Sys2Proof.Machine.execRaiseU3Convert cid chunk s
  | .sawSegDirWrite n a => Sys2Proof.Machine.execSawSegDirWrite n a s
  | .bayQcfgEnable b e q a => Sys2Proof.Machine.execBayQcfgEnable b e q a s
  | .bayQcfgDisable b e q a => Sys2Proof.Machine.execBayQcfgDisable b e q a s
  | .descriptorStart b e q => Sys2Proof.Machine.execDescriptorStart b e q s
  | .descWaitTimeout b e q => Sys2Proof.Machine.execDescWaitTimeout b e q s
  | .descriptorComplete b e q => Sys2Proof.Machine.execDescriptorComplete b e q s
  | .meMmul b q n => Sys2Proof.Machine.execMeMmul b q n s
  | .veCopy b q n => Sys2Proof.Machine.execVeCopy b q n s
  | .veAdd b q n => Sys2Proof.Machine.execVeAdd b q n s
  | .veSub b q n => Sys2Proof.Machine.execVeSub b q n s
  | .veMul b q n => Sys2Proof.Machine.execVeMul b q n s
  | .veMac b q n => Sys2Proof.Machine.execVeMac b q n s
  | .veMax b q n => Sys2Proof.Machine.execVeMax b q n s
  | .veMin b q n => Sys2Proof.Machine.execVeMin b q n s
  | .veAffine b q n => Sys2Proof.Machine.execVeAffine b q n s
  | .veRsq b q n => Sys2Proof.Machine.execVeRsq b q n s
  | .veSumred b q n => Sys2Proof.Machine.execVeSumred b q n s
  | .veUpdScaled cid chunk => Sys2Proof.Machine.execVeUpdScaled cid chunk s
  | .veUpdMom cid chunk => Sys2Proof.Machine.execVeUpdMom cid chunk s
  | .veUpdAdapt2 cid chunk => Sys2Proof.Machine.execVeUpdAdapt2 cid chunk s
  | .deCopy b q n => Sys2Proof.Machine.execDeCopy b q n s
  | .deFill b q n => Sys2Proof.Machine.execDeFill b q n s
  | .deTstream b q n => Sys2Proof.Machine.execDeTstream b q n s
  | .deCollOpen b q n => Sys2Proof.Machine.execDeCollOpen b q n s
  | .deCollMember b q n => Sys2Proof.Machine.execDeCollMember b q n s
  | .bayModeWrite b a => Sys2Proof.Machine.execBayModeWrite b a s
  | .bayTctlStart b t a => Sys2Proof.Machine.execBayTctlStart b t a s
  | .bayTctlStop b t => Sys2Proof.Machine.execBayTctlStop b t s
  | .alu b t => Sys2Proof.Machine.execAlu b t s
  | .addi b t => Sys2Proof.Machine.execAddi b t s
  | .andi b t => Sys2Proof.Machine.execAndi b t s
  | .ori b t => Sys2Proof.Machine.execOri b t s
  | .xori b t => Sys2Proof.Machine.execXori b t s
  | .shi b t => Sys2Proof.Machine.execShi b t s
  | .movz b t => Sys2Proof.Machine.execMovz b t s
  | .movk b t => Sys2Proof.Machine.execMovk b t s
  | .cmp b t => Sys2Proof.Machine.execCmp b t s
  | .cmpi b t => Sys2Proof.Machine.execCmpi b t s
  | .plog b t => Sys2Proof.Machine.execPlog b t s
  | .lb b t => Sys2Proof.Machine.execLb b t s
  | .lbu b t => Sys2Proof.Machine.execLbu b t s
  | .lh b t => Sys2Proof.Machine.execLh b t s
  | .lhu b t => Sys2Proof.Machine.execLhu b t s
  | .lw b t => Sys2Proof.Machine.execLw b t s
  | .lwu b t => Sys2Proof.Machine.execLwu b t s
  | .ld b t => Sys2Proof.Machine.execLd b t s
  | .sb b t => Sys2Proof.Machine.execSb b t s
  | .sh b t => Sys2Proof.Machine.execSh b t s
  | .sw b t => Sys2Proof.Machine.execSw b t s
  | .sd b t => Sys2Proof.Machine.execSd b t s
  | .br b t => Sys2Proof.Machine.execBr b t s
  | .call b t => Sys2Proof.Machine.execCall b t s
  | .jmpr b t => Sys2Proof.Machine.execJmpr b t s
  | .rld b t => Sys2Proof.Machine.execRld b t s
  | .rst b t => Sys2Proof.Machine.execRst b t s
  | .rat b t => Sys2Proof.Machine.execRat b t s
  | .fenceLoft b t => Sys2Proof.Machine.execFenceLoft b t s
  | .fenceNode b t => Sys2Proof.Machine.execFenceNode b t s
  | .fenceAll b t => Sys2Proof.Machine.execFenceAll b t s
  | .cinvTag b t => Sys2Proof.Machine.execCinvTag b t s
  | .cinvLine b t => Sys2Proof.Machine.execCinvLine b t s
  | .padv b t => Sys2Proof.Machine.execPadv b t s
  | .pwait b t => Sys2Proof.Machine.execPwait b t s
  | .prd b t => Sys2Proof.Machine.execPrd b t s
  | .mput b t => Sys2Proof.Machine.execMput b t s
  | .mget b t => Sys2Proof.Machine.execMget b t s
  | .ecmd b t => Sys2Proof.Machine.execEcmd b t s
  | .ecmdResume b t => Sys2Proof.Machine.execEcmdResume b t s
  | .sysNop b t => Sys2Proof.Machine.execSysNop b t s
  | .halt b t => Sys2Proof.Machine.execHalt b t s
  | .trap b t => Sys2Proof.Machine.execTrap b t s
  | .eret b t => Sys2Proof.Machine.execEret b t s
  | .mfs b t => Sys2Proof.Machine.execMfs b t s
  | .mts b t => Sys2Proof.Machine.execMts b t s
  | .tstart b t => Sys2Proof.Machine.execTstart b t s
  | .scrCtxCfgWrite n a => Sys2Proof.Machine.execScrCtxCfgWrite n a s
  | .scrInvGo w a => Sys2Proof.Machine.execScrInvGo w a s
  | .scrInvDone => Sys2Proof.Machine.execScrInvDone s
  | .walkStart => Sys2Proof.Machine.execWalkStart s
  | .walkTableReadReturn w words => Sys2Proof.Machine.execWalkTableReadReturn w words s
  | .prefetchWalk b e q => Sys2Proof.Machine.execPrefetchWalk b e q s
  | .scrubRead lp => Sys2Proof.Machine.execScrubRead lp s
  | .memoryRetrain lp ctl => Sys2Proof.Machine.execMemoryRetrain lp ctl s
  | .bar2Write f addr data => Sys2Proof.Machine.execBar2Write f addr data s
  | .bar2Read f addr len => Sys2Proof.Machine.execBar2Read f addr len s
  | .bar2AtomicOp f addr op wide operand compare => Sys2Proof.Machine.execBar2AtomicOp f addr op wide operand compare s
  | .bar4DbWrite f r a => Sys2Proof.Machine.execBar4DbWrite f r a s
  | .bar4FenceRead f half => Sys2Proof.Machine.execBar4FenceRead f half s
  | .mortiseStageWrite f n off data => Sys2Proof.Machine.execMortiseStageWrite f n off data s
  | .mortiseCommitRead f a => Sys2Proof.Machine.execMortiseCommitRead f a s
  | .mortiseReleaseWrite f a => Sys2Proof.Machine.execMortiseReleaseWrite f a s
  | .ringEntryFetch f r entry n => Sys2Proof.Machine.execRingEntryFetch f r entry n s
  | .ringCollOpen op f => Sys2Proof.Machine.execRingCollOpen op f s
  | .ringCollMember op f => Sys2Proof.Machine.execRingCollMember op f s
  | .ringXfer op f => Sys2Proof.Machine.execRingXfer op f s
  | .ringAbort op => Sys2Proof.Machine.execRingAbort op s
  | .statusProgressUpdate op => Sys2Proof.Machine.execStatusProgressUpdate op s
  | .statusWriteRetry op => Sys2Proof.Machine.execStatusWriteRetry op s
  | .commandTake f block => Sys2Proof.Machine.execCommandTake f block s
  | .ringBind f => Sys2Proof.Machine.execRingBind f s
  | .ringUnbind f => Sys2Proof.Machine.execRingUnbind f s
  | .ringUnbindDone f => Sys2Proof.Machine.execRingUnbindDone f s
  | .regWrite f => Sys2Proof.Machine.execRegWrite f s
  | .partAdd f => Sys2Proof.Machine.execPartAdd f s
  | .partRemove f => Sys2Proof.Machine.execPartRemove f s
  | .keySlotDestroy p => Sys2Proof.Machine.execKeySlotDestroy p s
  | .secDrainTimeout p => Sys2Proof.Machine.execSecDrainTimeout p s
  | .partitionWipeDone p => Sys2Proof.Machine.execPartitionWipeDone p s
  | .rekeyRotate f => Sys2Proof.Machine.execRekeyRotate f s
  | .rekeyRetire p => Sys2Proof.Machine.execRekeyRetire p s
  | .rekeyRelease f => Sys2Proof.Machine.execRekeyRelease f s
  | .rekeyUnseal f => Sys2Proof.Machine.execRekeyUnseal f s
  | .wipeRegion f => Sys2Proof.Machine.execWipeRegion f s
  | .wipeRegionDone f => Sys2Proof.Machine.execWipeRegionDone f s
  | .attest f => Sys2Proof.Machine.execAttest f s
  | .imageUpdate f copy => Sys2Proof.Machine.execImageUpdate f copy s
  | .imageUpdateDone f deviceOk => Sys2Proof.Machine.execImageUpdateDone f deviceOk s
  | .ovrExpel f => Sys2Proof.Machine.execOvrExpel f s
  | .ovrRestore f => Sys2Proof.Machine.execOvrRestore f s
  | .ovrMarkAbsent f => Sys2Proof.Machine.execOvrMarkAbsent f s
  | .ovrClearAbsent f => Sys2Proof.Machine.execOvrClearAbsent f s
  | .ovrWiden f => Sys2Proof.Machine.execOvrWiden f s
  | .ovrHold f => Sys2Proof.Machine.execOvrHold f s
  | .ovrHoldExpiry => Sys2Proof.Machine.execOvrHoldExpiry s
  | .hostPortReset port => Sys2Proof.Machine.execHostPortReset port s
  | .flr f => Sys2Proof.Machine.execFlr f s
  | .vfEnableClear port => Sys2Proof.Machine.execVfEnableClear port s
  | .functionEnable f mem master on => Sys2Proof.Machine.execFunctionEnable f mem master on s
  | .faultEvent src cls checker d0 d1 d2 d3 => Sys2Proof.Machine.execFaultEvent src cls checker d0 d1 d2 d3 s
  | .faultPulseEnd => Sys2Proof.Machine.execFaultPulseEnd s
  | .fltFirstClear a => Sys2Proof.Machine.execFltFirstClear a s
  | .fltLogConsWrite a => Sys2Proof.Machine.execFltLogConsWrite a s
  | .fltErrInjWrite a => Sys2Proof.Machine.execFltErrInjWrite a s
  | .soundTokenSend => Sys2Proof.Machine.execSoundTokenSend s
  | .linkSilent p => Sys2Proof.Machine.execLinkSilent p s
  | .soundingEvaluate m => Sys2Proof.Machine.execSoundingEvaluate m s
  | .wearRecordHourly m => Sys2Proof.Machine.execWearRecordHourly m s
  | .wearSummary => Sys2Proof.Machine.execWearSummary s
  | .plankReceive p k => Sys2Proof.Machine.execPlankReceive p k s
  | .replayResend p => Sys2Proof.Machine.execReplayResend p s
  | .replayTimerExpiry p => Sys2Proof.Machine.execReplayTimerExpiry p s
  | .signalDetect p lanes => Sys2Proof.Machine.execSignalDetect p lanes s
  | .cdrLock p => Sys2Proof.Machine.execCdrLock p s
  | .blockLock lane => Sys2Proof.Machine.execBlockLock lane s
  | .polarityHuntTimeout lane => Sys2Proof.Machine.execPolarityHuntTimeout lane s
  | .blockLockLoss lane => Sys2Proof.Machine.execBlockLockLoss lane s
  | .groupLock lane => Sys2Proof.Machine.execGroupLock lane s
  | .groupLockLoss lane => Sys2Proof.Machine.execGroupLockLoss lane s
  | .trainingWordReceive lane w => Sys2Proof.Machine.execTrainingWordReceive lane w s
  | .adaptDone p => Sys2Proof.Machine.execAdaptDone p s
  | .trainingTimeout p => Sys2Proof.Machine.execTrainingTimeout p s
  | .downRetryExpiry p => Sys2Proof.Machine.execDownRetryExpiry p s
  | .fomMeasure lane height amplitude => Sys2Proof.Machine.execFomMeasure lane height amplitude s
  | .narrowReqReceive p half => Sys2Proof.Machine.execNarrowReqReceive p half s
  | .narrowAckReceive p half => Sys2Proof.Machine.execNarrowAckReceive p half s
  | .narrowCommitReceive p half => Sys2Proof.Machine.execNarrowCommitReceive p half s
  | .narrowAckTimeout p => Sys2Proof.Machine.execNarrowAckTimeout p s
  | .dozeEnter p => Sys2Proof.Machine.execDozeEnter p s
  | .dozeWake p => Sys2Proof.Machine.execDozeWake p s
  | .deepRequest p => Sys2Proof.Machine.execDeepRequest p s
  | .deepRequestTimeout p => Sys2Proof.Machine.execDeepRequestTimeout p s
  | .deepExit p => Sys2Proof.Machine.execDeepExit p s
  | .linkRekeyStart p => Sys2Proof.Machine.execLinkRekeyStart p s
  | .linkCounterExhausted p => Sys2Proof.Machine.execLinkCounterExhausted p s
  | .lnkPctlEnable p a => Sys2Proof.Machine.execLnkPctlEnable p a s
  | .lnkPctlRetrain p a => Sys2Proof.Machine.execLnkPctlRetrain p a s
  | .lnkPrbsWrite lane a => Sys2Proof.Machine.execLnkPrbsWrite lane a s
  | .prbsInject lane => Sys2Proof.Machine.execPrbsInject lane s
  | .marginSample lane vmarg hmarg => Sys2Proof.Machine.execMarginSample lane vmarg hmarg s
  | .modulePoll x r => Sys2Proof.Machine.execModulePoll x r s
  | .moduleInsertion x alarm => Sys2Proof.Machine.execModuleInsertion x alarm s
  | .tagQuarantineExpiry node tag => Sys2Proof.Machine.execTagQuarantineExpiry node tag s
  | .wrightRcRead off half => Sys2Proof.Machine.execWrightRcRead off half s
  | .reservedOpcode b t => Sys2Proof.Machine.execReservedOpcode b t s
  | .perstDeassert port => Sys2Proof.Machine.execPerstDeassert port s
  | .functionEnableClear f cmd off => Sys2Proof.Machine.execFunctionEnableClear f cmd off s
  | .msixVectorUnmask f v => Sys2Proof.Machine.execMsixVectorUnmask f v s
  | .aonSupplyInRange => Sys2Proof.Machine.execAonSupplyInRange s
  | .aonSupplyLoss => Sys2Proof.Machine.execAonSupplyLoss s
  | .prbsCheckerSync lane => Sys2Proof.Machine.execPrbsCheckerSync lane s
  | .debugAccessOpen jtag scan wrightDbg => Sys2Proof.Machine.execDebugAccessOpen jtag scan wrightDbg s

end Sys2Proof.Machine
end

