-- ==== Sys2Proof/Safety.lean ====
section
/-! DEFINITION. The terms that claims use: a state with another hub, what lies in NVM and fuses only ever growing, and its
canonical form. -/
namespace Sys2Proof.Machine

/-- The state with another hub; NVM, fuses and the waiting commands stay. -/
def State.withHub (s : State) (h : Hub) : State := { s with hub := h }

/-- Fuses and counts that can only grow from `v` to `w`: transitions, the floor, the owner rows and LCY_WIPE_COUNT; the serial number
and the grade stay (R368, R369, R435). -/
def Vault.grownTo (v w : Vault) : Prop :=
  v.trans ≤ w.trans ∧ v.floor ≤ w.floor ∧ v.wipes ≤ w.wipes ∧ v.owners <+: w.owners ∧ w.serial = v.serial ∧ w.gradeB = v.gradeB

/-- The byte tables of NVM are in canonical form. -/
def Vault.wf (v : Vault) : Bool := twf 0xFF v.bankA && twf 0xFF v.bankB && twf 0xFF v.token

/-- The units of the fabric, the memory and the engines that a command of the board or the plumb leaves as they are. -/
def Hub.sameDataPath (h g : Hub) : Prop :=
  g.mem = h.mem ∧ g.swc = h.swc ∧ g.sill = h.sill ∧ g.pegs = h.pegs ∧ g.mts = h.mts ∧ g.coll = h.coll ∧ g.bays = h.bays ∧ g.scr = h.scr

/-- The registers whose read-write bits a write by the wright sets and which do nothing else: LIMIT_W and T_THR, FLT_PIN, the drain
timeout, SND_CFG, the hash seed, SWC_HOT_CTL, the request and fence timeouts, KRF_CFG and MEM_SCRUB. -/
def settingRegs : List Nat :=
  [rPwrCap, rFltPin, rDrainTmo, rSndCfg, rHashSeed, rHotCtl, rReqTimeout, rFenceTimeout, rKrfCfg, rMemScrub]

/-- The hub without a request in the sill's buffer: that request is being served. -/
def Hub.takeReq (h : Hub) (x : Held) : Hub :=
  { h with sill := { h.sill with reqs := h.sill.reqs.filter fun y => !decide (y.pid = x.pid) } }

/-- From `h` to `g` the hub has injected one packet, with the current epoch and phase bits clear (R72, R106). -/
def Hub.sends (h g : Hub) (q : Packet) : Prop :=
  ∃ y : Held, g.swc.rx = h.swc.rx ++ [y] ∧ y.pkt = { q with rep := h.epoch, ph := false, gh := false }

/-- The bytes stored from an offset are these, and every other byte of memory is as it was. -/
def Hub.storedAt (h g : Hub) (o : Nat) (bs : List Byte) : Prop :=
  g.bytes o bs.length = bs ∧ ∀ a, (a < o ∨ o + bs.length ≤ a) → tget 0 g.mem.cells a = tget 0 h.mem.cells a

/-- A window of pool memory or of the lofts. -/
def memWindow (o : Nat) : Bool :=
  decide (windowOf o = .hbm) || decide (windowOf o = .lp) || decide (windowOf o = .loft)

/-! ### Threads -/

/-- The thread may issue, and the word at its PC is `w` (R245, R246). -/
def Hub.fetches (h : Hub) (b t w : Nat) : Prop :=
  h.mayIssue b t = true ∧ (h.thread b t).pc < 2 ^ 20 ∧ (h.fetchWord b (h.thread b t)).1 = some w ∧ (h.thread b t).stop = false

/-- From `h` to `g` nothing changed but one thread and what a fetch of its word may heal: a marked word, its counter, and the plumb. -/
def Hub.onlyThread (h g : Hub) (b t : Nat) : Prop :=
  (∀ k, k ≠ 16 * b + t → tget {} g.bays.threads k = tget {} h.bays.threads k) ∧ g.bays.queues = h.bays.queues ∧
  g.bays.accs = h.bays.accs ∧ g.mem.cells = h.mem.cells ∧ g.pegs = h.pegs ∧ g.mts = h.mts ∧ g.swc = h.swc ∧ g.sill = h.sill ∧
  g.coll = h.coll ∧ g.scr = h.scr ∧ g.links = h.links ∧ g.brd = h.brd ∧ (h.mem.marks = [] → g.regs = h.regs ∧ g.plumb = h.plumb)

/-- A command completes with the thread as given, ready for its next word, whatever words it has fetched ahead; nothing else changes. -/
def State.endsWith (s : State) (c : Instr) (b t : Nat) (y : Thread) : Prop :=
  ∃ u a, exec c s = .next u ∧ u.hub.thread b t = { y with wait := .ready, ahead := a } ∧ s.hub.onlyThread u.hub b t ∧
    u.hub.bays.caches = s.hub.bays.caches ∧ u.vault = s.vault

/-- A command raises an exception of a thread that is no kernel thread (R274): EPC, CAUSE and INFO are recorded, and the handler runs in handler
mode, or, without a handler or in handler mode already, the thread faults. -/
def State.raises (s : State) (c : Instr) (b t cause : Nat) (info : Word) : Prop :=
  s.hub.kernelSlot b t = none → ∃ u, exec c s = .next u ∧ (u.hub.thread b t).cause = cause ∧ (u.hub.thread b t).info = info ∧
    (u.hub.thread b t).epc = (s.hub.thread b t).pc % 2 ^ 20 ∧ (u.hub.thread b t).regs = (s.hub.thread b t).regs ∧
    u.hub.mem.cells = s.hub.mem.cells ∧
    (if s.hub.fld (rTctl b t) 20 20 ≠ 0 ∧ (s.hub.thread b t).hmode = false then
      (u.hub.thread b t).state = .run ∧ (u.hub.thread b t).pc = s.hub.fld (rTctl b t) 20 20 ∧ (u.hub.thread b t).hmode = true
    else (u.hub.thread b t).state = .faulted)

/-! ### Collectives -/

/-- The hub that has taken the oldest COLC packet from the sawpits' intake, with the chunks that have left counted (R174). -/
def Hub.tookColc (h : Hub) (rest : List Held) (cid : Nat) : Hub :=
  ({ h with sill := { h.sill with colc := rest } } : Hub).refresh cid

/-- The hub that has taken the oldest COLR packet, and restarted the local timer of the member it is for (R187). -/
def Hub.tookColr (h : Hub) (rest : List Held) (m : Member) : Hub :=
  ({ h with sill := { h.sill with colr := rest } } : Hub).setMember { m with deadline := h.now + 2 * m.tmo * 1000 }

/-- The hub without an open in the admission queue. -/
def Hub.notWaiting (h : Hub) (id : Nat) : Hub :=
  { h with coll := { h.coll with waiting := h.coll.waiting.filter fun x => !decide (x.id = id) } }

/-- A chunk of a RAISE is the one that its update bay's supplied kernel takes next (R201, R204). -/
def Hub.kernelDue (h : Hub) (kernel cid chunk : Nat) (rd : RaiseDesc) (sums : List (Nat × List Int)) : Prop :=
  let s := h.slot cid
  let x := s.chunk (chunk % max 1 s.k)
  s.desc.raise = some rd ∧ x.sums = some sums ∧ s.holds = true ∧ rd.kernel = kernel ∧ s.chunkAt (chunk % max 1 s.k) = chunk ∧
    x.item.isSome = true ∧ x.weights = none ∧ s.oldestItem rd x chunk = true ∧ h.alive = true

/-! ### Engines and the Scribe -/

/-- The head descriptor of a queue is of an operation, its engine may run it, and no request of it waits for a tag (R221, R222, R72). -/
def Hub.engineDue (h : Hub) (b e q op : Nat) (n : Word) : Prop :=
  h.alive = true ∧ h.bayOn b = true ∧ (h.queue b e q).phase = .running ∧ (h.queue b e q).count = n ∧ (h.queue b e q).opc = op ∧ h.hasTurn b e q = true ∧
  h.waitsTag (.queue b e q) = false

/-- A head descriptor as its engine has taken it up. -/
def Hub.tookDesc (h : Hub) (b e q : Nat) : EQueue := { h.queue b e q with ran := true }

/-- The hub whose engine has taken up the head descriptor of a queue, or goes on with it (R222, R225): an ME or a VE remembers whose turn
it was. -/
def Hub.engineTook (h : Hub) (b e q : Nat) : Hub :=
  let g := h.setQueue b e q (h.tookDesc b e q)
  if e = 3 then g else { g with bays := { g.bays with turns := tset 3 g.bays.turns (4 * b + e) q } }

/-- No word of memory is marked and no injection is armed, so that every access of a loft succeeds (R216, R379). -/
def Hub.soundMem (h : Hub) : Prop := h.mem.marks = [] ∧ h.bit rFltInj 63 = false

/-- A head descriptor that has passed its checks is due to run from its start, with nothing of its queue under way (R224, R225). -/
def Hub.startsOn (h : Hub) (b e q op : Nat) (n : Word) : Prop :=
  let x := h.queue b e q
  h.engineDue b e q op n ∧ x = { count := x.count, desc := x.desc, phase := .running } ∧ h.descCheck b e q x = 0 ∧
  h.mustFence (.queue b e q) = false ∧ h.soundMem

/-- Every range of a list is a LOFT range (R217). -/
def allLoft (l : List (Word × Nat × Nat × Nat)) : Prop := ∀ r ∈ l, adSpace r.1 = 0

/-- The bytes of a LOFT range of a bay. -/
def Hub.loftBytes (h : Hub) (b : Nat) (w : Word) (len : Nat) : List Byte := h.bytes (loftOff b (bitsGet w 0 22)) len

/-- An offset lies outside every LOFT range of a list. -/
def offRanges (b : Nat) (l : List (Word × Nat × Nat × Nat)) (a : Nat) : Prop :=
  ∀ r ∈ l, a < loftOff b (bitsGet r.1 0 22) ∨ loftOff b (bitsGet r.1 0 22) + r.2.1 ≤ a

/-- Two LOFT ranges of a bay have no byte in common. -/
def loftApart (v w : Word) (n k : Nat) : Prop := bitsGet v 0 22 + n ≤ bitsGet w 0 22 ∨ bitsGet w 0 22 + k ≤ bitsGet v 0 22

/-- What a head descriptor leaves when it ends well: its queue's results, registers, pegs, and every byte outside the ranges that it
writes. -/
def State.endsWell (s t : State) (b e q done : Nat) (outs : List (Word × Nat × Nat × Nat)) : Prop :=
  (t.hub.queue b e q).phase = .done ∧ (t.hub.queue b e q).status = 0 ∧ (t.hub.queue b e q).done = done ∧
  t.hub.regs = s.hub.regs ∧ t.hub.pegs = s.hub.pegs ∧ t.vault = s.vault ∧
  ∀ a, offRanges b outs a → tget 0 t.hub.mem.cells a = tget 0 s.hub.mem.cells a

/-- The ranges of a VE descriptor's inputs, whole. -/
def veIns (x : EQueue) : List (Word × Nat × Nat × Nat) :=
  (veInputs x).flatMap fun o => blockRanges o.1 o.2.1 o.2.2 0 (veN x) needR 0

/-- The ranges of a VE descriptor's D, whole. -/
def veOuts (x : EQueue) : List (Word × Nat × Nat × Nat) := blockRanges (veDf x) (x.w 10) (x.w 11) 0 (veOut x) needW 1

/-- The ranges that a TSTREAM writes. -/
def streamOuts (x : EQueue) : List (Word × Nat × Nat × Nat) :=
  (List.range (streamNt x)).flatMap fun t => (streamRows x t).map fun r => (r.2, streamRb x, needW, 1)

/-- A chunk's part of an array of a header lies in memory that is there, or the array is absent (R193, R200). -/
def Hub.arrayThere (h : Hub) (f el sc chunk nb : Nat) : Prop :=
  f = 15 ∨ (h.memThere (faOff (el + 64 * chunk * blockBytes f)) (nb * blockBytes f) = true ∧ h.memThere (faOff (sc + 64 * chunk)) nb = true)

/-- The current and the shadow arrays of a chunk are there. -/
def Hub.statesThere (h : Hub) (rd : RaiseDesc) (chunk nb : Nat) : Prop :=
  ∀ p ∈ [(40, 1), (44, 3), (48, 5)], ∀ hd ∈ [rd.hdr, rd.shdr],
    h.arrayThere (bitsGet (rd.hdr.getD 0 0) p.1 4) (bitsGet (hd.getD p.2 0) 0 52) (bitsGet (hd.getD (p.2 + 1) 0) 0 52) chunk nb

/-- The miss that prefetching for a DE queue walks for at a page (R290). -/
def Hub.missAhead (h : Hub) (b q va need : Nat) : Miss :=
  { bay := b, who := .ahead (16 * b + 12 + q) (h.queue b 3 q).count, ctx := (h.queueWho b 3 q).ctx, va := va, need := need }

/-- The page that prefetching for a DE queue would walk for next, and the right it needs (R290): the first of the tiles ahead that
no buffer holds and no walk looks for. -/
def Hub.pageAhead (h : Hub) (b q : Nat) : Option (Nat × Nat) :=
  let c := h.queueWho b 3 q
  (h.pagesAhead c (h.queue b 3 q)).find? fun p =>
    decide ((h.tryXlate b c.ctx c.sys (h.agentPart c.agent) p.1 p.2).1 = .miss) && (h.sharedWalk (h.missAhead b q p.1 p.2)).isNone

/-! ### Hosts -/

/-- A function's command of a code is due: it has been taken and has not started (R337). -/
def Hub.cmdDue (h : Hub) (f code : Nat) (c : Cmd) : Prop :=
  h.alive = true ∧ h.cmdOf f = some c ∧ c.code = code ∧ ∃ o, h.op c.op = some o ∧ o.phase = 0

/-- The hub that has fetched an entry of a ring: the ring with its HEAD past it, and the turn of its function noted (R321). -/
def Hub.fetchedEntry (h : Hub) (f r : Nat) (x : Ring) : Hub :=
  let g := h.setRing f r x
  { g with host := { g.host with turns := tset 0 g.host.turns f r } }

/-- A read of a ring operation, answered with these bytes, is all that it has gathered (R72, R321). -/
def Hub.hasRead (h : Hub) (id fa len : Nat) (d : List Byte) : Prop :=
  d.length = len ∧ (h.work (.op id)).got = [{ fa := fa, len := len, got := some (.inl d) }]

/-- A ring operation has gathered nothing, and its function can issue a tagged request (R72). -/
def Hub.canAsk (h : Hub) (id f : Nat) : Prop :=
  (h.work (.op id)).got = [] ∧ h.waitsTag (.ring f) = false ∧ (h.drawTag (h.funcNode f)).isSome = true

/-- From `h` to `g` one read of a ring operation has gone out. -/
def Hub.asks (h g : Hub) (f fa len : Nat) : Prop :=
  ∃ x, g.sill.out = h.sill.out ++ [x] ∧ x.agent = .ring f ∧ x.pkt.opc = opcRd ∧ x.pkt.loc.toNat = fa ∧ x.pkt.rlen = len ∧
    ∃ y, g.swc.rx = h.swc.rx ++ [y] ∧ y.pkt.tag = x.pkt.tag ∧ y.pkt.opc = opcRd

/-- Requests of this hub under way or waiting for a tag. -/
def Hub.requests (h : Hub) : Nat := h.sill.out.length + h.sill.backlog.length

end Sys2Proof.Machine
end

