-- ==== Sys2Proof/Certificates/Slice0/Obligations.lean ====
section
/-! DEFINITION. The statements for the provers. -/

open Sys2Proof Sys2Proof.Machine

/-! ### The machine -/

/-- A step runs the command at the front of the queue: it is that command's meaning on the state with the queue's rest. -/
def Obligations.StepRunsFront : Prop :=
  ∀ (c : Instr) (s : State), step { s with pending := c :: s.pending } = exec c s

/-- With no command waiting, a step is one nanosecond of the hub's own timer (the model's choice, log entry 1): nothing else
changes but the cycle counts of the clocked bays (R272) and TRS_RSV_WAIT, which counts the two 2.0 GHz cycles in which a multicast head waited for its reservations (R123). -/
def Obligations.IdleStepIsOneNanosecond : Prop :=
  ∀ s : State, s.pending = [] → s.hub.brd.aonReset = false →
    (s.hub.mcWaits = false →
      step s = .next (s.withHub { s.hub with now := s.hub.now + 1, bays := { s.hub.bays with cycles := s.hub.bayCycles } })) ∧
    (s.hub.alive = true → s.hub.mcWaits = true →
      step s = .next (s.withHub { s.hub.countBy rTrsWait 2 with
        now := s.hub.now + 1, bays := { s.hub.bays with cycles := s.hub.bayCycles } })) ∧
    (∀ b, b < 64 → tget 0 s.hub.bayCycles b =
      tget 0 s.hub.bays.cycles b + (if bitAt (s.hub.reg rClkBay) b then Config.bayCycles b s.hub.now else 0))

/-- Every command answers a next state, and leaves the queue as it is. -/
def Obligations.EveryCommandAnswers : Prop :=
  ∀ (c : Instr) (s : State), ∃ t : State, exec c s = .next t ∧ t.pending = s.pending

/-- Invariant of every step: the transition and wipe counts, the floor and the owner rows never go back, and the serial number and
the grade never change. -/
def Obligations.FusesNeverGoBack : Prop :=
  ∀ (v : Vault) (s t : State), v.grownTo s.vault → step s = .next t → v.grownTo t.vault

/-- Invariant of every step: the byte tables of NVM keep their canonical form. -/
def Obligations.NvmStaysCanonical : Prop :=
  ∀ s t : State, s.vault.wf = true → step s = .next t → t.vault.wf = true

/-- At reset NVM and pool memory are in canonical form, with nothing listed. -/
def Obligations.ResetIsCanonical : Prop :=
  State.reset.vault.wf = true ∧ Memory.wf State.reset.hub.mem = true ∧ State.reset.hub.mem.cells = [] ∧ State.reset.pending = []

/-! ### Start-up (chapter 16) -/

/-- R427: with no edge of REFCLK_CORE at the end of the settle delay, the hub latches a DEVICE_FATAL event under CLK, sets
FLT_PIN.HOLD, and goes no further; otherwise step 4 runs with the failed slots mapped to spares (R347). -/
def Obligations.SettleDelayEnds : Prop :=
  (∀ (s : State) (bad : List (Fin 64)) (ok : Bool), s.hub.booting 3 = true →
    s.hub.brd.strapAt + 2 ^ s.hub.brd.straps.settle.toNat * 1000000 ≤ s.hub.now →
    ∃ t : State, exec (.settleDelayExpiry false bad ok) s = .next t ∧ t.hub.bit rFltStatus fltClk = true ∧ t.hub.bit rFltPin 0 = true ∧
      t.hub.plumb.fatal = 2 ∧ (∀ ph, t.hub.booting ph = false) ∧ t.vault = s.vault ∧ s.hub.sameDataPath t.hub) ∧
  (∀ (s : State) (bad : List (Fin 64)) (sp : Table Nat), s.hub.booting 3 = true →
    s.hub.brd.strapAt + 2 ^ s.hub.brd.straps.settle.toNat * 1000000 ≤ s.hub.now → mapSpares (bad.map (·.val)) = some sp →
    exec (.settleDelayExpiry true bad true) s =
      .next { s with
        vault := (startSecurity s.vault { s.hub.nextStep 4 with sec := { s.hub.sec with spares := sp } }).1,
        hub := (startSecurity s.vault { s.hub.nextStep 4 with sec := { s.hub.sec with spares := sp } }).2 })

/-- R368, R432, Table 16.6: a sealed state that does not match the fuses leads to RECOVERY with RCV_WHY SEAL before any token is
looked at; a BLANK part to RECOVERY with BLANK, and a RETIRED part with RETIRED. -/
def Obligations.SealAndStateDecideStart : Prop :=
  (∀ (v : Vault) (h : Hub), v.sealed ≠ v.trans →
    (startSecurity v h).1 = v ∧ (startSecurity v h).2.phase = phRecovery ∧ (startSecurity v h).2.fld rPwrBoot 56 4 = 5) ∧
  (∀ (v : Vault) (h : Hub), v.sealed = v.trans → v.tokenCode ≠ 1 → v.state = 0 →
    (startSecurity v h).1 = v ∧ (startSecurity v h).2.phase = phRecovery ∧ (startSecurity v h).2.fld rPwrBoot 56 4 = 6) ∧
  (∀ (v : Vault) (h : Hub), v.sealed = v.trans → v.tokenCode ≠ 1 → v.state = 5 →
    (startSecurity v h).1 = v ∧ (startSecurity v h).2.phase = phRecovery ∧ (startSecurity v h).2.fld rPwrBoot 56 4 = 7 ∧
      (startSecurity v h).2.sec.identity = [])

/-- Steps 7 to 12: a domain's power-good sets its ON bit, its absence after 2 ms is DEVICE_FATAL under PWR (R439), training sets
the extents and advances LCY_WIPE_COUNT (R369), the wipe leaves memory zero (R309), and start-up goes on (Table 16.8). -/
def Obligations.BootStepsGoOn : Prop :=
  (∀ (s : State) (d : Fin 20), s.hub.switching d.val = true → ¬ (s.hub.phase = 7 ∧ s.hub.brd.todo.drop 1 = []) →
    ∃ t : State, exec (.domainPowerGood d) s = .next t ∧ t.hub.domainOn d.val = true ∧ t.hub.brd.todo = s.hub.brd.todo.drop 1 ∧
      (∀ k : Fin 20, k ≠ d → t.hub.domainOn k.val = s.hub.domainOn k.val) ∧ s.hub.sameDataPath t.hub ∧ t.vault = s.vault) ∧
  (∀ (s : State) (d : Fin 20), s.hub.switching d.val = true → s.hub.brd.stepAt + 2000000 ≤ s.hub.now →
    ∃ t : State, exec (.domainPowerGoodTimeout d) s = .next t ∧ t.hub.bit rFltStatus fltPwr = true ∧ t.hub.plumb.fatal = 2 ∧
      s.hub.sameDataPath t.hub ∧ t.vault = s.vault) ∧
  (∀ (s : State) (r : Training) (k : Fin 3), s.hub.booting 9 = true → r.failed = [] → s.hub.domainOn 10 = true → r.lpRate = some k →
    ∃ t : State, exec (.memoryTrainingDone r) s = .next t ∧ t.hub.fld rMemTop 0 23 = 0x430E23 ∧ t.hub.fld rMemTop 58 2 = k.val ∧
      t.hub.fld rMemTop 32 26 = 0x34FB5E0 ∧ t.vault = { s.vault with wipes := s.vault.wipes + 1 } ∧
      t.hub.reg rLcyWipes = BitVec.ofNat 64 (s.vault.wipes + 1) ∧ t.hub.phase = 10 ∧ t.hub.mem = s.hub.mem) ∧
  (∀ s : State, s.hub.booting 10 = true → s.hub.brd.step = 0 → s.hub.brd.wipeTwice = false → imgFlag s.hub.brd.image 2 = false →
    ∃ t : State, exec (.wipeWritePassDone none) s = .next t ∧ t.hub.mem = {} ∧ t.hub.sec.pages = [] ∧
      t.hub.plumb.log = [] ∧ t.hub.bit rMemWipe 63 = true ∧
      t.hub.fld rMemWipe 48 2 = 0 ∧ t.hub.phase = 11 ∧ t.vault = s.vault) ∧
  (∀ s : State, s.hub.booting 10 = true → s.hub.brd.step = 1 → s.hub.brd.wipeFail = none →
    ∃ t : State, exec (.wipeVerifyPassDone none) s = .next t ∧ t.hub.mem = s.hub.mem ∧ t.hub.fld rMemWipe 48 2 = 0 ∧
      t.hub.bit rMemWipe 62 = true ∧ t.hub.phase = 11 ∧ t.vault = s.vault) ∧
  (∀ s : State, s.hub.booting 11 = true → s.hub.brd.stepAt + 200000000 ≤ s.hub.now →
    ∃ t : State, exec .linkTrainingWindowExpiry s = .next t ∧ t.hub.phase = (if imgFlag s.hub.brd.image 1 then phTest else 12) ∧
      t.hub.mem = s.hub.mem ∧ t.vault = s.vault)

/-- R440: at the READY edge the hub clears DEEP, raises the floor to the image's ROLLBACK if the image sets ADVANCE, and writes
PWR_BOOT.MS. -/
def Obligations.ReadyEdgeActs : Prop :=
  ∀ s : State, s.hub.booting 12 = true → s.hub.brd.stepAt + 1000000 ≤ s.hub.now →
    ∃ t : State, exec .readyEdge s = .next t ∧ t.hub.ready = true ∧ (∀ b, b < 64 → t.hub.bit (rBayMode b) 0 = false) ∧
      t.hub.fld rPwrBoot 0 32 = (s.hub.now - s.hub.brd.strapAt) / 1000000 % 2 ^ 32 ∧
      t.vault = (if imgFlag s.hub.brd.image 0 then
        { s.vault with floor := max s.vault.floor (min 63 (imgRollback s.hub.brd.image)) } else s.vault) ∧
      s.hub.sameDataPath t.hub

/-! ### Supplies, resets and RECOVERY (chapters 16 and 18) -/

/-- R425, R426, R449, R470: the AON supplies start the power-on reset; at its end BOARD_SLOT is latched and CLK_TIME is 0; RESET_N low
ends every state but the AON domain's own and the wear log; the strap edge samples the straps and leads to RECOVERY with RCV_WHY 4
where the slot differs from the latched one; loss of the AON supply leaves NVM, fuses and the wear log alone. -/
def Obligations.SuppliesAndResetActs : Prop :=
  (∀ s : State, s.hub.brd.supplies = false → ∃ t : State, exec .aonSupplyInRange s = .next t ∧ t.hub.brd.supplies = true ∧
    t.hub.brd.supplyAt = s.hub.now ∧ t.hub.regs = s.hub.regs ∧ s.hub.sameDataPath t.hub ∧ t.vault = s.vault) ∧
  (∀ (s : State) (slot : BitVec 2), s.hub.brd.supplies = true → s.hub.brd.aonReset = true → s.hub.brd.supplyAt + 2000000 ≤ s.hub.now →
    ∃ t : State, exec (.aonPowerOnResetEnd slot) s = .next t ∧ t.hub.now = 0 ∧ t.hub.brd.slot = slot ∧ t.hub.brd.aonReset = false ∧
      t.hub.phase = 2 ∧ t.vault = s.vault ∧ s.hub.sameDataPath t.hub) ∧
  (∀ s : State, s.hub.brd.aonReset = false → s.hub.brd.resetN = true → s.hub.brd.upd = none → s.hub.brd.rcv = none →
    ∃ t : State, exec .resetNAssert s = .next t ∧ t.hub.brd.resetN = false ∧ t.hub.now = s.hub.now ∧ t.hub.wear = s.hub.wear ∧
      t.hub.brd.slot = s.hub.brd.slot ∧ t.hub.brd.thermtrip = s.hub.brd.thermtrip ∧ t.hub.phase = 2 ∧ t.hub.mem = {} ∧ t.hub.swc = {} ∧
      t.hub.sill = {} ∧ t.hub.bays = {} ∧ t.hub.coll = {} ∧ t.hub.sec = {} ∧ t.hub.links = {} ∧ t.vault = s.vault) ∧
  (∀ (s : State) (st : Straps), s.hub.brd.aonReset = false → s.hub.brd.resetN = false → st.slot = s.hub.brd.slot →
    ∃ t : State, exec (.resetNDeassert st) s = .next t ∧ t.hub.brd.resetN = true ∧ t.hub.brd.straps = st ∧ t.hub.brd.strapAt = s.hub.now ∧
      t.hub.phase = 3 ∧ t.hub.fld rPwrBoot 46 3 = st.settle.toNat ∧ t.hub.fld rPwrBoot 49 2 = st.slot.toNat ∧
      t.hub.fld rPwrBoot 51 3 = st.plane.toNat ∧ t.hub.bit rPwrBoot 54 = st.bank ∧ s.hub.sameDataPath t.hub ∧ t.vault = s.vault) ∧
  (∀ (s : State) (st : Straps), s.hub.brd.aonReset = false → s.hub.brd.resetN = false → st.slot ≠ s.hub.brd.slot →
    ∃ t : State, exec (.resetNDeassert st) s = .next t ∧ t.hub.phase = phRecovery ∧ t.hub.fld rPwrBoot 56 4 = 4 ∧ t.vault = s.vault) ∧
  (∀ s : State, s.hub.brd.upd = none → s.hub.brd.rcv = none →
    exec .aonSupplyLoss s = .next (s.withHub { wear := s.hub.wear, draw := s.hub.draw + 1 }))

/-- R438: a recovery command taken sets BUSY and names its area and page; one that the interface refuses leaves RESULT 1; its end
clears BUSY with the result, and leaves the named area erased or with the buffer's bytes programmed. R437: entry to RECOVERY leaves only AON, SEC and PCIE on, enables the two PFs alone, and shows its cause. -/
def Obligations.RecoveryCommandsAct : Prop :=
  ((∀ (s : State) (p : Fin 2) (area : BitVec 2), s.hub.rcvPort p.val = true → s.hub.bit rRcvCtl 63 = false → s.hub.lcy ≠ 5 →
    (∃ t : State, exec (.rcvErase p area) s = .next t ∧ t.hub.fld rRcvCtl 54 2 = area.toNat ∧ t.vault = s.vault ∧ s.hub.sameDataPath t.hub ∧
      (s.hub.rcvWritable area.toNat = true → t.hub.bit rRcvCtl 63 = true ∧ t.hub.brd.rcv = some 1) ∧
      (s.hub.rcvWritable area.toNat = false → t.hub.fld rRcvCtl 60 4 = 1 ∧ t.hub.brd.rcv = s.hub.brd.rcv)) ∧
    (∀ page : BitVec 12, ∃ t : State, exec (.rcvProgram p area page) s = .next t ∧ t.hub.fld rRcvCtl 54 2 = area.toNat ∧
      t.hub.fld rRcvCtl 32 12 = page.toNat ∧ t.vault = s.vault ∧
      (s.hub.rcvWritable area.toNat = true → area.toNat < 2 → t.hub.bit rRcvCtl 63 = true ∧ t.hub.brd.rcv = some 2)) ∧
    (∃ t : State, exec (.rcvVerify p area) s = .next t ∧ t.vault = s.vault ∧
      (area.toNat < 2 → t.hub.bit rRcvCtl 63 = true ∧ t.hub.brd.rcv = some 3) ∧ (2 ≤ area.toNat → t.hub.fld rRcvCtl 60 4 = 1)) ∧
    (∃ t : State, exec (.rcvAttest p) s = .next t ∧ t.hub.bit rRcvCtl 63 = true ∧ t.hub.brd.rcv = some 4 ∧ t.vault = s.vault) ∧
    exec (.rcvReset p) s = .next (s.withHub ((s.hub.held s.vault).strapEdge s.vault s.hub.brd.straps))) ∧
  (∀ (s : State) (p : Fin 2), s.hub.rcvPort p.val = true → s.hub.bit rRcvCtl 63 = false → s.hub.lcy = 5 →
    ∃ t : State, exec (.rcvReset p) s = .next t ∧ t.hub.fld rRcvCtl 60 3 = 1 ∧ t.hub.phase = s.hub.phase ∧ t.vault = s.vault) ∧
  (∀ s : State, s.hub.brd.rcv = some 1 → s.hub.fld rRcvCtl 54 2 = 2 →
    ∃ t : State, exec (.recoveryCmdDone true) s = .next t ∧ t.vault = { s.vault with token := [] } ∧ t.hub.fld rRcvCtl 60 4 = 0 ∧
      t.hub.brd.rcv = none) ∧
  (∀ s : State, s.hub.brd.rcv = some 2 → s.hub.fld rRcvCtl 54 2 = 0 →
    ∃ t : State, exec (.recoveryCmdDone true) s = .next t ∧ t.vault.bankB = s.vault.bankB ∧ t.vault.token = s.vault.token ∧
      t.hub.fld rRcvCtl 60 4 = 0 ∧ t.hub.brd.rcv = none ∧
      ∀ i, i < 4096 → nvmByte t.vault.bankA (4096 * s.hub.fld rRcvCtl 32 12 + i) =
        nvmByte s.vault.bankA (4096 * s.hub.fld rRcvCtl 32 12 + i) &&& (s.hub.rcvBytes 4096).getD i 0) ∧
  (∀ s : State, s.hub.brd.rcv = some 3 → ∃ t : State, exec (.recoveryCmdDone false) s = .next t ∧ t.hub.fld rRcvCtl 60 4 = 2 ∧
    t.hub.brd.rcv = none ∧ t.vault = s.vault)) ∧
  (∀ (h : Hub) (why : Nat), why < 16 →
    (h.enterRecovery why).phase = phRecovery ∧ (h.enterRecovery why).fld rPwrBoot 56 4 = why ∧
    (∀ d, d < 20 → (h.enterRecovery why).domainOn d = (decide (d < 2) || (decide (d = 11) && h.domainOn 11))) ∧
    (∀ f, f < 32 → (h.enterRecovery why).funcOn f = isPf f) ∧ (h.enterRecovery why).brd.upd = none ∧
    (h.domainOn 11 = false → (h.enterRecovery why).brd.todo = [11]))

/-! ### Power, clocks and the management pins -/

/-- R444, R445, R448: a write of PWR_DOM that clears a bit a run-time domain may not lose sets REFUSED and nothing else; a domain that may go is
switched off; a domain asked for joins those that switch on. A write of CLK_EN_BAY or CLK_EN_BLK sets the bits it may, and one
that would stop a bay or sawpit in use sets REFUSED alone. -/
def Obligations.DomainsAndClockGates : Prop :=
  (∀ (s : State) (v : Word), s.hub.ready = true → bitAt (s.hub.reg rPwrDom) 10 = true → bitAt v 10 = false → s.hub.mayOff 10 = false →
    exec (.pwrDomWrite { value := v }) s = .next (s.withHub (s.hub.setFld rPwrDom 63 1 1))) ∧
  (∀ (s : State) (v : Word), s.hub.ready = false →
    exec (.pwrDomWrite { value := v }) s = .next (s.withHub (((s.hub.setReg rPwrDom
      (if bitAt v 63 then bitsPut (({ value := v } : Access).merge (rwMask rPwrDom) (s.hub.reg rPwrDom)) 63 1 0
       else ({ value := v } : Access).merge (rwMask rPwrDom) (s.hub.reg rPwrDom))).switchOff
        (domainOrder.filter fun d => bitAt (s.hub.reg rPwrDom) d && !bitAt v d)).switchOn
        (domainOrder.filter fun d => bitAt v d && !bitAt (s.hub.reg rPwrDom) d)))) ∧
  (∀ (s : State) (v : Word), (∀ b, b < 64 → s.hub.bayClockable b = true) →
    (∀ b, b < 64 → (s.hub.bayTenant b || s.hub.baySystem b) = false) →
    exec (.clkEnBayWrite { value := v }) s = .next (s.withHub (s.hub.setReg rClkBay v))) ∧
  (∀ (s : State) (v : Word) (b : Nat), b < 64 → bitAt (s.hub.reg rClkBay) b = true → bitAt v b = false →
    (s.hub.bayTenant b || s.hub.baySystem b) = true →
    exec (.clkEnBayWrite { value := v }) s = .next (s.withHub (s.hub.setFld rClkBlk 63 1 1))) ∧
  (∀ (s : State) (v : Word) (i : Nat), i < 16 → bitAt (s.hub.reg rClkBlk) i = true → bitAt v i = false → s.hub.sawLoad i ≠ 0 →
    exec (.clkEnBlkWrite { value := v }) s = .next (s.withHub (s.hub.setFld rClkBlk 63 1 1))) ∧
  (∀ (s : State) (v : Word), (∀ i, i < 18 → s.hub.blkClockable i = true) → (∀ i, i < 16 → s.hub.sawLoad i = 0) →
    ∃ t : State, exec (.clkEnBlkWrite { value := v }) s = .next t ∧ t.hub.fld rClkBlk 0 18 = v.toNat % 2 ^ 18 ∧
      (bitAt v 63 = true → t.hub.bit rClkBlk 63 = false) ∧ (∀ o, o ≠ rClkBlk → t.hub.reg o = s.hub.reg o) ∧ s.hub.sameDataPath t.hub)

/-- R451, R452: DUTY is the lower of the two limits, from 8 to 64; the thermal limit falls by 4 at or above T_THR, rises by 4 below
T_THR - 2, and holds between. -/
def Obligations.DutyFollowsTheLimits : Prop :=
  (∀ (d thr : Nat) (tj : Int), 8 ≤ d → d ≤ 64 →
    8 ≤ thermalNext d thr tj ∧ thermalNext d thr tj ≤ 64 ∧
    ((thr : Int) ≤ tj → thermalNext d thr tj = max 8 (d - 4)) ∧ (tj < (thr : Int) - 2 → thermalNext d thr tj = min 64 (d + 4)) ∧
    (tj < (thr : Int) → (thr : Int) - 2 ≤ tj → thermalNext d thr tj = d)) ∧
  (∀ w e lim : Nat, 8 ≤ dutyFor w e lim ∧ dutyFor w e lim ≤ 64 ∧ (∀ d, dutyFor w e lim < d → d ≤ 64 → dutyFits w e lim d = false) ∧
    (dutyFits w e lim 8 = true → dutyFits w e lim (dutyFor w e lim) = true)) ∧
  (∀ (s : State) (tj : Int), s.hub.wrightRuns = true → s.hub.brd.dutyPower ≤ 64 → s.hub.brd.dutyTherm ≤ 64 →
    ∃ t : State, exec (.thermalThrottleTick tj) s = .next t ∧
      t.hub.fld rPwrThr 56 8 = min s.hub.brd.dutyPower (thermalNext s.hub.brd.dutyTherm s.hub.thermalThreshold tj) ∧
      t.hub.fld rPwrThr 24 8 = ofInt 8 tj ∧ s.hub.sameDataPath t.hub ∧ t.vault = s.vault) ∧
  (∀ (s : State) (w e : Nat) (tj : Int), s.hub.wrightRuns = true → s.hub.brd.dutyTherm ≤ 64 → dutyFits w e s.hub.powerLimit 8 = true →
    ∃ t : State, exec (.powerEstimateTick w e tj) s = .next t ∧
      t.hub.fld rPwrThr 56 8 = min (dutyFor w e s.hub.powerLimit) s.hub.brd.dutyTherm ∧ t.hub.bit rPwrThr 53 = false ∧
      t.hub.fld rPwrThr 24 8 = ofInt 8 tj ∧ t.hub.plumb = s.hub.plumb ∧ s.hub.sameDataPath t.hub ∧ t.vault = s.vault)

/-- R446, R469, R471, R476: a lost clock or a rail out of range is DEVICE_FATAL under CLK or PWR; the core supply moves by at most
5 mV within 650 to 850 mV, and the third miss in succession is DEVICE_FATAL under PWR; THERMTRIP_N is driven. -/
def Obligations.ClocksAndRailsActs : Prop :=
  (∀ (s : State) (x : Bool), s.hub.wrightRuns = true → ∃ t : State, exec (.refclkLoss x) s = .next t ∧ t.hub.bit rFltStatus fltClk = true ∧
    t.hub.plumb.fatal = 2 ∧ t.hub.sec.keys = [] ∧ s.hub.sameDataPath t.hub ∧ t.vault = s.vault) ∧
  (∀ s : State, s.hub.brd.resetN = true → ∃ t : State, exec .railExcursion s = .next t ∧ t.hub.bit rFltStatus fltPwr = true ∧
    t.hub.plumb.fatal = 2 ∧ t.hub.sec.keys = [] ∧ s.hub.sameDataPath t.hub ∧ t.vault = s.vault) ∧
  (∀ v goal : Nat, 650 ≤ v → v ≤ 850 → 650 ≤ avsStep v goal ∧ avsStep v goal ≤ 850 ∧ avsStep v goal ≤ v + 5 ∧ v ≤ avsStep v goal + 5) ∧
  (∀ (s : State) (v : Nat), s.hub.domainOn 2 = true → s.hub.brd.avsAt ≤ s.hub.now →
    (exec (.avsCommand v true) s = .next (s.withHub { s.hub with brd :=
      { s.hub.brd with vReq := avsStep s.hub.brd.vReq v, avsAt := s.hub.now + 20000, avsMiss := 0 } })) ∧
    (s.hub.brd.avsMiss = 2 → ∃ t : State, exec (.avsCommand v false) s = .next t ∧ t.hub.bit rFltStatus fltPwr = true ∧ t.hub.plumb.fatal = 2 ∧
      s.hub.sameDataPath t.hub)) ∧
  (∀ s : State, s.hub.brd.supplies = true →
    exec .thermtrip s = .next (s.withHub { s.hub with brd := { s.hub.brd with thermtrip := true } }))

/-- R477 to R479, Table 13.10: the SMBus pointer, its read of eight bytes little-endian with the pointer 8 further, the alert response, the
instructions of the test access port, and the record of debug access. None of them writes a register. -/
def Obligations.ManagementPinsAct : Prop :=
  (∀ (s : State) (ptr : BitVec 32), s.hub.smbOn = true →
    exec (.smbSetPtr 4 ptr) s = .next (s.withHub { s.hub with brd := { s.hub.brd with smbPtr := ptr.toNat / 8 * 8 } }) ∧
    (∀ n : BitVec 8, n ≠ 4 → exec (.smbSetPtr n ptr) s = .next s)) ∧
  (∀ s : State, s.hub.smbOn = true → ∃ t : State, exec .smbRead s = .next t ∧ t.hub.regs = s.hub.regs ∧
    t.hub.brd.smbPtr = (s.hub.brd.smbPtr + 8) % 2 ^ 32 ∧ t.hub.brd.smbOut.length = 9 ∧ t.hub.brd.smbOut.head? = some 8 ∧
    leWord (t.hub.brd.smbOut.drop 1) = s.hub.smbValue s.hub.brd.smbPtr ∧ s.hub.sameDataPath t.hub ∧ t.vault = s.vault) ∧
  (∀ (h : Hub) (o : Nat), (0x30000 ≤ o ∧ ¬ (0x40000 ≤ o ∧ o < 0x50000)) ∨ (0x2000 ≤ o ∧ o < 0x4000) → h.smbValue o = 0) ∧
  (∀ s : State, s.hub.smbOn = true → s.hub.bit rFltFirst 63 = true → ∃ t : State, exec .smbAlertResponse s = .next t ∧
    t.hub.brd.smbOut = [BitVec.ofNat 8 (2 * (0x58 + s.hub.brd.slot.toNat))] ∧ t.hub.regs = s.hub.regs ∧ s.hub.sameDataPath t.hub) ∧
  (∀ s : State, s.hub.brd.supplies = true →
    exec .jtagIdcode s = .next (s.withHub { s.hub with brd := { s.hub.brd with jtag := 1, scan := bitsOf 32 Config.idcode.toNat } }) ∧
    exec .jtagBypass s = .next (s.withHub { s.hub with brd := { s.hub.brd with jtag := 2, scan := [false] } }) ∧
    (∀ scan, exec (.jtagSamplePreload scan) s = .next (s.withHub { s.hub with brd := { s.hub.brd with jtag := 3, scan := scan } })) ∧
    (s.hub.brd.resetN = false → exec .jtagExtest s = .next (s.withHub { s.hub with brd := { s.hub.brd with jtag := 4 } })) ∧
    (s.hub.brd.resetN = true → exec .jtagExtest s = .next s)) ∧
  (∀ (s : State) (j x w : Bool), s.hub.brd.aonReset = false → (j || x || w) = true →
    ∃ t : State, exec (.debugAccessOpen j x w) s = .next t ∧ bitAt t.hub.brd.debug 3 = true ∧ (j = true → bitAt t.hub.brd.debug 0 = true) ∧
      (x = true → bitAt t.hub.brd.debug 1 = true) ∧ (w = true → bitAt t.hub.brd.debug 2 = true) ∧
      t.hub.regs = s.hub.regs ∧ s.hub.sameDataPath t.hub ∧ t.vault = s.vault)

/-! ### Registers (chapters 0 and 17) -/

/-- R7, R12, R454: a setting register takes the RW bits on the lanes written and nothing else changes; a W1C bit written 1 clears; an offset
without a register, and an access whose width R6 refuses, change nothing; a function's write outside its own registers
changes nothing. -/
def Obligations.WritesFollowAccessCodes : Prop :=
  (∀ (s : State) (o : BitVec 26) (a : Access), o.toNat ∈ settingRegs → s.hub.wrightRuns = true → s.hub.regLive o.toNat = true →
    a.half ≠ .other → ∃ t : State, exec (.registerWrite .wright o a) s = .next t ∧
      t.hub.reg o.toNat = (s.hub.reg o.toNat &&& ~~~ (rwMask o.toNat &&& a.half.lanes)) ||| (a.value &&& rwMask o.toNat &&& a.half.lanes) ∧
      (∀ p, p ≠ o.toNat → t.hub.reg p = s.hub.reg p) ∧ t = s.withHub { s.hub with regs := t.hub.regs }) ∧
  (∀ (s : State) (v : Word), s.hub.wrightRuns = true →
    exec (.registerWrite .wright (BitVec.ofNat 26 rFltStatus) { value := v }) s =
      .next (s.withHub (s.hub.setReg rFltStatus (s.hub.reg rFltStatus &&& ~~~ (v &&& 0x00007FFFFFFFFFFF#64))))) ∧
  (∀ (s : State) (w : Writer) (o : BitVec 26) (a : Access), regInfo o.toNat = none ∨ a.half = .other →
    exec (.registerWrite w o a) s = .next s) ∧
  (∀ (s : State) (f : Fin 32) (o : BitVec 26) (a : Access), s.hub.inRecovery = false → funcMayWrite f.val o.toNat = false →
    exec (.registerWrite (.func f) o a) s = .next s) ∧
  (∀ (s : State) (f : Fin 32) (w : Fin 64) (v : Word), s.hub.inRecovery = false → s.hub.hostOn (f.val / 16) = true → s.hub.funcOn f.val = true →
    (s.hub.func f.val).mem = true → ∃ t : State, exec (.registerWrite (.func f) (BitVec.ofNat 26 (rApw f.val w.val)) { value := v }) s = .next t ∧
      t.hub.reg (rApw f.val w.val) = (s.hub.reg (rApw f.val w.val) &&& ~~~ 0x8FFFC000003FFFFF#64) ||| (v &&& 0x8FFFC000003FFFFF#64) ∧ (∀ p, p ≠ rApw f.val w.val → t.hub.reg p = s.hub.reg p) ∧
      t = s.withHub { s.hub with regs := t.hub.regs })

/-- R456: a counter that is advanced stops at all ones and does not wrap, whatever it held; the wright's 64-bit read of a counter
returns it and clears it, and clears nothing else. -/
def Obligations.CountersStopAtAllOnes : Prop :=
  (∀ (h : Hub) (o k : Nat), ((h.countBy o k).reg o).toNat = min ((h.reg o).toNat + k) (2 ^ 64 - 1) ∧
    ∀ p, p ≠ o → (h.countBy o k).reg p = h.reg p) ∧
  (∀ (s : State) (o : BitVec 26), regInfo o.toNat = regCtr → s.hub.wrightRuns = true → s.hub.regLive o.toNat = true →
    ∃ t : State, exec (.wrightRcRead o .full) s = .next t ∧ t.hub.reg o.toNat = 0 ∧ t.hub.brd.wrightOut = s.hub.regRead o.toNat ∧
      ∀ p, p ≠ o.toNat → t.hub.reg p = s.hub.reg p)

/-- R6, R305, R455: only the wright's aligned 64-bit read clears RC bits; a read of a half returns that half and clears nothing; every
other state stays, but for the event of a word of the fault log that its code does not mend: that word reads zero, under bit KRF. -/
def Obligations.OnlyFullReadsClear : Prop :=
  ∀ (s : State) (o : BitVec 26), s.hub.wrightRuns = true →
    (∀ x : Half, x ≠ .full → exec (.wrightRcRead o x) s =
      .next (s.withHub (({ s.hub with brd := { s.hub.brd with wrightOut := x.pick (s.hub.regRead o.toNat) } } : Hub).logEvent o.toNat))) ∧
    (0x30000 ≤ o.toNat → o.toNat < 0x40000 → o.toNat % 64 < 32 →
      codeMends (tget 0 s.hub.plumb.logBad ((o.toNat - 0x30000) / 64)) = false → tget 0 s.hub.plumb.logBad ((o.toNat - 0x30000) / 64) ≠ 0 →
      ∃ t : State, exec (.wrightRcRead o .full) s = .next t ∧ t.hub.brd.wrightOut = 0 ∧ t.hub.bit rFltStatus fltKrf = true) ∧
    (s.hub.plumb.logBad = [] → s.hub.regLive o.toNat = true → o.toNat % 8 = 0 → ∃ t : State, exec (.wrightRcRead o .full) s = .next t ∧
      t.hub.brd.wrightOut = s.hub.regRead o.toNat ∧ t.hub.reg o.toNat = s.hub.reg o.toNat &&& ~~~ (rcMask o.toNat) ∧
      (∀ p, p ≠ o.toNat → t.hub.reg p = s.hub.reg p) ∧ s.hub.sameDataPath t.hub ∧ t.vault = s.vault)

/-! ### The plumb and the wear log (chapter 14) -/

/-- R372 to R376: an event sets its source bit; the first one is latched whole in FLT_FIRST and a later one sets OVF; one that is
logged takes the next sequence number; every class above CORRECTED pulses FAULT_N; PLANE_FATAL and above set HOLD where LATCH_FATAL is 1; DEVICE_FATAL zeroises
every key. -/
def Obligations.FaultEventsLatchAndReact : Prop :=
  ∀ (s : State) (src : Fin 47) (c : FaultClass) (chk : BitVec 16) (d0 d1 d2 d3 : Word), s.hub.brd.aonReset = false →
    ∃ t : State, exec (.faultEvent src c chk d0 d1 d2 d3) s = .next t ∧ t.hub.bit rFltStatus src.val = true ∧
      (s.hub.bit rFltFirst 63 = true → t.hub.reg rFltFirst = s.hub.reg rFltFirst ∧ t.hub.bit rFltOvf 0 = true) ∧
      (s.hub.bit rFltFirst 63 = false → t.hub.bit rFltFirst 63 = true ∧ t.hub.fld rFltFirst 48 6 = src.val ∧
        t.hub.fld rFltFirst 56 2 = c.code ∧ t.hub.fld rFltFirst 32 16 = chk.toNat ∧ t.hub.fld rFltFirst 0 32 = s.hub.fld rFltLog 32 32 ∧
        (t.hub.bit rFltFirst 58 = true ↔ (1024 ≤ s.hub.logUsed ∨ s.hub.rateLimited src.val c = true))) ∧
      (s.hub.logUsed < 1024 → s.hub.rateLimited src.val c = false →
        t.hub.fld rFltLog 32 32 = (s.hub.fld rFltLog 32 32 + 1) % 2 ^ 32 ∧
        tget [] t.hub.plumb.log (s.hub.fld rFltLog 32 32 % 1024) =
          logEntry s.hub.now (s.hub.fld rFltLog 32 32) src.val c.code chk [d0, d1, d2, d3]) ∧
      ((1024 ≤ s.hub.logUsed ∨ s.hub.rateLimited src.val c = true) → t.hub.reg rFltLog = s.hub.reg rFltLog ∧ t.hub.plumb.log = s.hub.plumb.log) ∧
      t.hub.plumb.pulse = (if c = .corrected then s.hub.plumb.pulse else some (s.hub.now + 10000)) ∧
      t.hub.plumb.fatal = (match c with
        | .corrected => s.hub.plumb.fatal | .contained => s.hub.plumb.fatal | .planeFatal => max s.hub.plumb.fatal 1 | .deviceFatal => 2) ∧
      (2 ≤ c.code → s.hub.bit rFltPin 1 = true → t.hub.bit rFltPin 0 = true) ∧ (c.code < 2 → t.hub.reg rFltPin = s.hub.reg rFltPin) ∧
      (c = .deviceFatal → t.hub.sec.keys = [] ∧ ∀ n, n < 64 → t.hub.reg (rKslot n) = 0) ∧ (c ≠ .deviceFatal → t.hub.sec = s.hub.sec) ∧
      s.hub.sameDataPath t.hub ∧ t.hub.brd = s.hub.brd ∧ t.vault = s.vault

/-- R373, R377, R379, R380: the pulse of FAULT_N ends; a write that clears VALID also clears OVF; the consumer index of the log moves within what
is unread; FLT_ERR_INJ is written only while the hub is not READY. -/
def Obligations.PlumbRegistersAct : Prop :=
  (∀ (s : State) (x : Nat), s.hub.plumb.pulse = some x → x ≤ s.hub.now →
    exec .faultPulseEnd s = .next (s.withHub { s.hub with plumb := { s.hub.plumb with pulse := none } })) ∧
  (∀ (s : State) (v : Word), bitAt v 63 = true → ∃ t : State, exec (.fltFirstClear { value := v }) s = .next t ∧
    t.hub.bit rFltFirst 63 = false ∧ t.hub.bit rFltOvf 0 = false ∧ t.hub.fld rFltFirst 0 63 = s.hub.fld rFltFirst 0 63 ∧
    (∀ p, p ≠ rFltFirst → p ≠ rFltOvf → t.hub.reg p = s.hub.reg p) ∧ s.hub.sameDataPath t.hub) ∧
  (∀ (s : State) (n : BitVec 32), (n.toNat + 2 ^ 32 - s.hub.fld rFltLog 0 32) % 2 ^ 32 ≤ s.hub.logUsed →
    ∃ t : State, exec (.fltLogConsWrite { value := n.setWidth 64, half := .low }) s = .next t ∧ t.hub.fld rFltLog 0 32 = n.toNat ∧
      t.hub.fld rFltLog 32 32 = s.hub.fld rFltLog 32 32 ∧ (∀ p, p ≠ rFltLog → t.hub.reg p = s.hub.reg p) ∧ s.hub.sameDataPath t.hub) ∧
  (∀ (s : State) (v : Word), (s.hub.ready = true → exec (.fltErrInjWrite { value := v }) s = .next s) ∧
    (s.hub.ready = false → exec (.fltErrInjWrite { value := v }) s =
      .next (s.withHub (s.hub.setReg rFltInj ((s.hub.reg rFltInj &&& ~~~ (0xC03FFFFF0000000F#64)) ||| (v &&& 0xC03FFFFF0000000F#64))))))

/-- R395, R396: the hourly record is appended to the ring of 32,768 with its chain, and the counts of events start again; the summary follows
every 720 powered hours, with the hours it covers; a summary not yet due is not written. -/
def Obligations.WearLogActs : Prop :=
  (∀ (s : State) (m : WearInputs), s.hub.wrightRuns = true → ∃ t : State, exec (.wearRecordHourly m) s = .next t ∧
    t.hub.wear.hours = s.hub.wear.hours + 1 ∧ t.hub.wear.count = s.hub.wear.count + 1 ∧ t.hub.wear.last = m ∧
    t.hub.wear.events = [0, 0, 0, 0] ∧ (tget [] t.hub.wear.records (s.hub.wear.count % 32768)).length = 128 ∧
    t.hub.wear.chain = slice (tget [] t.hub.wear.records (s.hub.wear.count % 32768)) 64 32 ∧
    (∀ k, k ≠ s.hub.wear.count % 32768 → tget [] t.hub.wear.records k = tget [] s.hub.wear.records k) ∧
    t.hub.regs = s.hub.regs ∧ s.hub.sameDataPath t.hub ∧ t.vault = s.vault) ∧
  (∀ s : State, s.hub.wrightRuns = true → s.hub.wear.sumHour + 720 ≤ s.hub.wear.hours → ∃ t : State, exec .wearSummary s = .next t ∧
    tget [] t.hub.wear.sums (s.hub.wear.sumCount % 64) = s.hub.summary ∧ s.hub.summary.length = 256 ∧
    t.hub.wear.sumCount = s.hub.wear.sumCount + 1 ∧ t.hub.wear.sumHour = s.hub.wear.hours ∧ t.hub.wear.records = s.hub.wear.records ∧
    t.hub.regs = s.hub.regs ∧ s.hub.sameDataPath t.hub ∧ t.vault = s.vault) ∧
  (∀ s : State, s.hub.wear.hours < s.hub.wear.sumHour + 720 → s.hub.ready = false → exec .wearSummary s = .next s)

/-! ### The switch core (chapter 4) -/

/-- The flow hash of R119, on the widths that the rule gives its operands, with SWC_HASH_SEED.SEED as it stands; FLOW counts as zero for the
memory-semantic requests, RD, WR, WRA and AT (R69). -/
def Obligations.FlowHashIsTheRule : Prop :=
  ∀ (h : Hub) (p : Packet) (seed : BitVec 32), bitsGet (h.reg rHashSeed) 0 32 = seed.toNat →
    let flow : BitVec 8 := if p.opc = opcRd ∨ p.opc = opcWr ∨ p.opc = opcWra ∨ p.opc = opcAt then 0 else p.flow
    h.hashOf p =
      (let x : BitVec 32 := (p.src ++ p.dst ++ flow).setWidth 32 ^^^ seed
       let x := x * 0x9E3779B1#32
       (x ^^^ (x >>> 16)).setWidth 8).toNat

/-- R66, R100, R345, R375, R391, R440: what the ingress decides, from the state of the hub and the packet alone: a fatal event, a hub not
READY, an expelled hub, an absent destination, a partition that does not own the joist or does not hold the destination,
and a partition in QUIESCE. -/
def Obligations.IngressVerdicts : Prop :=
  (∀ (h : Hub) (x : Held), x.pkt.opc ≠ opcMgt → h.alive = false → x.ing ≠ .inner → h.verdict x = .discard) ∧
  (∀ (h : Hub) (x : Held), x.pkt.opc ≠ opcMgt → h.alive = true → h.ready = false → h.verdict x = .ageDrop) ∧
  (∀ (h : Hub) (x : Held), x.pkt.opc ≠ opcMgt → h.alive = true → h.ready = true → h.snd.expelled = true →
    h.verdict x = if x.pkt.cls = 0 then .nak nakAbsent else .discard) ∧
  (∀ (h : Hub) (p : Packet) (a : Arrived), h.absent p.dst = true → h.decideRoute p a = .reject nakAbsent) ∧
  (∀ (h : Hub) (p : Packet) (j : Nat), h.ownsJoist p.part.toNat j = false ∨ p.isSystem = true →
    h.partCheck p (.joist j) = some nakDenied) ∧
  (∀ (h : Hub) (p : Packet) (x : Nat), p.isSystem = false → h.mayRafter p.part.toNat x = false →
    h.partCheck p (.rafter x) = some nakDenied) ∧
  (∀ (h : Hub) (p : Packet) (a : Arrived), p.isSystem = false → h.inDset p.part.toNat p.dst = false → h.partCheck p a = some nakDenied) ∧
  (∀ (h : Hub) (p : Packet) (j : Nat), p.isSystem = false → h.ownsJoist p.part.toNat j = true → h.inDset p.part.toNat p.dst = true →
    h.partCheck p (.joist j) = if p.cls = 0 ∧ h.partState p.part.toNat = ptQuiesce then some nakQuiesce else none) ∧
  (∀ (h : Hub) (p : Packet), h.partState p.part.toNat = ptFree → p.isSystem = false → ∀ a, h.partCheck p a = some nakDenied)

/-- R107, R111, R114, R117, R118: the head of a receive buffer takes its route, is refused with a NAK toward its source, or is discarded and counted; it is admitted to its queue
with PH set, at the tail; a packet for the hub itself goes to its target. -/
def Obligations.IngressCommandsAct : Prop :=
  (∀ (s : State) (ing : Ingress) (vc : Fin 10) (x : Held), s.hub.rxHead ing vc.val = some x → x.route = none →
    (∀ r, s.hub.verdict x = .go r → exec (.ingressRoute ing vc) s = .next (s.withHub { (s.hub.sample x) with swc := { (s.hub.sample x).swc with
        rx := (s.hub.sample x).swc.rx.map fun y => if y.pid = x.pid then { y with route := some r, seen := true } else y } })) ∧
    (∀ c, s.hub.verdict x = .nak c → ∃ t : State, ∃ y : Held, exec (.ingressRoute ing vc) s = .next t ∧ t.hub.swc.rx = ((s.hub.sample x).dropRx x).swc.rx ++ [y] ∧
      y.ing = .inner ∧ y.pkt.opc = opcNak ∧ y.pkt.dst = x.pkt.src ∧ y.pkt.src = x.pkt.dst ∧ y.pkt.tag = x.pkt.tag ∧
      y.pkt.stat = BitVec.ofNat 8 c ∧ y.pkt.aux40 = s.hub.self.setWidth 40 ∧ t.hub.mem = s.hub.mem) ∧
    (s.hub.verdict x = .discard → exec (.ingressRoute ing vc) s = .next (s.withHub (((s.hub.sample x).dropRx x).countHeld x))) ∧
    (s.hub.verdict x = .ageDrop → exec (.ingressRoute ing vc) s = .next (s.withHub (((s.hub.sample x).dropRx x).count rAgeDrop))) ∧
    (s.hub.verdict x = .silent → exec (.ingressRoute ing vc) s = .next (s.withHub ((s.hub.sample x).dropRx x))) ∧
    (s.hub.verdict x = .wait → exec (.ingressRoute ing vc) s = .next s)) ∧
  (∀ (s : State) (ing : Ingress) (vc : Fin 10) (x : Held) (out : Nat), s.hub.rxHead ing vc.val = some x → x.route = some (.queue out) →
    s.hub.lostFlush x.pkt = false → 72 ≤ out ∨ x.pkt.cls ≠ 0 → (s.hub.swc.rx.find? fun y => decide (y.route = some (.queue out)) && decide (y.pkt.cls = x.pkt.cls)) = some x →
    admits (cellsOf (s.hub.qlist out x.pkt.cls.toNat)) (s.hub.qmin x.pkt.cls.toNat) (s.hub.qcap out x.pkt.cls.toNat)
      (s.hub.qalpha x.pkt.cls.toNat) s.hub.poolFree x.pkt.cells = true →
    ∃ t : State, ∃ y : Held, exec (.queueAdmit ing vc) s = .next t ∧ t.hub.qlist out x.pkt.cls.toNat = s.hub.qlist out x.pkt.cls.toNat ++ [y] ∧
      y.pid = x.pid ∧ y.pkt = { x.pkt with ph := true } ∧ y.at_ = x.at_ ∧
      (∀ k, k ≠ qkey out x.pkt.cls.toNat → tget [] t.hub.swc.queues k = tget [] s.hub.swc.queues k) ∧
      t.hub.swc.rx = s.hub.swc.rx.filter (fun z => !decide (z.pid = x.pid)) ∧ t.hub.mem = s.hub.mem ∧ t.hub.sill = s.hub.sill) ∧
  (∀ (s : State) (ing : Ingress) (vc : Fin 10) (x : Held), s.hub.rxHead ing vc.val = some x → x.route = some .target →
    (x.pkt.opc = opcMgt → ∃ t : State, exec (.localDelivery ing vc) s = .next t ∧ t.hub.sill.mgt = s.hub.sill.mgt ++ [x] ∧
      t.hub.swc.rx = s.hub.swc.rx.filter (fun z => !decide (z.pid = x.pid)) ∧ t.hub.mem = s.hub.mem) ∧
    (x.pkt.opc = opcWr ∨ x.pkt.opc = opcRd → s.hub.lostFlush x.pkt = false → inboxCells s.hub.sill.reqs x.vc + x.pkt.cells ≤ 8 →
      ∃ t : State, exec (.localDelivery ing vc) s = .next t ∧ t.hub.sill.reqs = s.hub.sill.reqs ++ [x] ∧
        t.hub.swc.rx = s.hub.swc.rx.filter (fun z => !decide (z.pid = x.pid)) ∧ t.hub.mem = s.hub.mem))

/-- R109, R113, R115, R116, R123, R364: the head of a queue is sent on its link, dropped with its key slot, or discarded for its age; a multicast head is sent
when every reservation can be taken, and waits otherwise; windows end with their counts at zero. -/
def Obligations.QueueCommandsAct : Prop :=
  (∀ (s : State) (out : Fin 86) (c : Fin 5) (x : Held) (r : List Held), s.hub.qlist out.val c.val = x :: r → s.hub.alive = true →
    s.hub.portUp out.val = true → s.hub.sec.gone.contains x.pkt.kslot.toNat = false → s.hub.lostFlush x.pkt = false → x.upset = none →
    x.group = [] →
    (s.hub.canSend out.val (outgoing out.val x) = true → exec (.packetTransmit out c) s =
      .next (s.withHub ((s.hub.popQ out.val c.val).transmit out.val { x with pkt := outgoing out.val x }))) ∧
    (s.hub.canSend out.val (outgoing out.val x) = false → exec (.packetTransmit out c) s = .next s)) ∧
  (∀ (s : State) (out : Fin 86) (c : Fin 5) (x : Held) (r : List Held), s.hub.qlist out.val c.val = x :: r → s.hub.alive = true →
    s.hub.portUp out.val = true → s.hub.sec.gone.contains x.pkt.kslot.toNat = true →
    ∃ t : State, exec (.packetTransmit out c) s = .next t ∧ t.hub.qlist out.val c.val = r ∧
      (∀ p, tget 0 t.hub.sec.drops p = tget 0 s.hub.sec.drops p
        + (x.members.filter fun m => decide (m.pkt.kslot.toNat / 2 = p)).length) ∧
      (∀ m ∈ x.members, m.pkt.cls = 0 → ∃ y ∈ t.hub.swc.rx, y.pkt.opc = opcNak ∧ y.pkt.stat = BitVec.ofNat 8 nakGone ∧
        y.pkt.dst = m.pkt.src ∧ y.pkt.tag = m.pkt.tag)) ∧
  (∀ (s : State) (g : Bool) (c : Fin 5) (x : Held) (r : List Held), s.hub.qlist (if g then 87 else 86) c.val = x :: r → s.hub.alive = true →
    s.hub.sec.gone.contains x.pkt.kslot.toNat = false → x.upset = none →
    let plan := s.hub.resvPlan x (s.hub.copies g x).1 (s.hub.copies g x).2.1
    let got := s.hub.takeResv x (s.hub.resvOf (if g then 87 else 86) c.val) plan
    (got.length < plan.length → exec (.multicastReplicate g c) s = .next (s.withHub { s.hub with swc :=
      { s.hub.swc with resv := tset [] s.hub.swc.resv (qkey (if g then 87 else 86) c.val) got } })) ∧
    (got.length = plan.length → ∃ t : State, exec (.multicastReplicate g c) s = .next t ∧
      (t.hub.reg rTrsCopies).toNat = min ((s.hub.reg rTrsCopies).toNat + ((s.hub.copies g x).1.length + (s.hub.copies g x).2.1.length
        + bit01 (x.pkt.mask.testBit 78))) (2 ^ 64 - 1) ∧
      (t.hub.reg rTrsNoTarget).toNat = min ((s.hub.reg rTrsNoTarget).toNat + (s.hub.copies g x).2.2) (2 ^ 64 - 1) ∧
      t.hub.qlist (if g then 87 else 86) c.val = r ∧ t.hub.resvOf (if g then 87 else 86) c.val = [])) ∧
  (∀ (s : State) (ing : Ingress) (vc : Fin 10) (x : Held), s.hub.rxHead ing vc.val = some x → x.at_ + s.hub.lifetime < s.hub.now →
    exec (.packetAgeDiscard (.rx ing vc)) s = .next (s.withHub (((s.hub.sample x).dropRx x).ageDiscard x.pkt))) ∧
  (∀ (s : State) (out : Fin 88) (c : Fin 5) (x : Held) (r : List Held), s.hub.qlist out.val c.val = x :: r →
    (x.group = [] → x.at_ + s.hub.lifetime < s.hub.now → ∃ t : State, exec (.packetAgeDiscard (.queue out c)) s = .next t ∧
      t.hub.qlist out.val c.val = r ∧ (t.hub.reg rAgeDrop).toNat = min ((s.hub.reg rAgeDrop).toNat + 1) (2 ^ 64 - 1) ∧
      (x.pkt.cls = 0 → t.hub.flushLost x.pkt.src x.pkt.dst = true)) ∧
    (x.group = [] → s.hub.now ≤ x.at_ + s.hub.lifetime → exec (.packetAgeDiscard (.queue out c)) s = .next s) ∧
    (x.group ≠ [] → ∃ t : State, exec (.packetAgeDiscard (.queue out c)) s = .next t ∧
      (t.hub.reg rAgeDrop).toNat = min ((s.hub.reg rAgeDrop).toNat + (x.group.filter fun m => s.hub.tooOld m.at_).length) (2 ^ 64 - 1) ∧
      (t.hub.qlist out.val c.val).flatMap Held.members =
        (x.group.filter fun m => !s.hub.tooOld m.at_) ++ r.flatMap Held.members)) ∧
  (∀ (s : State) (a b : Node), ∃ t : State, exec (.lossRecordExpiry (some (a, b))) s = .next t ∧
    (∀ e, e ∈ t.hub.swc.losses ↔ e ∈ s.hub.swc.losses ∧ ¬ (e.src = a ∧ e.dst = b ∧ e.until_ ≤ s.hub.now)) ∧ t.hub.regs = s.hub.regs) ∧
  (∀ (s : State), s.hub.swc.overflow ≤ s.hub.now → ∃ t : State, exec (.lossRecordExpiry none) s = .next t ∧ t.hub.swc.overflow = 0 ∧
    t.hub.swc.losses = s.hub.swc.losses ∧ t.hub.regs = s.hub.regs) ∧
  (∀ (s : State) (out : Fin 88) (c : Fin 5), (tget {} s.hub.swc.rates (qkey out.val c.val)).since + 10000 ≤ s.hub.now →
    ∃ t : State, exec (.drainRateWindow out c) s = .next t ∧
    (tget {} t.hub.swc.rates (qkey out.val c.val)).sent = 0 ∧ (tget {} t.hub.swc.rates (qkey out.val c.val)).since = s.hub.now ∧
    (s.hub.now = (tget {} s.hub.swc.rates (qkey out.val c.val)).since + 10000 →
      (tget {} s.hub.swc.rates (qkey out.val c.val)).busy = true → s.hub.qlist out.val c.val ≠ [] →
      (tget {} t.hub.swc.rates (qkey out.val c.val)).last = (tget {} s.hub.swc.rates (qkey out.val c.val)).sent) ∧
    t.hub.swc.queues = s.hub.swc.queues ∧ t.hub.regs = s.hub.regs) ∧
  (∀ (s : State) (out : Fin 88) (c : Fin 5), s.hub.now < (tget {} s.hub.swc.rates (qkey out.val c.val)).since + 10000 →
    exec (.drainRateWindow out c) s = .next s) ∧
  (∀ (s : State) (j : Fin 72), s.hub.now < (tget {} s.hub.swc.hot j.val).since + max 100 (s.hub.fld rHotCtl 16 16) →
    exec (.hotWindowEnd j) s = .next s) ∧
  (∀ (s : State) (j : Fin 72), (tget {} s.hub.swc.hot j.val).since + max 100 (s.hub.fld rHotCtl 16 16) ≤ s.hub.now → ∃ t : State, exec (.hotWindowEnd j) s = .next t ∧ (∀ l ∈ (tget {} t.hub.swc.hot j.val).lines, l.count = 0) ∧
    (tget {} t.hub.swc.hot j.val).other = none ∧
    (∀ l ∈ (tget {} s.hub.swc.hot j.val).lines, l.hot = true → s.hub.hotThresh < l.count → t.hub.isHot j.val l.line = true) ∧
    t.hub.swc.queues = s.hub.swc.queues ∧ t.hub.regs = s.hub.regs)

/-! ### The sill as target (chapters 2 and 3) -/

/-- R46, Table 2.6: what each atomic leaves in memory, on 64-bit and on 32-bit operands. -/
def Obligations.AtomicsCompute : Prop :=
  (∀ old a b : BitVec 64,
    atResult 0 8 old.toNat a.toNat b.toNat = (old + a).toNat ∧ atResult 1 8 old.toNat a.toNat b.toNat = (old &&& a).toNat ∧
    atResult 2 8 old.toNat a.toNat b.toNat = (old ||| a).toNat ∧ atResult 3 8 old.toNat a.toNat b.toNat = (old ^^^ a).toNat ∧
    atResult 4 8 old.toNat a.toNat b.toNat = a.toNat ∧ atResult 5 8 old.toNat a.toNat b.toNat = (if old = a then b else old).toNat ∧
    atResult 6 8 old.toNat a.toNat b.toNat = (if old.slt a then a else old).toNat ∧
    atResult 7 8 old.toNat a.toNat b.toNat = (if a.slt old then a else old).toNat) ∧
  (∀ old a b : BitVec 32,
    atResult 0 4 old.toNat a.toNat b.toNat = (old + a).toNat ∧ atResult 1 4 old.toNat a.toNat b.toNat = (old &&& a).toNat ∧
    atResult 2 4 old.toNat a.toNat b.toNat = (old ||| a).toNat ∧ atResult 3 4 old.toNat a.toNat b.toNat = (old ^^^ a).toNat ∧
    atResult 4 4 old.toNat a.toNat b.toNat = a.toNat ∧ atResult 5 4 old.toNat a.toNat b.toNat = (if old = a then b else old).toNat ∧
    atResult 6 4 old.toNat a.toNat b.toNat = (if old.slt a then a else old).toNat ∧
    atResult 7 4 old.toNat a.toNat b.toNat = (if a.slt old then a else old).toNat)

/-- R62, R65, R99, R348: a request that fails its CHK or its key is answered with the NAK of the failed check toward its source and its tag; it leaves memory,
pegs and mortises as they are; a NAKed posted write is remembered once for the source's next FLUSH, which carries that code whatever
its own fate. -/
def Obligations.RefusedRequestsAreNaked : Prop :=
  ∀ (s : State) (src dst : Node) (x : Held) (code : Nat) (c : Instr), s.hub.alive = true → s.hub.oldestReq src dst = some x →
    s.hub.frontCheck x.pkt = some code →
    ((x.pkt.opc = opcRd ∧ x.pkt.md = 0 ∧ c = .rdRead src dst) ∨ (x.pkt.opc = opcRd ∧ x.pkt.md = 1 ∧ c = .rdFlush src dst) ∨
      (x.pkt.opc = opcWr ∧ c = .wr src dst) ∨ (x.pkt.opc = opcWra ∧ c = .wra src dst) ∨ (x.pkt.opc = opcSend ∧ c = .send src dst) ∨
      (x.pkt.opc = opcAt ∧ x.pkt.md = 0 ∧ c = .atAdd src dst) ∨ (x.pkt.opc = opcAt ∧ x.pkt.md = 5 ∧ c = .atCas src dst)) →
    let kept := tget 0 s.hub.sill.firstNak (x.pkt.dst.toNat * 1024 + x.pkt.src.toNat)
    ∃ t : State, exec c s = .next t ∧
      s.hub.sends t.hub (x.pkt.nakOf (if x.pkt.opc = opcRd ∧ x.pkt.md = 1 ∧ kept ≠ 0 then kept else code) x.pkt.dst) ∧
      t.hub.mem = s.hub.mem ∧ t.hub.pegs = s.hub.pegs ∧
      t.hub.mts = s.hub.mts ∧ (∀ y ∈ t.hub.sill.reqs, y.pid ≠ x.pid) ∧
      (x.pkt.opc = opcWr → tget 0 t.hub.sill.firstNak (dst.toNat * 1024 + src.toNat) =
        (let k := tget 0 s.hub.sill.firstNak (dst.toNat * 1024 + src.toNat); if k = 0 then code else k))

/-- R52, R76, R99: RD READ of memory answers the stored bytes, or MEM_UNCORR where a word of them is uncorrectable; RD READ of a peg answers
its word; RD FLUSH answers ACK, or once the STAT of the first NAKed posted write. No byte of memory changes. -/
def Obligations.ReadsAtTarget : Prop :=
  ∀ (s : State) (src dst : Node) (x : Held), s.hub.alive = true → s.hub.oldestReq src dst = some x →
    s.hub.frontCheck x.pkt = none → dst = s.hub.self →
    (x.pkt.opc = opcRd → x.pkt.md = 0 → crosses x.pkt = false → memWindow (faOff x.pkt.loc.toNat) = true → x.pkt.pgm = 0 →
      s.hub.memThere (faOff x.pkt.loc.toNat) x.pkt.rlen = true → ∃ t : State, exec (.rdRead src dst) s = .next t ∧
        t.hub.mem.cells = s.hub.mem.cells ∧
        s.hub.sends t.hub (if (s.hub.marksIn (faOff x.pkt.loc.toNat) x.pkt.rlen).any (fun m => !codeMends m.2)
          then x.pkt.nakOf nakMem dst else x.pkt.dataOf (s.hub.bytes (faOff x.pkt.loc.toNat) x.pkt.rlen))) ∧
    (x.pkt.opc = opcRd → x.pkt.md = 0 → crosses x.pkt = false → windowOf (faOff x.pkt.loc.toNat) = .peg →
      s.hub.pegCheck x.pkt true x.pkt.rlen = none → ∃ t : State, exec (.rdRead src dst) s = .next t ∧ t.hub.pegs = s.hub.pegs ∧ t.hub.mem = s.hub.mem ∧
        s.hub.sends t.hub (x.pkt.dataOf (leBytes 8 (s.hub.pegRead (pegNum (faOff x.pkt.loc.toNat)) (pegWordOff (faOff x.pkt.loc.toNat))).toNat))) ∧
    (x.pkt.opc = opcRd → x.pkt.md = 0 → crosses x.pkt = false → windowOf (faOff x.pkt.loc.toNat) = .none →
      ∃ t : State, exec (.rdRead src dst) s = .next t ∧ t.hub.mem = s.hub.mem ∧ s.hub.sends t.hub (x.pkt.nakOf nakNoTarget dst)) ∧
    (x.pkt.opc = opcRd → x.pkt.md = 1 → x.pkt.pgm = 0 → s.hub.flushLost src dst = false →
      ∃ t : State, exec (.rdFlush src dst) s = .next t ∧ t.hub.mem = s.hub.mem ∧ tget 0 t.hub.sill.firstNak (dst.toNat * 1024 + src.toNat) = 0 ∧
        s.hub.sends t.hub (if tget 0 s.hub.sill.firstNak (dst.toNat * 1024 + src.toNat) = 0 then x.pkt.ackOf
          else x.pkt.nakOf (tget 0 s.hub.sill.firstNak (dst.toNat * 1024 + src.toNat)) dst))

/-- R75, R83, R84, R303, R332: WR and WRA of memory store the payload and no other byte, then the peg that PGM names advances; WRA answers ACK and WR nothing;
a write of a peg's VALUE sets it, of its ADD word adds to it; a notice fills its empty mortise; a write that Table 2.13 refuses stores
nothing and is NAKed. -/
def Obligations.WritesAtTarget : Prop :=
  ∀ (s : State) (src dst : Node) (x : Held), s.hub.alive = true → s.hub.oldestReq src dst = some x →
    s.hub.frontCheck x.pkt = none → dst = s.hub.self →
    let p := x.pkt
    let o := faOff p.loc.toNat
    (∀ ack : Bool, p.opc = (if ack then opcWra else opcWr) →
      (crosses p = false → memWindow o = true → p.pgm = 0 → s.hub.memThere o p.len = true → (s.hub.memWrite o p.payload).1.isSome = true →
        ∃ t : State, exec (if ack then .wra src dst else .wr src dst) s = .next t ∧ s.hub.storedAt t.hub o p.payload ∧ t.hub.pegs = s.hub.pegs ∧
          t.hub.mts = s.hub.mts ∧ (ack = true → s.hub.sends t.hub p.ackOf) ∧ (ack = false → t.hub.swc = s.hub.swc)) ∧
      (crosses p = false → memWindow o = true → (p.pgm = 1 ∨ p.pgm = 2) → s.hub.memThere o p.len = true →
        s.hub.ownsPeg p p.peg.toNat = true → (s.hub.memWrite o p.payload).1.isSome = true → bitAt (s.hub.peg p.peg.toNat).trigCtl 2 = false →
        ∃ t : State, exec (if ack then .wra src dst else .wr src dst) s = .next t ∧ s.hub.storedAt t.hub o p.payload ∧ t.hub.mts = s.hub.mts ∧
          (t.hub.peg p.peg.toNat).value = (s.hub.peg p.peg.toNat).value + (if p.pgm = 1 then BitVec.ofNat 64 p.len else 1)) ∧
      (crosses p = false → windowOf o = .peg → s.hub.pegCheck p true p.len = none →
        bitAt (s.hub.peg (pegNum o)).trigCtl 2 = false →
        ∃ t : State, exec (if ack then .wra src dst else .wr src dst) s = .next t ∧ t.hub.mem = s.hub.mem ∧ t.hub.mts = s.hub.mts ∧
          (pegWordOff o = 0 → (t.hub.peg (pegNum o)).value = leWord p.payload) ∧
          (pegWordOff o = 8 → (t.hub.peg (pegNum o)).value = (s.hub.peg (pegNum o)).value + leWord p.payload) ∧
          (pegWordOff o = 0x10 → (t.hub.peg (pegNum o)).thresh = leWord p.payload ∧ (t.hub.peg (pegNum o)).value = (s.hub.peg (pegNum o)).value)) ∧
      (crosses p = false → windowOf o = .mortise → p.pgm = 0 → o % 256 = 0 → p.len = 16 →
        s.hub.noticeCheck p ((o - 0x10200000000) / 256) = none →
        ∃ t : State, exec (if ack then .wra src dst else .wr src dst) s = .next t ∧ (t.hub.mortise ((o - 0x10200000000) / 256)).full = true ∧
          (t.hub.mortise ((o - 0x10200000000) / 256)).notice = p.payload ∧ t.hub.mem = s.hub.mem) ∧
      (∀ code, (s.hub.store p).1 = some code →
        ∃ t : State, exec (if ack then .wra src dst else .wr src dst) s = .next t ∧ s.hub.sends t.hub (p.nakOf code dst) ∧
          t.hub.mem.cells = s.hub.mem.cells ∧ t.hub.pegs = s.hub.pegs ∧ t.hub.mts = s.hub.mts)) ∧
    (crosses p = true → p.opc = opcWr ∨ p.opc = opcWra → (s.hub.store p).1 = some nakMalformed) ∧
    (crosses p = false → windowOf o = .none → (s.hub.store p).1 = some nakNoTarget) ∧
    (crosses p = false → memWindow o = true → p.pgm = 3 → (s.hub.store p).1 = some nakUnsupported)

/-- R46, R76, R83: each atomic on memory reads the old value, stores its result in the operand's width and no other byte, and answers with
the old value if FETCH asks, else with ACK; on a peg's VALUE it does the same; a misaligned one is NAKed with ALIGN and changes nothing. -/
def Obligations.AtomicsAtTarget : Prop :=
  ∀ (s : State) (src dst : Node) (x : Held) (k : Fin 8), s.hub.alive = true → s.hub.oldestReq src dst = some x →
    s.hub.frontCheck x.pkt = none → dst = s.hub.self → x.pkt.opc = opcAt → x.pkt.md.toNat = k.val →
    crosses x.pkt = false →
    let p := x.pkt
    let o := faOff p.loc.toNat
    let c : Instr := [Instr.atAdd src dst, .atAnd src dst, .atOr src dst, .atXor src dst, .atSwap src dst, .atCas src dst, .atMax src dst,
      .atMin src dst].getD k.val (.atAdd src dst)
    (memWindow o = true → p.pgm = 0 → o % p.atWidth = 0 → s.hub.memThere o p.atWidth = true →
      (s.hub.marksIn o p.atWidth).any (fun m => !codeMends m.2) = false →
      ∃ t : State, exec c s = .next t ∧
        s.hub.storedAt t.hub o (leBytes p.atWidth (atResult k.val p.atWidth (leNat (s.hub.bytes o p.atWidth)) p.atOperand p.atSwap)) ∧
        t.hub.pegs = s.hub.pegs ∧ s.hub.sends t.hub (if p.fetch then p.dataOf (s.hub.bytes o p.atWidth) else p.ackOf)) ∧
    (windowOf o = .peg → s.hub.pegCheck p (decide (p.atWidth = 8) && decide (pegWordOff o < 8)) p.atWidth = none →
      bitAt (s.hub.peg (pegNum o)).trigCtl 2 = false → ∃ t : State, exec c s = .next t ∧ t.hub.mem = s.hub.mem ∧
        (t.hub.peg (pegNum o)).value = BitVec.ofNat 64 (atResult k.val 8 (s.hub.peg (pegNum o)).value.toNat p.atOperand p.atSwap) ∧
        ∃ y ∈ t.hub.swc.rx, y.pkt.tag = p.tag ∧ y.pkt.dst = p.src ∧ y.pkt.opc = opcRsp) ∧
    (memWindow o = true → p.pgm = 0 → o % p.atWidth ≠ 0 → ∃ t : State, exec c s = .next t ∧ t.hub.mem = s.hub.mem ∧ t.hub.pegs = s.hub.pegs ∧
      s.hub.sends t.hub (p.nakOf nakAlign dst))

/-- R48: the first packet of a message binds the oldest posted buffer of its queue; the payload is placed at the offset it names and nowhere else; the
message is delivered once all its bytes have arrived; NO_BUFFER and TOO_LONG store nothing. -/
def Obligations.SendsAtTarget : Prop :=
  ∀ (s : State) (src dst : Node) (x : Held), s.hub.alive = true → s.hub.oldestReq src dst = some x →
    s.hub.frontCheck x.pkt = none → dst = s.hub.self → x.pkt.opc = opcSend → x.pkt.pgm = 0 →
    let p := x.pkt
    let rq := p.aux40.toNat % 256
    let msn := (p.aux40.toNat >>> 24) % 65536
    let mlen := bitsGet p.aux64 32 32
    let moff := bitsGet p.aux64 0 32
    let isIt := fun m : Inbound => decide (m.src = p.src) && decide (m.msn = msn) && decide (m.rq = rq)
    (s.hub.sill.inbound.find? isIt = none → tget [] s.hub.sill.posted rq = [] →
      ∃ t : State, exec (.send src dst) s = .next t ∧ t.hub.mem = s.hub.mem ∧ t.hub.sill.posted = s.hub.sill.posted ∧
        s.hub.sends t.hub (p.nakOf nakNoBuffer dst)) ∧
    (∀ a n rest, s.hub.sill.inbound.find? isIt = none → tget [] s.hub.sill.posted rq = (a, n) :: rest → mlen ≤ n →
      ∃ t : State, exec (.send src dst) s = .next t ∧ s.hub.storedAt t.hub (a + moff) p.payload ∧ tget [] t.hub.sill.posted rq = rest ∧
        s.hub.sends t.hub p.ackOf ∧ (mlen ≤ p.len → t.hub.sill.delivered = s.hub.sill.delivered ++ [(rq, p.src, msn, a, mlen)])) ∧
    (∀ a n rest, s.hub.sill.inbound.find? isIt = none → tget [] s.hub.sill.posted rq = (a, n) :: rest → n < mlen →
      ∃ t : State, exec (.send src dst) s = .next t ∧ t.hub.mem = s.hub.mem ∧ s.hub.sends t.hub (p.nakOf nakTooLong dst)) ∧
    (∀ m, s.hub.sill.inbound.find? isIt = some m → mlen ≤ m.room →
      ∃ t : State, exec (.send src dst) s = .next t ∧ s.hub.storedAt t.hub (m.addr + moff) p.payload ∧ t.hub.sill.posted = s.hub.sill.posted ∧
        s.hub.sends t.hub p.ackOf)

/-- R313, R319, Table 12.1: a read or write at a function's node becomes a PCIe transaction, a read once its port has fewer than 768 out; its completion answers the request, a failed one
NAKs it, and one that never comes answers nothing. -/
def Obligations.HostRequestsAct : Prop :=
  (∀ (s : State) (src dst : Node) (x : Held) (f : Nat), s.hub.alive = true → s.hub.oldestReq src dst = some x → s.hub.frontCheck x.pkt = none →
    dst ≠ s.hub.self → s.hub.funcOf dst = some f → x.pkt.pgm = 0 → crosses x.pkt = false → s.hub.funcAvail f = true →
    (s.hub.hostFull x.pkt = true → x.pkt.opc = opcRd → x.pkt.md = 0 → exec (.rdRead src dst) s = .next s) ∧
    (x.pkt.opc = opcRd → x.pkt.md = 0 → s.hub.hostFull x.pkt = false → ∃ t : State, exec (.rdRead src dst) s = .next t ∧
      t.hub.host.sentMsgs = s.hub.host.sentMsgs ++ [.read s.hub.sill.nextPcie f (faOff x.pkt.loc.toNat) x.pkt.rlen] ∧
      t.hub.sill.pcie = s.hub.sill.pcie ++ [(s.hub.sill.nextPcie, { pkt := x.pkt, ing := x.blame.getD x.ing })] ∧ t.hub.mem = s.hub.mem ∧ t.hub.swc = s.hub.swc) ∧
    (x.pkt.opc = opcWr → ∃ t : State, exec (.wr src dst) s = .next t ∧
      t.hub.host.sentMsgs = s.hub.host.sentMsgs ++ [.write s.hub.sill.nextPcie f (faOff x.pkt.loc.toNat) x.pkt.payload] ∧
      t.hub.mem = s.hub.mem ∧ t.hub.swc = s.hub.swc)) ∧
  (∀ (s : State) (src dst : Node) (x : Held) (f : Nat), s.hub.alive = true → s.hub.oldestReq src dst = some x → s.hub.frontCheck x.pkt = none →
    dst ≠ s.hub.self → s.hub.funcOf dst = some f → s.hub.funcAvail f = false → s.hub.hostFull x.pkt = false → x.pkt.opc = opcWra →
    ∃ t : State, exec (.wra src dst) s = .next t ∧ s.hub.sends t.hub (x.pkt.nakOf nakNoTarget dst) ∧ t.hub.host = s.hub.host ∧ t.hub.mem = s.hub.mem) ∧
  (∀ (s : State) (id : Nat) (y : Held) (data : List Byte), s.hub.sill.pcie.find? (fun x => decide (x.1 = id)) = some (id, y) →
    y.pkt.opc = opcRd → y.pkt.md = 0 →
    (∃ t : State, exec (.hostPcieCompletion id (.ok data)) s = .next t ∧ s.hub.sends t.hub (y.pkt.dataOf (fit y.pkt.rlen data)) ∧
      (∀ z ∈ t.hub.sill.pcie, z.1 ≠ id) ∧ t.hub.mem = s.hub.mem) ∧
    (∃ t : State, exec (.hostPcieCompletion id .abort) s = .next t ∧ s.hub.sends t.hub (y.pkt.nakOf nakNoTarget y.pkt.dst) ∧ t.hub.mem = s.hub.mem) ∧
    (∃ t : State, exec (.hostPcieCompletion id .poisoned) s = .next t ∧ s.hub.sends t.hub (y.pkt.nakOf nakMem y.pkt.dst) ∧ t.hub.mem = s.hub.mem)) ∧
  (∀ (s : State) (id : Nat), ∃ t : State, exec (.hostCompletionTimeout id) s = .next t ∧ (∀ z, z ∈ t.hub.sill.pcie ↔ z ∈ s.hub.sill.pcie ∧ z.1 ≠ id) ∧
    t.hub.swc = s.hub.swc ∧ t.hub.mem = s.hub.mem ∧ t.hub.regs = s.hub.regs)

/-! ### The sill as source (chapters 2 and 3) -/

/-- R52, R53, R62, R65, R129: the oldest response ends the request that its node and tag name; a good one gives it its data, a bad one CHECK_FAIL or MALFORMED naming the
responder, a NAK its STAT and NKN; one that matches nothing is counted; a posted NAK is recorded for its agent; a combined AT's answer goes to each member. -/
def Obligations.ResponsesEndRequests : Prop :=
  ∀ (s : State) (x : Held) (rest : List Held), s.hub.alive = true → s.hub.sill.rsps = x :: rest → s.hub.sill.backlog = [] →
    let g : Hub := { s.hub with sill := { s.hub.sill with rsps := rest } }
    (∀ o, s.hub.matching x.pkt = some o → o.ofGroup = false →
      (∀ c, (c = Instr.rspData ∧ x.pkt.md = 0) ∨ (c = Instr.rspAck ∧ x.pkt.md ≠ 0) → x.pkt.opc = opcRsp →
        exec c s = .next (s.withHub
          (if answers o.pkt x.pkt = false then ((g.dropOut o).count rSilDiscard).reqFailed o nakMalformed x.pkt.src.toNat
           else if x.pkt.chkOk = false then (g.dropOut o).chkFailed.reqFailed o nakCheck x.pkt.src.toNat
           else (g.dropOut o).reqGood o x.pkt.payload).issueWaiting)) ∧
      (x.pkt.opc = opcNak → x.pkt.tag.toNat < 0xF00 → x.pkt.tag ≠ 0 → (∀ j, o.cont ≠ .detour j) → exec .nak s =
        .next (s.withHub ((((g.dropOut o).intFail o).reqFailed o x.pkt.stat.toNat (x.pkt.aux40.toNat % 1024))).issueWaiting)) ∧
      (∀ z, z ∈ (g.dropOut o).sill.out → ¬ (z.node = o.node ∧ z.tag = o.tag))) ∧
    (s.hub.matching x.pkt = none → x.pkt.opc = opcRsp → x.pkt.md = 0 → ∃ t : State, ∃ k, exec .rspData s = .next t ∧ (k = rSilLate ∨ k = rSilDiscard) ∧
      (t.hub.reg k).toNat = min ((s.hub.reg k).toNat + 1) (2 ^ 64 - 1) ∧ t.hub.sill.out = s.hub.sill.out ∧ t.hub.sill.rsps = rest ∧
      t.hub.mem = s.hub.mem ∧ t.hub.bays = s.hub.bays) ∧
    (x.pkt.opc = opcNak → 0xF00 ≤ x.pkt.tag.toNat → s.hub.matching x.pkt = none → ∃ t : State, exec .nak s = .next t ∧ t.hub.sill.out = s.hub.sill.out ∧
      t.hub.mem = s.hub.mem ∧ ∀ a ∈ s.hub.postedAgents x.pkt.dst (x.pkt.tag.toNat % 256), s.hub.lateRepeat a x.pkt = false →
        ∃ r ∈ t.hub.sill.recorded, r.agent = a ∧ r.dst = x.pkt.src) ∧
    (∀ o m, s.hub.matching x.pkt = some o → o.cont = .combined m →
      (x.pkt.opc = opcRsp → answers o.pkt x.pkt = true → x.pkt.chkOk = true →
        ∃ t : State, exec .combinedAtResponse s = .next t ∧ t.hub.swc.rx.length = s.hub.swc.rx.length + m.length ∧ t.hub.mem = s.hub.mem) ∧
      (x.pkt.opc = opcNak → ∃ t : State, exec .combinedAtResponse s = .next t ∧ t.hub.swc.rx.length = s.hub.swc.rx.length + m.length ∧
        t.hub.mem = s.hub.mem))

/-- R54, R55, R129: a request whose timeout expires ends with REQ_TIMEOUT naming its destination, and its tag stays unused for four packet lifetimes; a combined AT that times
out answers no member; a tag whose time has passed is free again. -/
def Obligations.TimeoutsHoldTheirTags : Prop :=
  (∀ (s : State) (n : Node) (tag : BitVec 12) (o : Outstanding), s.hub.alive = true → s.hub.expired n tag.toNat = some o →
    (o.ofGroup = false → exec (.reqTimeoutExpiry n tag) s =
      .next (s.withHub ((((s.hub.dropOut o).quarantine o).intFail o).reqFailed o stReqTimeout o.pkt.dst.toNat))) ∧
    (o.ofGroup = true → n = s.hub.self →
      exec (.combinedAtTimeout tag) s = .next (s.withHub ((s.hub.dropOut o).quarantine o))) ∧
    ((s.hub.dropOut o).quarantine o).tagFree o.node o.tag = false ∧
    (∃ q ∈ ((s.hub.dropOut o).quarantine o).sill.quar, q.tag = o.tag ∧ q.dst = o.pkt.dst ∧ q.until_ = s.hub.now + 4 * s.hub.lifetime)) ∧
  (∀ (s : State) (n : Node) (tag : BitVec 12), s.hub.sill.backlog = [] → ∃ t : State, exec (.tagQuarantineExpiry n tag) s = .next t ∧
    (∀ q, q ∈ t.hub.sill.quar ↔ q ∈ s.hub.sill.quar ∧ ¬ (q.node = n ∧ q.tag = tag.toNat ∧ q.until_ ≤ s.hub.now)) ∧
    t.hub.sill.out = s.hub.sill.out ∧ t.hub.swc = s.hub.swc ∧ t.hub.regs = s.hub.regs)

/-- R87, R95, R101: a fence completes when every request that it covers is answered, with the first failure recorded, and an expired one with
FENCE_LOST, and then the answers of what it covered are late; the agent's failures that it reports are forgotten. A wait on a peg that expires ends with PEG_TIMEOUT. -/
def Obligations.FencesAndWaitsEnd : Prop :=
  (∀ (s : State) (f : Fence), s.hub.alive = true → (s.hub.sill.fences.find? fun y => decide (y.agent = f.agent)) = some f →
    (s.hub.fenceReady f = true → exec (.fenceComplete f.agent) s =
      .next (s.withHub (s.hub.fenceDone f (s.hub.fenceStatus f).1 (s.hub.fenceStatus f).2))) ∧
    (s.hub.fenceReady f = false → exec (.fenceComplete f.agent) s = .next s)) ∧
  (∀ (s : State) (f : Fence), s.hub.alive = true →
    (s.hub.sill.fences.find? fun y => decide (y.agent = f.agent) && decide (y.deadline ≤ s.hub.now)) = some f →
    exec (.fenceTimeout f.agent) s = .next (s.withHub ((s.hub.giveUp f).fenceDone f stFenceLost
      (match s.hub.sill.out.find? fun o => f.covers o.agent o.pkt.dst with | some o => o.pkt.dst.toNat | none => 0)))) ∧
  (∀ (h : Hub) (b t : Nat) (f : Fence) (st nd rd : Nat) (q : Bool), f.agent = .thread b t → f.next = .thread →
    (h.thread b t).wait = .fence (.instr rd q) → (h.thread b t).stop = false → (st = 0 ∨ q = true) → rd ≠ 0 →
    ((h.fenceDone f st nd).thread b t).g rd = rstatOf st nd ∧ ((h.fenceDone f st nd).thread b t).pc = (h.thread b t).pc + 1 ∧
    (∀ r ∈ (h.fenceDone f st nd).sill.recorded, r.agent ≠ .thread b t)) ∧
  (∀ (h : Hub) (f : Fence), (∀ o ∈ (h.giveUp f).sill.out, o.cont.forFence = true → f.covers o.agent o.pkt.dst = false) ∧
    (∀ o ∈ h.sill.out, f.covers o.agent o.pkt.dst = true → o.cont.forFence = true →
      ∃ q ∈ (h.giveUp f).sill.quar, q.node = o.node ∧ q.tag = o.tag ∧ q.dst = o.pkt.dst ∧ q.until_ = h.now + 4 * h.lifetime)) ∧
  (∀ (s : State) (b : Fin 64) (t : Fin 16) (w : PegWait) (rd x : Nat), s.hub.alive = true → w.agent = .thread b.val t.val → w.deadline = some x →
    x ≤ s.hub.now → w ∈ s.hub.pegs.waits → (s.hub.thread b.val t.val).wait = .peg rd → (s.hub.thread b.val t.val).stop = false → rd ≠ 0 →
    ∃ u : State, exec (.pegWaitTimeout (.thread b.val t.val)) s = .next u ∧ (u.hub.thread b.val t.val).g rd = 0x41 ∧
      (u.hub.thread b.val t.val).pc = (s.hub.thread b.val t.val).pc + 1 ∧ (u.hub.thread b.val t.val).wait = .ready ∧
      (∀ y ∈ u.hub.pegs.waits, y.agent ≠ .thread b.val t.val) ∧ u.hub.pegs.words = s.hub.pegs.words ∧ u.hub.mem = s.hub.mem)

/-! ### Threads (chapter 9) -/

/-- R244: g0 reads as zero and p0 as one, whatever is written; a write of another register or predicate is what the next read finds, and leaves the
others. -/
def Obligations.HardwiredRegisters : Prop :=
  ∀ (x : Thread) (i j : Nat) (v : Word) (q : Bool), i < 32 → j < 32 →
    (x.setG 0 v = x ∧ x.g 0 = 0 ∧ x.setP 0 q = x ∧ x.p 0 = true) ∧
    (i ≠ 0 → (x.setG i v).g i = v) ∧ (i ≠ j → (x.setG i v).g j = x.g j) ∧
    (i ≠ 0 → i < 8 → (x.setP i q).p i = q) ∧ (i ≠ j → i < 8 → j < 8 → (x.setP i q).p j = x.p j)

/-- R247, R248, R250, R273, R274: a word whose encoding is reserved raises ILLEGAL with the word in INFO; a legal word whose guard does not hold only moves the PC, and
changes nothing else, each under the command of its own row; a PC beyond the loft raises FETCH, stated for the command of ALU's row. -/
def Obligations.GuardsAndIllegalWords : Prop :=
  (∀ (s : State) (b : Fin 64) (t : Fin 16) (w : Nat), s.hub.fetches b.val t.val w → augerLegal w = true →
    augerEnabled (s.hub.thread b.val t.val) w = false →
    ∀ c r, (c, r) ∈ [(Instr.alu b t, AugerRow.alu), (.addi b t, .addi), (.shi b t, .shi), (.cmp b t, .cmp), (.plog b t, .plog), (.lb b t, .lb),
      (.ld b t, .ld), (.sb b t, .sb), (.sd b t, .sd), (.br b t, .br), (.call b t, .call), (.jmpr b t, .jmpr), (.rld b t, .rld), (.rst b t, .rst),
      (.rat b t, .rat), (.fenceAll b t, .fenceAll), (.padv b t, .padv), (.mput b t, .mput), (.ecmd b t, .ecmd), (.halt b t, .halt),
      (.trap b t, .trap), (.mts b t, .mts)] → augerRow w = r →
      s.endsWith c b.val t.val { s.hub.thread b.val t.val with pc := (s.hub.thread b.val t.val).pc + 1 }) ∧
  (∀ (s : State) (b : Fin 64) (t : Fin 16) (w : Nat), s.hub.fetches b.val t.val w → augerLegal w = false →
    ∀ c r, (c, r) ∈ [(Instr.alu b t, AugerRow.alu), (.shi b t, .shi), (.cmp b t, .cmp), (.plog b t, .plog), (.jmpr b t, .jmpr), (.rld b t, .rld),
      (.rst b t, .rst), (.rat b t, .rat), (.pwait b t, .pwait), (.prd b t, .prd), (.mget b t, .mget), (.mfs b t, .mfs),
      (.reservedOpcode b t, .reserved)] → augerRow w = r → s.raises c b.val t.val exIllegal (BitVec.ofNat 64 w)) ∧
  (∀ (s : State) (b : Fin 64) (t : Fin 16), s.hub.mayIssue b.val t.val = true → 2 ^ 20 ≤ (s.hub.thread b.val t.val).pc →
    (s.hub.thread b.val t.val).stop = false → s.raises (.alu b t) b.val t.val exFetch (BitVec.ofNat 64 (4 * (s.hub.thread b.val t.val).pc)))

/-- R251, R252: what each integer instruction leaves in its destination: the named functions of ALU on the two operands, the sign-extended immediates, the
constant shifts, and the 16-bit halves of MOVZ and MOVK; nothing else changes but the PC. -/
def Obligations.IntegerInstructions : Prop :=
  ∀ (s : State) (b : Fin 64) (t : Fin 16) (w : Nat), s.hub.fetches b.val t.val w → augerLegal w = true →
    augerEnabled (s.hub.thread b.val t.val) w = true →
    let x := s.hub.thread b.val t.val
    let next : Thread → Thread := fun y => { y with pc := x.pc + 1 }
    let imm : Word := (BitVec.ofNat 12 w).signExtend 64
    (augerRow w = .alu → ∃ v, s.endsWith (.alu b t) b.val t.val (next (x.setG (iRd w) v)) ∧
      (iFn w = 0x00 → v = x.g (iRa w) + x.g (iRb w)) ∧ (iFn w = 0x01 → v = x.g (iRa w) - x.g (iRb w)) ∧
      (iFn w = 0x02 → v = x.g (iRa w) &&& x.g (iRb w)) ∧ (iFn w = 0x05 → v = x.g (iRa w) &&& ~~~ (x.g (iRb w))) ∧
      (iFn w = 0x0A → v = (x.g (iRa w)).sshiftRight ((x.g (iRb w)).toNat % 64)) ∧ (iFn w = 0x10 → v = x.g (iRa w) * x.g (iRb w)) ∧
      (iFn w = 0x14 → v = if x.g (iRb w) = 0 then BitVec.allOnes 64 else (x.g (iRa w)).sdiv (x.g (iRb w))) ∧
      (iFn w = 0x15 → v = if x.g (iRb w) = 0 then BitVec.allOnes 64 else x.g (iRa w) / x.g (iRb w)) ∧
      (iFn w = 0x16 → v = if x.g (iRb w) = 0 then x.g (iRa w) else (x.g (iRa w)).srem (x.g (iRb w))) ∧
      (iFn w = 0x22 → v = ((x.g (iRa w)).setWidth 32).signExtend 64) ∧ (iFn w = 0x26 → v = ((x.g (iRa w)).setWidth 32).setWidth 64)) ∧
    (augerRow w = .addi → s.endsWith (.addi b t) b.val t.val (next (x.setG (iRd w) (x.g (iRa w) + imm)))) ∧
    (augerRow w = .andi → s.endsWith (.andi b t) b.val t.val (next (x.setG (iRd w) (x.g (iRa w) &&& imm)))) ∧
    (augerRow w = .ori → s.endsWith (.ori b t) b.val t.val (next (x.setG (iRd w) (x.g (iRa w) ||| imm)))) ∧
    (augerRow w = .xori → s.endsWith (.xori b t) b.val t.val (next (x.setG (iRd w) (x.g (iRa w) ^^^ imm)))) ∧
    (augerRow w = .shi → s.endsWith (.shi b t) b.val t.val (next (x.setG (iRd w)
      (if w / 64 % 4 = 0 then x.g (iRa w) <<< (w % 64) else if w / 64 % 4 = 1 then x.g (iRa w) >>> (w % 64)
       else (x.g (iRa w)).sshiftRight (w % 64))))) ∧
    (augerRow w = .movz → s.endsWith (.movz b t) b.val t.val (next (x.setG (iRdW w) (BitVec.ofNat 64 (w % 65536) <<< (16 * iHw w))))) ∧
    (augerRow w = .movk → ∃ v, s.endsWith (.movk b t) b.val t.val (next (x.setG (iRdW w) v)) ∧ bitsGet v (16 * iHw w) 16 = w % 65536 ∧
      ∀ k, k < 4 → k ≠ iHw w → bitsGet v (16 * k) 16 = bitsGet (x.g (iRdW w)) (16 * k) 16)

/-- R253: CMP and CMPI write p[PD] by Table 9.8 and CC, PLOG by OP; reserved conditions and operations raise ILLEGAL. -/
def Obligations.ComparesWritePredicates : Prop :=
  ∀ (s : State) (b : Fin 64) (t : Fin 16) (w : Nat), s.hub.fetches b.val t.val w →
    let x := s.hub.thread b.val t.val
    let a := x.g (iRa w)
    let g := x.g (iRb w)
    let imm : Word := (BitVec.ofNat 12 w).signExtend 64
    let ends := fun (c : Instr) (i : Nat) (v : Bool) => s.endsWith c b.val t.val { x.setP i v with pc := x.pc + 1 }
    (augerRow w = .cmp → augerLegal w = true → augerEnabled x w = true →
      (w % 8 = 0 → ends (.cmp b t) (iPd w) (decide (a = g))) ∧ (w % 8 = 1 → ends (.cmp b t) (iPd w) (decide (a ≠ g))) ∧
      (w % 8 = 2 → ends (.cmp b t) (iPd w) (decide (a.toInt < g.toInt))) ∧ (w % 8 = 3 → ends (.cmp b t) (iPd w) (decide (g.toInt ≤ a.toInt))) ∧
      (w % 8 = 4 → ends (.cmp b t) (iPd w) (decide (a.toNat < g.toNat))) ∧ (w % 8 = 5 → ends (.cmp b t) (iPd w) (decide (g.toNat ≤ a.toNat)))) ∧
    (augerRow w = .cmpi → augerEnabled x w = true →
      (w / 2 ^ 17 % 4 = 0 → ends (.cmpi b t) (iPd w) (decide (a = imm))) ∧ (w / 2 ^ 17 % 4 = 1 → ends (.cmpi b t) (iPd w) (decide (a ≠ imm))) ∧
      (w / 2 ^ 17 % 4 = 2 → ends (.cmpi b t) (iPd w) (decide (a.toInt < imm.toInt))) ∧
      (w / 2 ^ 17 % 4 = 3 → ends (.cmpi b t) (iPd w) (decide (a.toNat < imm.toNat)))) ∧
    (augerRow w = .plog → augerLegal w = true → augerEnabled x w = true →
      let p := x.p (w / 2 ^ 16 % 8)
      let q := x.p (w / 2 ^ 13 % 8)
      (w / 2 ^ 10 % 8 = 0 → ends (.plog b t) (iPd w) (p && q)) ∧ (w / 2 ^ 10 % 8 = 1 → ends (.plog b t) (iPd w) (p || q)) ∧
      (w / 2 ^ 10 % 8 = 2 → ends (.plog b t) (iPd w) (xor p q)) ∧ (w / 2 ^ 10 % 8 = 3 → ends (.plog b t) (iPd w) (p && !q)) ∧
      (w / 2 ^ 10 % 8 = 4 → ends (.plog b t) (iPd w) (p || !q))) ∧
    (augerRow w = .cmp → 6 ≤ w % 8 → s.raises (.cmp b t) b.val t.val exIllegal (BitVec.ofNat 64 w)) ∧
    (augerRow w = .cmp → w / 2 ^ 17 % 4 ≠ 0 → s.raises (.cmp b t) b.val t.val exIllegal (BitVec.ofNat 64 w)) ∧
    (augerRow w = .plog → 5 ≤ w / 2 ^ 10 % 8 → s.raises (.plog b t) b.val t.val exIllegal (BitVec.ofNat 64 w))

/-- R254, R303: a loft load extends the bytes it reads, and a loft store writes the low bytes of its register at g[RA] + sext(IMM) and no other byte;
an address beyond the loft raises BADADDR and a misaligned one MISALIGN, and then nothing is stored. -/
def Obligations.LoftLoadsAndStores : Prop :=
  ∀ (s : State) (b : Fin 64) (t : Fin 16) (w : Nat), s.hub.fetches b.val t.val w → augerEnabled (s.hub.thread b.val t.val) w = true →
    let x := s.hub.thread b.val t.val
    let a : Word := x.g (iRa w) + (BitVec.ofNat 12 w).signExtend 64
    let o := loftOff b.val a.toNat
    (∀ c r n sx, (c, r, n, sx) ∈ [(Instr.lb b t, AugerRow.lb, 1, true), (.lbu b t, .lbu, 1, false), (.lh b t, .lh, 2, true), (.lhu b t, .lhu, 2, false),
        (.lw b t, .lw, 4, true), (.lwu b t, .lwu, 4, false), (.ld b t, .ld, 8, false)] → augerRow w = r →
      (a.toNat + n ≤ 0x400000 → a.toNat % n = 0 → (s.hub.marksIn o n).any (fun m => !codeMends m.2) = false →
        s.endsWith c b.val t.val { x.setG (iRd w) (BitVec.ofInt 64 (if sx && decide (2 ^ (8 * n - 1) ≤ leNat (s.hub.bytes o n))
          then (leNat (s.hub.bytes o n) : Int) - 2 ^ (8 * n) else leNat (s.hub.bytes o n))) with pc := x.pc + 1 }) ∧
      (a.toNat + n ≤ 0x400000 → a.toNat % n = 0 → (s.hub.marksIn o n).any (fun m => !codeMends m.2) = true →
        s.raises c b.val t.val exMemUncorr a) ∧
      (0x400000 < a.toNat + n → s.raises c b.val t.val exBadaddr a) ∧
      (a.toNat + n ≤ 0x400000 → a.toNat % n ≠ 0 → s.raises c b.val t.val exMisalign a)) ∧
    (∀ c r n, (c, r, n) ∈ [(Instr.sb b t, AugerRow.sb, 1), (.sh b t, .sh, 2), (.sw b t, .sw, 4), (.sd b t, .sd, 8)] → augerRow w = r →
      (a.toNat + n ≤ 0x400000 → a.toNat % n = 0 → (s.hub.memWrite o (leBytes n (x.g (iRd w)).toNat)).1.isSome = true →
        ∃ u : State, exec c s = .next u ∧ s.hub.storedAt u.hub o (leBytes n (x.g (iRd w)).toNat) ∧ (u.hub.thread b.val t.val).pc = x.pc + 1 ∧
        (u.hub.thread b.val t.val).regs = x.regs ∧ (u.hub.thread b.val t.val).preds = x.preds ∧ u.hub.pegs = s.hub.pegs ∧
        u.hub.swc = s.hub.swc ∧ u.hub.sill = s.hub.sill ∧ u.hub.mts = s.hub.mts) ∧
      (0x400000 < a.toNat + n → s.raises c b.val t.val exBadaddr a) ∧
      (a.toNat + n ≤ 0x400000 → a.toNat % n ≠ 0 → s.raises c b.val t.val exMisalign a))

/-- R255: BR, CALL and JMPR, their links, and the FETCH exception of a JMPR whose target is no word of the loft. -/
def Obligations.BranchesMoveThePc : Prop :=
  ∀ (s : State) (b : Fin 64) (t : Fin 16) (w : Nat), s.hub.fetches b.val t.val w →
    let x := s.hub.thread b.val t.val
    let off : Int := (BitVec.ofNat 22 w).toInt
    let a := x.g (iRa w)
    (augerRow w = .br → augerEnabled x w = true → 0 ≤ x.pc + off →
      s.endsWith (.br b t) b.val t.val { x with pc := (x.pc + off).toNat }) ∧
    (augerRow w = .call → augerEnabled x w = true → 0 ≤ x.pc + off →
      s.endsWith (.call b t) b.val t.val { x.setG 31 (BitVec.ofNat 64 (4 * (x.pc + 1))) with pc := (x.pc + off).toNat }) ∧
    ((augerRow w = .br ∨ augerRow w = .call) → augerEnabled x w = true → x.pc + off < 0 →
      ∃ u : State, exec (if augerRow w = .br then .br b t else .call b t) s = .next u ∧ 2 ^ 20 ≤ (u.hub.thread b.val t.val).pc) ∧
    (augerRow w = .jmpr → augerLegal w = true → augerEnabled x w = true →
      (a.toNat % 4 = 0 → a.toNat < 2 ^ 22 →
        s.endsWith (.jmpr b t) b.val t.val { x.setG (iRd w) (BitVec.ofNat 64 (4 * (x.pc + 1))) with pc := a.toNat / 4 }) ∧
      (a.toNat % 4 ≠ 0 ∨ 2 ^ 22 ≤ a.toNat → s.raises (.jmpr b t) b.val t.val exFetch a)) ∧
    (augerRow w = .jmpr → (iFn w ≠ 0 ∨ iRb w ≠ 0) → s.raises (.jmpr b t) b.val t.val exIllegal (BitVec.ofNat 64 w)) ∧
    ((augerRow w = .br ∨ augerRow w = .call) → augerEnabled x w = false →
      s.endsWith (if augerRow w = .br then .br b t else .call b t) b.val t.val { x with pc := x.pc + 1 })

/-- R271, R272: the SYS functions: NOP, TRAP, ERET, the special registers that MFS reads and MTS writes, TSTART, and HALT, which waits for its fence;
ERET outside handler mode raises ILLEGAL, and MTS of a read-only register PRIV. -/
def Obligations.SystemInstructions : Prop :=
  ∀ (s : State) (b : Fin 64) (t : Fin 16) (w : Nat), s.hub.fetches b.val t.val w → augerLegal w = true →
    augerEnabled (s.hub.thread b.val t.val) w = true →
    let x := s.hub.thread b.val t.val
    let next : Thread → Thread := fun y => { y with pc := x.pc + 1 }
    (augerRow w = .nop → s.endsWith (.sysNop b t) b.val t.val (next x)) ∧
    (augerRow w = .trap → s.raises (.trap b t) b.val t.val exTrap (x.g (iRa w))) ∧
    (augerRow w = .eret → (x.hmode = true → s.endsWith (.eret b t) b.val t.val { x with hmode := false, pc := x.epc }) ∧
      (x.hmode = false → s.raises (.eret b t) b.val t.val exIllegal (BitVec.ofNat 64 w))) ∧
    (augerRow w = .mfs → s.endsWith (.mfs b t) b.val t.val (next (x.setG (iRd w)
      (([BitVec.ofNat 64 (16 * b.val + t.val),
        if s.hub.threadSys b.val t.val then 16 else BitVec.ofNat 64 ((s.hub.bayPart b.val).getD 0), BitVec.ofNat 64 (x.preds ||| 1), x.rstat,
        BitVec.ofNat 64 (tget 0 s.hub.bays.cycles b.val), BitVec.ofNat 64 s.hub.now, BitVec.ofNat 64 x.epc, BitVec.ofNat 64 x.cause, x.info] : List Word).getD (iRb w) 0)))) ∧
    (augerRow w = .mts → iRb w = 2 → s.endsWith (.mts b t) b.val t.val (next { x with preds := (x.g (iRa w)).toNat % 256 / 2 * 2 })) ∧
    (augerRow w = .mts → iRb w = 3 → s.endsWith (.mts b t) b.val t.val (next { x with rstat := 0 })) ∧
    (augerRow w = .mts → iRb w = 6 → s.endsWith (.mts b t) b.val t.val (next { x with epc := (x.g (iRa w)).toNat % 2 ^ 20 })) ∧
    (augerRow w = .mts → iRb w ∉ [2, 3, 6] → s.raises (.mts b t) b.val t.val exPriv (BitVec.ofNat 64 w)) ∧
    (augerRow w = .tstart → (x.g (iRa w)).toNat < 16 → (x.g (iRb w)).toNat < 2 ^ 20 →
      s.hub.kernelSlot b.val (x.g (iRa w)).toNat = none →
      ((s.hub.thread b.val (x.g (iRa w)).toNat).state = .run →
        s.endsWith (.tstart b t) b.val t.val (next (x.setG (iRd w) 1))) ∧
      ((s.hub.thread b.val (x.g (iRa w)).toNat).state ≠ .run → ∃ u : State, exec (.tstart b t) s = .next u ∧
        (u.hub.thread b.val (x.g (iRa w)).toNat).state = .run ∧ (u.hub.thread b.val (x.g (iRa w)).toNat).pc = (x.g (iRb w)).toNat ∧
        (u.hub.thread b.val (x.g (iRa w)).toNat).regs = [] ∧ (u.hub.thread b.val (x.g (iRa w)).toNat).hmode = false ∧
        (iRd w ≠ 0 → (u.hub.thread b.val t.val).g (iRd w) = 0) ∧ u.hub.mem.cells = s.hub.mem.cells)) ∧
    (augerRow w = .halt → ∃ u : State, exec (.halt b t) s = .next u ∧ (u.hub.thread b.val t.val).wait = .fence .halt ∧
      (u.hub.thread b.val t.val).state = .run ∧ (u.hub.thread b.val t.val).regs = x.regs ∧ u.hub.mem.cells = s.hub.mem.cells ∧
      ∃ f ∈ u.hub.sill.fences, f.agent = .thread b.val t.val ∧ f.dst = none ∧ f.next = .thread)

/-- R94, R256 to R262: a remote load, store, atomic or MPUT of a SYS thread at another node's fabric address goes out as its tagged request and the thread
waits for it; a posted store sets the dirty bit and goes on; FENCE of a node or of all starts a fence with its timeout and takes its dirty bits, FENCE of the
loft ends at once; CINV takes lines out of the read cache. -/
def Obligations.RemoteInstructions : Prop :=
  ∀ (s : State) (b : Fin 64) (t : Fin 16) (w tag : Nat), s.hub.fetches b.val t.val w → augerLegal w = true →
    augerEnabled (s.hub.thread b.val t.val) w = true → s.hub.threadSys b.val t.val = true → s.hub.atLimit (.thread b.val t.val) = false →
    s.hub.waitsTag (.thread b.val t.val) = false →
    s.hub.drawTag s.hub.self = some tag → s.hub.mem.marks = [] →
    let x := s.hub.thread b.val t.val
    let ag : Agent := .thread b.val t.val
    let a := x.g (iRa w)
    let fa := bitsGet a 0 52
    let sent := fun (u : State) (p : Packet) => ∃ y : Held, u.hub.swc.rx = s.hub.swc.rx ++ [y] ∧ y.pkt.opc = p.opc ∧ y.pkt.md = p.md ∧
      y.pkt.loc = BitVec.ofNat 52 fa ∧ y.pkt.dst = faNode fa ∧ y.pkt.src = s.hub.self ∧ y.pkt.tag = BitVec.ofNat 12 tag ∧ y.pkt.payload = p.payload ∧
      y.pkt.aux40 = p.aux40
    (adSpace a = 2 → bitsGet a 52 10 = 0 → s.hub.inLoft b.val fa = false →
      (augerRow w = .rld → (iFn w).testBit 3 = true → fa % 2 ^ (iFn w % 4) = 0 → ∃ u : State, exec (.rld b t) s = .next u ∧
        sent u { opc := opcRd, md := 0, aux40 := BitVec.ofNat 40 (2 ^ (iFn w % 4)) } ∧
        (u.hub.thread b.val t.val).wait = .load (iRd w) (2 ^ (iFn w % 4)) ((iFn w).testBit 2) true ((iFn w).testBit 4) fa (s.hub.agentTag ag) false ∧
        (u.hub.thread b.val t.val).pc = x.pc ∧ (u.hub.thread b.val t.val).regs = x.regs ∧ u.hub.mem = s.hub.mem) ∧
      (augerRow w = .rst → (iFn w).testBit 3 = false → (iFn w).testBit 5 = false → fa % 2 ^ (iFn w % 4) = 0 →
        ((iFn w).testBit 2 = true → ∃ u : State, exec (.rst b t) s = .next u ∧
          sent u { opc := opcWra, md := 0, payload := leBytes (2 ^ (iFn w % 4)) (x.g (iRb w)).toNat } ∧
          (u.hub.thread b.val t.val).wait = .store ((iFn w).testBit 4) ∧ (u.hub.thread b.val t.val).pc = x.pc ∧ u.hub.mem = s.hub.mem) ∧
        ((iFn w).testBit 2 = false → ∃ u : State, ∃ y : Held, exec (.rst b t) s = .next u ∧ u.hub.swc.rx = s.hub.swc.rx ++ [y] ∧ y.pkt.opc = opcWr ∧
          y.pkt.loc = BitVec.ofNat 52 fa ∧ y.pkt.payload = leBytes (2 ^ (iFn w % 4)) (x.g (iRb w)).toNat ∧ 0xF00 ≤ y.pkt.tag.toNat ∧
          (u.hub.sill.dirty.any fun d => decide (d.agent = ag) && decide (d.dst = faNode fa)) = true ∧
          (u.hub.thread b.val t.val).pc = x.pc + 1 ∧ (u.hub.thread b.val t.val).wait = .ready ∧ u.hub.mem = s.hub.mem)) ∧
      (augerRow w = .rat → fa % (if (iFn w).testBit 3 then 8 else 4) = 0 → ∃ u : State, exec (.rat b t) s = .next u ∧
        sent u { opc := opcAt, md := BitVec.ofNat 4 (iFn w % 8),
                 payload := ratPayload (iFn w % 8) (if (iFn w).testBit 3 then 8 else 4) (x.g (iRd w)) (x.g (iRb w)),
                 aux40 := BitVec.ofNat 40 (bit01 ((iFn w).testBit 3) + 2 * bit01 ((iFn w).testBit 4)) } ∧
        (u.hub.thread b.val t.val).wait = .atomic (iRd w) ((iFn w).testBit 3) ((iFn w).testBit 4) ((iFn w).testBit 5) ∧ u.hub.mem = s.hub.mem) ∧
      (augerRow w = .mput → fa % 16 = 0 → ∃ u : State, exec (.mput b t) s = .next u ∧
        sent u { opc := opcWra, md := 0, payload := leBytes 8 (x.g (iRd w)).toNat ++ leBytes 8 (x.g (iRd w + 1)).toNat } ∧
        (u.hub.thread b.val t.val).wait = .store ((iFn w).testBit 0) ∧ u.hub.mem = s.hub.mem) ∧
      (augerRow w = .cinvLine → ∃ u : State, exec (.cinvLine b t) s = .next u ∧ (u.hub.thread b.val t.val).pc = x.pc + 1 ∧ u.hub.mem = s.hub.mem ∧
        (∀ l, l ∈ u.hub.lines b.val ↔ l ∈ s.hub.lines b.val ∧ ¬ (l.fa = fa / 64 * 64 ∧ l.tag = s.hub.agentTag ag)))) ∧
    (augerRow w = .cinvTag → ∃ u : State, exec (.cinvTag b t) s = .next u ∧ (u.hub.thread b.val t.val).pc = x.pc + 1 ∧ u.hub.mem = s.hub.mem ∧
      (∀ l, l ∈ u.hub.lines b.val ↔ l ∈ s.hub.lines b.val ∧ l.tag ≠ s.hub.agentTag ag)) ∧
    (augerRow w = .fenceLoft → s.endsWith (.fenceLoft b t) b.val t.val { ({ x with rstat := 0 } : Thread).setG (iRd w) 0 with pc := x.pc + 1 }) ∧
    (augerRow w = .fenceNode → ∃ u : State, exec (.fenceNode b t) s = .next u ∧ (u.hub.thread b.val t.val).pc = x.pc ∧
      (u.hub.thread b.val t.val).wait = .fence (.instr (iRd w) ((iFn w).testBit 4)) ∧ u.hub.mem = s.hub.mem ∧
      (∀ d ∈ u.hub.sill.dirty, ¬ (d.agent = ag ∧ d.dst = BitVec.ofNat 10 (bitsGet a 0 10))) ∧
      ∃ f ∈ u.hub.sill.fences, f.agent = ag ∧ f.dst = some (BitVec.ofNat 10 (bitsGet a 0 10)) ∧ f.deadline = s.hub.now + s.hub.fenceTimeout) ∧
    (augerRow w = .fenceAll → ∃ u : State, exec (.fenceAll b t) s = .next u ∧ (u.hub.thread b.val t.val).pc = x.pc ∧
      (u.hub.thread b.val t.val).wait = .fence (.instr (iRd w) ((iFn w).testBit 4)) ∧ u.hub.mem = s.hub.mem ∧
      (∀ d ∈ u.hub.sill.dirty, d.agent ≠ ag) ∧ ∃ f ∈ u.hub.sill.fences, f.agent = ag ∧ f.dst = none ∧ f.deadline = s.hub.now + s.hub.fenceTimeout)

/-- R86, R263 to R269: an agent that does not own a peg or mortise takes DENIED; PRD reads VALUE and acquires nothing; PWAIT completes at once where VALUE has reached its
threshold, else waits; PADV waits for its fence; MGET takes the notice that is there; ECMD places a descriptor where the queue has room. R269: a thread that waits for room tries again; with the queue disabled it ends with QUEUE_OFF.
R270, R276: an ECMD behind another of its bay waits, and one of a queue that an update bay's kernel uses takes PRIV. -/
def Obligations.PegAndEngineInstructions : Prop :=
  (∀ (s : State) (b : Fin 64) (t : Fin 16) (w : Nat), s.hub.fetches b.val t.val w → augerLegal w = true →
    augerEnabled (s.hub.thread b.val t.val) w = true →
    let x := s.hub.thread b.val t.val
    let ag : Agent := .thread b.val t.val
    let n := bitsGet (x.g (iRa w)) 0 12
    (s.hub.agentOwnsPeg ag n = false → ∀ c r, (c, r) ∈ [(Instr.padv b t, AugerRow.padv), (.pwait b t, .pwait), (.prd b t, .prd)] →
      augerRow w = r → s.raises c b.val t.val exDenied (BitVec.ofNat 64 n)) ∧
    (s.hub.agentOwnsPeg ag n = true →
      (augerRow w = .prd → s.endsWith (.prd b t) b.val t.val { x.setG (iRd w) (s.hub.peg n).value with pc := x.pc + 1 }) ∧
      (augerRow w = .pwait → reached (s.hub.peg n).value (x.g (iRb w)) = true → ∃ u : State, exec (.pwait b t) s = .next u ∧
        (u.hub.thread b.val t.val).pc = x.pc + 1 ∧ (iRd w ≠ 0 → (u.hub.thread b.val t.val).g (iRd w) = 0) ∧ u.hub.pegs = s.hub.pegs ∧
        u.hub.mem.cells = s.hub.mem.cells ∧ ∀ l, l ∈ u.hub.lines b.val ↔ l ∈ s.hub.lines b.val ∧ l.tag ≠ s.hub.agentTag ag) ∧
      (augerRow w = .pwait → reached (s.hub.peg n).value (x.g (iRb w)) = false → ∃ u : State, ∃ p : PegWait, exec (.pwait b t) s = .next u ∧
        (u.hub.thread b.val t.val).pc = x.pc ∧ (u.hub.thread b.val t.val).wait = .peg (iRd w) ∧ u.hub.pegs.waits = s.hub.pegs.waits ++ [p] ∧
        p.agent = ag ∧ p.peg = n ∧ p.thresh = x.g (iRb w) ∧ u.hub.mem.cells = s.hub.mem.cells ∧
        (bitsGet (x.g (iRd w)) 0 32 = 0 → p.deadline = none) ∧ (10 ≤ bitsGet (x.g (iRd w)) 0 32 → bitsGet (x.g (iRd w)) 0 32 ≤ 10000000 →
          p.deadline = some (s.hub.now + bitsGet (x.g (iRd w)) 0 32 * 1000))) ∧
      (augerRow w = .padv → ∃ u : State, exec (.padv b t) s = .next u ∧ (u.hub.thread b.val t.val).pc = x.pc ∧
        (u.hub.thread b.val t.val).wait = .fence (.padv n (x.g (iRb w)) ((iFn w).testBit 0)) ∧ u.hub.pegs = s.hub.pegs ∧
        u.hub.mem.cells = s.hub.mem.cells ∧ ∃ f ∈ u.hub.sill.fences, f.agent = ag ∧ f.dst = none)) ∧
    (augerRow w = .mget →
      let k := bitsGet (x.g (iRa w)) 0 8
      (s.hub.threadOwnsMortise b.val t.val k = false → s.raises (.mget b t) b.val t.val exDenied (BitVec.ofNat 64 k)) ∧
      (s.hub.threadOwnsMortise b.val t.val k = true → s.hub.bit (rMtsCfg k) 57 = false → (s.hub.mortise k).full = false →
        s.endsWith (.mget b t) b.val t.val { x.setP (iFn w) false with pc := x.pc + 1 }) ∧
      (s.hub.threadOwnsMortise b.val t.val k = true → s.hub.bit (rMtsCfg k) 57 = false → (s.hub.mortise k).full = true →
        ∃ u : State, exec (.mget b t) s = .next u ∧ (u.hub.mortise k).full = false ∧
          (u.hub.mortise k).takes = ((s.hub.mortise k).takes + 1) % 2 ^ 32 ∧ (u.hub.thread b.val t.val).pc = x.pc + 1 ∧
          (iFn w ≠ 0 → (u.hub.thread b.val t.val).p (iFn w) = true) ∧
          (iRd w ≠ 0 → (u.hub.thread b.val t.val).g (iRd w) = leWord (s.hub.mortise k).notice) ∧
          (u.hub.thread b.val t.val).g (iRd w + 1) = leWord ((s.hub.mortise k).notice.drop 8) ∧ u.hub.mem.cells = s.hub.mem.cells)) ∧
    (∀ (e k : Nat), e < 4 → k < 4 → e ≠ 2 → x.g (iRb w) = BitVec.ofNat 64 (4 * e + k) → (x.g (iRa w)).toNat ≤ 0x3FFF80 →
      (x.g (iRa w)).toNat % 128 = 0 → augerRow w = .ecmd →
      ((s.hub.kernelBay b.val && Config.kernelQueue (4 * e + k)) = true → s.raises (.ecmd b t) b.val t.val exPriv (BitVec.ofNat 64 w)) ∧
      ((s.hub.kernelBay b.val && Config.kernelQueue (4 * e + k)) = false → (∀ d ∈ [s.hub.fld (rQcfgBay b.val e k) 24 12, s.hub.fld (rQcfgBay b.val e k) 36 12],
        s.hub.pegPart d = if s.hub.bit (rQcfgBay b.val e k) 62 then none else s.hub.bayPart b.val) →
      (s.hub.ecmdBusy b.val t.val = true → s.hub.mem.marks = [] → ∃ u : State, exec (.ecmd b t) s = .next u ∧
        (u.hub.thread b.val t.val).wait = .room (iRd w) (iRa w) (iRb w) ((iFn w).testBit 0) ∧ u.hub.mem = s.hub.mem ∧ u.hub.pegs = s.hub.pegs) ∧
      (s.hub.ecmdBusy b.val t.val = false → (s.hub.bit (rQcfgBay b.val e k) 63 = false → (iFn w).testBit 0 = true → s.hub.mem.marks = [] → ∃ u : State, exec (.ecmd b t) s = .next u ∧
        (u.hub.thread b.val t.val).rstat = BitVec.ofNat 64 stQueueOff ∧ (u.hub.thread b.val t.val).pc = x.pc + 1 ∧ u.hub.mem = s.hub.mem) ∧
      (s.hub.bit (rQcfgBay b.val e k) 63 = true → s.hub.mem.marks = [] →
        ((s.hub.peg (s.hub.fld (rQcfgBay b.val e k) 24 12)).value - (s.hub.peg (s.hub.fld (rQcfgBay b.val e k) 36 12)).value).toNat <
          2 ^ s.hub.fld (rQcfgBay b.val e k) 20 4 → ∃ u : State, exec (.ecmd b t) s = .next u ∧
        s.hub.storedAt u.hub (loftOff b.val (s.hub.fld (rQcfgBay b.val e k) 0 15 * 128 +
          (s.hub.peg (s.hub.fld (rQcfgBay b.val e k) 24 12)).value.toNat % 2 ^ s.hub.fld (rQcfgBay b.val e k) 20 4 * 128))
          (s.hub.bytes (loftOff b.val (x.g (iRa w)).toNat) 128) ∧
        (u.hub.thread b.val t.val).wait = .fence (.ecmd (iRd w) (s.hub.fld (rQcfgBay b.val e k) 24 12)
          (s.hub.peg (s.hub.fld (rQcfgBay b.val e k) 24 12)).value ((iFn w).testBit 0)) ∧ u.hub.pegs = s.hub.pegs) ∧
      (s.hub.bit (rQcfgBay b.val e k) 63 = true → s.hub.mem.marks = [] →
        2 ^ s.hub.fld (rQcfgBay b.val e k) 20 4 ≤
          ((s.hub.peg (s.hub.fld (rQcfgBay b.val e k) 24 12)).value - (s.hub.peg (s.hub.fld (rQcfgBay b.val e k) 36 12)).value).toNat →
        ∃ u : State, exec (.ecmd b t) s = .next u ∧ (u.hub.thread b.val t.val).wait = .room (iRd w) (iRa w) (iRb w) ((iFn w).testBit 0) ∧
          u.hub.mem = s.hub.mem ∧ u.hub.pegs = s.hub.pegs))))) ∧
  (∀ (s : State) (b : Fin 64) (t : Fin 16) (rd ra rb : Nat) (q : Bool), s.hub.alive = true → s.hub.bayOn b.val = true →
    (s.hub.thread b.val t.val).wait = .room rd ra rb q →
    exec (.ecmdResume b t) s = .next (s.withHub (s.hub.ecmdTry b.val t.val rd ra rb q)) ∧
    (∀ e k, e < 4 → k < 4 → (s.hub.thread b.val t.val).g rb = BitVec.ofNat 64 (4 * e + k) → s.hub.bit (rQcfgBay b.val e k) 63 = false → q = true →
      s.hub.ecmdBusy b.val t.val = false → (s.hub.thread b.val t.val).stop = false → ∃ u : State, exec (.ecmdResume b t) s = .next u ∧
        (u.hub.thread b.val t.val).rstat = BitVec.ofNat 64 stQueueOff ∧ (u.hub.thread b.val t.val).wait = .ready ∧ u.hub.mem = s.hub.mem))

/-! ### Links, joists and route scarfs (chapters 1, 4, 13 and 15) -/

/-- R70, R125, R351, R381: what the wright does with the oldest MGT packet of each modifier: a token is kept with its time and ends silence; a malformed one is
a CORRECTED event of SND; CAP of the expected node declares its capabilities, of another takes the port down; PING is answered on its link where there is credit, and counted where not;
PONG is consumed; a HELLO state of 5 ms ends the bring-up. -/
def Obligations.ManagementPacketsAct : Prop :=
  (∀ (s : State) (p : Fin 86) (x : Held) (rest : List Held), s.hub.sill.mgt = x :: rest → x.ing = .port p → x.pkt.dst = 0x3FF →
    (x.pkt.md = 0 → tokenOk x.pkt.payload = true → ∃ t : State, exec (.mgtSound p) s = .next t ∧
      tget none t.hub.snd.tokens p.val = some { bytes := x.pkt.payload, time := s.hub.now } ∧ p.val ∉ t.hub.snd.silent ∧
      t.hub.sill.mgt = rest ∧ t.hub.mem = s.hub.mem ∧ t.hub.regs = s.hub.regs) ∧
    (x.pkt.md = 0 → tokenOk x.pkt.payload = false → ∃ t : State, exec (.mgtSound p) s = .next t ∧ t.hub.bit rFltStatus fltSnd = true ∧
      t.hub.snd = s.hub.snd ∧ t.hub.sill.mgt = rest ∧ t.hub.mem = s.hub.mem) ∧
    (x.pkt.md = 2 → x.pkt.len = 16 → p.val < 72 → s.hub.linkUp p.val = true →
      (BitVec.ofNat 10 (leNat (slice x.pkt.payload 8 8)) = s.hub.joistNode p.val → (s.hub.port p.val).peer = some (s.hub.joistNode p.val) →
        ∃ t : State, exec (.mgtCap p) s = .next t ∧ tget 0 t.hub.sill.caps p.val = leNat (slice x.pkt.payload 0 8) % 16 + 16 ∧
          t.hub.sill.mgt = rest ∧ t.hub.regs = s.hub.regs ∧ t.hub.mem = s.hub.mem) ∧
      (BitVec.ofNat 10 (leNat (slice x.pkt.payload 8 8)) ≠ s.hub.joistNode p.val →
        ∃ t : State, exec (.mgtCap p) s = .next t ∧ t.hub.linkUp p.val = false ∧ t.hub.bit rFltStatus (fltSd (portChip p.val)) = true)) ∧
    (x.pkt.md = 3 → s.hub.linkUp p.val = true → (s.hub.port p.val).waiting = [] →
      (s.hub.canSend p.val (x.pkt.pongOf s.hub.self 0x3FF) = true → ∃ t : State, exec (.mgtPing (some p)) s = .next t ∧ t.hub.sill.mgt = rest ∧
        (t.hub.port p.val).unacked.length = (s.hub.port p.val).unacked.length + planksOf (x.pkt.pongOf s.hub.self 0x3FF) (s.hub.port p.val).sealing ∧
        t.hub.reg rPingDrop = s.hub.reg rPingDrop ∧ t.hub.mem = s.hub.mem) ∧
      ((s.hub.port p.val).credits.getD 8 0 < (x.pkt.pongOf s.hub.self 0x3FF).cells ∨ s.hub.staged p.val 8 = true →
        ∃ t : State, exec (.mgtPing (some p)) s = .next t ∧ t.hub.sill.mgt = rest ∧
        (t.hub.reg rPingDrop).toNat = min ((s.hub.reg rPingDrop).toNat + 1) (2 ^ 64 - 1) ∧ t.hub.links = s.hub.links)) ∧
    (x.pkt.md = 4 → ∃ t : State, exec (.mgtPong (some p)) s = .next t ∧ t = s.withHub { s.hub with sill := { s.hub.sill with mgt := rest } }) ∧
    (x.pkt.md = 1 → s.hub.lstate p.val = lkHello → 8 ≤ x.pkt.payload.length → leNat (slice x.pkt.payload 0 1) = 1 →
      exec (.mgtHello p) s = .next (s.withHub ((({ s.hub with sill := { s.hub.sill with mgt := rest } } : Hub).helloOfferIn p.val
        (slice x.pkt.payload 4 4) (x.pkt.payload.drop 8)).helloCheck p.val)))) ∧
  (∀ (s : State) (p : Fin 86), s.hub.lstate p.val = lkHello → (s.hub.port p.val).stateAt + 5000000 ≤ s.hub.now →
    ∃ t : State, exec (.helloTimeout p) s = .next t ∧ t.hub.lstate p.val = lkDown ∧ t.hub.bit rFltStatus (fltSd (portChip p.val)) = true ∧
      t.hub.mem = s.hub.mem)

/-- R31, R32, R120, R411: a port that goes down counts the packets of its unacknowledged planks and holds none of them; the return of a detoured joist passes
through its drain and its FLUSH to the end of the detour; the hold of a returning port ends once nothing of its flows remains elsewhere. -/
def Obligations.PortsGoDownAndReturn : Prop :=
  (∀ (s : State) (p : Fin 86), s.hub.lstate p.val ≠ lkOff → s.hub.lstate p.val ≠ lkDown → ∃ t : State, exec (.portDown p) s = .next t ∧
    t.hub.lstate p.val = lkDown ∧ (t.hub.port p.val).unacked = [] ∧ (t.hub.port p.val).sealing = false ∧ t.hub.mem = s.hub.mem ∧
    (t.hub.reg (rDownDrop p.val)).toNat = min ((s.hub.reg (rDownDrop p.val)).toNat +
      ((((s.hub.port p.val).unacked.flatMap (·.pkts)).map (·.pid)).dedup.length)) (2 ^ 64 - 1)) ∧
  (∀ (s : State) (p : Fin 86), s.hub.lstate p.val = lkOff ∨ s.hub.lstate p.val = lkDown → exec (.portDown p) s = .next s) ∧
  (∀ (s : State) (j : Fin 72) (d : Detour), s.hub.detourOf j.val = some d →
    (d.phase = .down → s.hub.portUp j.val = true →
      exec (.joistPortReturn j) s =
        .next (s.withHub ((s.hub.recallDetoured j.val d.pair).setDetour j.val { d with phase := .draining }))) ∧
    (d.phase = .draining → s.hub.alive = true →
      (s.hub.packetsOn (72 + 2 * d.pair) ++ s.hub.packetsOn (73 + 2 * d.pair)).any (s.hub.isDetoured j.val) = false →
      s.hub.swc.rx.any (s.hub.onDetour j.val d.pair) = false →
      ∃ t : State, exec (.detourDrainAcked j) s = .next t ∧ t.hub.detourOf j.val = some { d with phase := .flushing, step1 := s.hub.now } ∧
        t.hub.regs = s.hub.regs ∧ t.hub.mem = s.hub.mem) ∧
    (d.phase = .draining → ((s.hub.packetsOn (72 + 2 * d.pair) ++ s.hub.packetsOn (73 + 2 * d.pair)).any (s.hub.isDetoured j.val) = true ∨
        s.hub.swc.rx.any (s.hub.onDetour j.val d.pair) = true) →
      exec (.detourDrainAcked j) s = .next s) ∧
    (d.phase = .lifetime → d.step1 + s.hub.lifetime ≤ s.hub.now → ∃ t : State, exec (.detourLifetimeExpiry j) s = .next t ∧
      t.hub.detourOf j.val = none ∧ t.hub.swc.queues = s.hub.swc.queues ∧ t.hub.regs = s.hub.regs)) ∧
  (∀ (s : State) (p : Fin 86), p.val ∈ s.hub.swc.returning →
    (s.hub.returnClear p.val = true → ∃ t : State, exec (.girtReturnRelease p) s = .next t ∧ p.val ∉ t.hub.swc.returning ∧
      t.hub.swc.queues = s.hub.swc.queues ∧ t.hub.regs = s.hub.regs) ∧
    (s.hub.returnClear p.val = false → exec (.girtReturnRelease p) s = .next s))

/-- R133: FLIP makes the LOADED bank ACTIVE and the ACTIVE bank DRAINING and toggles EPOCH, and the packets injected from then on carry the new epoch; it is
refused with REFUSED set unless the inactive bank is LOADED and every peer is. -/
def Obligations.FlipSwapsTheBanks : Prop :=
  ∀ s : State, s.hub.regLive rScarfCmd = true →
    (s.hub.bankState (!s.hub.epoch) = bankLoaded → s.hub.peersLoaded = true → ∃ t : State, exec .scarfFlip s = .next t ∧
      t.hub.epoch = !s.hub.epoch ∧ t.hub.bankState (!s.hub.epoch) = bankActive ∧ t.hub.bankState s.hub.epoch = bankDraining ∧
      (∀ ing p, ∃ y, (t.hub.injectAt ing p).swc.rx = t.hub.swc.rx ++ [y] ∧ y.pkt.rep = !s.hub.epoch) ∧
      (∀ o, o ≠ rScarf → t.hub.reg o = s.hub.reg o) ∧ t = s.withHub { s.hub with regs := t.hub.regs }) ∧
    (s.hub.bankState (!s.hub.epoch) ≠ bankLoaded ∨ s.hub.peersLoaded = false → ∃ t : State, exec .scarfFlip s = .next t ∧
      t.hub.bit rScarf 11 = true ∧ t.hub.epoch = s.hub.epoch ∧ t.hub.bankState false = s.hub.bankState false ∧
      t.hub.bankState true = s.hub.bankState true ∧ (∀ o, o ≠ rScarf → t.hub.reg o = s.hub.reg o) ∧
      t = s.withHub { s.hub with regs := t.hub.regs })

/-- R132, R135, R138, R459, R461: the entries of the FREE bank are written, COMMIT makes it LOADED, the drained bank becomes FREE; the packet lifetime is written only
while the hub is not READY; the sampler starts each port at a phase; its consumer index moves within what is unread. -/
def Obligations.ScarfAndSamplerRegistersAct : Prop :=
  (∀ (s : State) (n : Fin 1024) (v : Word), s.hub.regLive (rRtEntry n.val) = true →
    (s.hub.bankState (!s.hub.epoch) = bankFreeCode → ∃ t : State, exec (.swcRtEntryWrite n { value := v }) s = .next t ∧
      t.hub.routeEntry (!s.hub.epoch) (BitVec.ofNat 10 n.val) = v.setWidth 32 ∧
      (∀ m : Node, t.hub.routeEntry s.hub.epoch m = s.hub.routeEntry s.hub.epoch m) ∧
      (∀ m : Node, m.toNat ≠ n.val → t.hub.routeEntry (!s.hub.epoch) m = s.hub.routeEntry (!s.hub.epoch) m) ∧ t.hub.regs = s.hub.regs) ∧
    (s.hub.bankState (!s.hub.epoch) ≠ bankFreeCode → exec (.swcRtEntryWrite n { value := v }) s = .next s)) ∧
  (∀ s : State, s.hub.regLive rScarfCmd = true →
    (s.hub.bankState (!s.hub.epoch) = bankFreeCode → ∃ t : State, exec .scarfCommit s = .next t ∧ t.hub.bankState (!s.hub.epoch) = bankLoaded ∧
      t.hub.bankState s.hub.epoch = s.hub.bankState s.hub.epoch ∧ t.hub.epoch = s.hub.epoch ∧ t.hub.swc = s.hub.swc) ∧
    (s.hub.bankState (!s.hub.epoch) ≠ bankFreeCode → exec .scarfCommit s = .next (s.withHub (s.hub.setFld rScarf 11 1 1)))) ∧
  (∀ (s : State) (b : Bool), s.hub.draining = some b →
    (s.hub.drainCount b = 0 → s.hub.peersDrained = true → ∃ t : State, exec .bankFree s = .next t ∧ t.hub.bankState b = bankFreeCode ∧
      t.hub.bankState (!b) = s.hub.bankState (!b) ∧ t.hub.epoch = s.hub.epoch ∧ t.hub.swc = s.hub.swc) ∧
    (s.hub.drainCount b ≠ 0 ∨ s.hub.peersDrained = false → exec .bankFree s = .next s)) ∧
  (∀ (s : State) (v : Word), s.hub.regLive rLifetime = true →
    (s.hub.ready = true → exec (.swcPktLifetimeWrite { value := v }) s = .next s) ∧
    (s.hub.ready = false → ∃ t : State, exec (.swcPktLifetimeWrite { value := v }) s = .next t ∧ t.hub.fld rLifetime 0 16 = v.toNat % 65536 ∧
      t.hub.lifetime = clampNat (v.toNat % 65536) 50 10000 * 1000 ∧ (∀ o, o ≠ rLifetime → t.hub.reg o = s.hub.reg o) ∧ t.hub.swc = s.hub.swc)) ∧
  (∀ (s : State) (v : Word), s.hub.regLive rSmpCtl = true → bitAt v 63 = true → s.hub.bit rSmpCtl 63 = false →
    ∃ t : State, exec (.samplerEnable { value := v }) s = .next t ∧ t.hub.bit rSmpCtl 63 = true ∧ t.hub.draw = s.hub.draw + 86 ∧
      (∀ p, p < 86 → tget 0 t.hub.swc.smpCount p < 2 ^ 20) ∧ t.hub.swc.rx = s.hub.swc.rx ∧ t.hub.swc.queues = s.hub.swc.queues ∧
      (∀ o, o ≠ rSmpCtl → t.hub.reg o = s.hub.reg o)) ∧
  (∀ (s : State) (n : BitVec 32), s.hub.regLive rSmpIdx = true →
    (n.toNat + 2 ^ 32 - s.hub.fld rSmpIdx 0 32) % 2 ^ 32 ≤ (s.hub.fld rSmpIdx 32 32 + 2 ^ 32 - s.hub.fld rSmpIdx 0 32) % 2 ^ 32 →
    ∃ t : State, exec (.swcSmpIdxWrite { value := n.setWidth 64, half := .low }) s = .next t ∧ t.hub.fld rSmpIdx 0 32 = n.toNat ∧
      t.hub.fld rSmpIdx 32 32 = s.hub.fld rSmpIdx 32 32 ∧ (∀ o, o ≠ rSmpIdx → t.hub.reg o = s.hub.reg o) ∧ t.hub.swc = s.hub.swc)

/-! ### Collectives and RAISE (chapters 5 to 7) -/

/-- R163 to R169, R187, R194, R150: an open that its checks refuse ends with their code, one that fits is admitted to the lowest FREE slot with the
next generation, one that does not fit is BUSY or waits; the oldest that fits is admitted, a younger one only while the oldest may be passed; a wait and a
member's local timer expire; a DONE slot becomes FREE; a locked directory entry ignores writes; a seed re-seeds every generator. -/
def Obligations.CollectivesOpenAndEnd : Prop :=
  (∀ (s : State) (b q : Nat) (bs : List Byte) (h1 h2 : Hub), s.hub.alive = true → (s.hub.queue b 3 q).phase = .held →
    ((s.hub.queue b 3 q).desc.getD 7 0).toNat = 8 → (∀ w ∈ s.hub.coll.waiting, w.opener ≠ .queue b q) →
    s.hub.readRange (s.hub.openerWho (.queue b q)) ((s.hub.queue b 3 q).w 4) 64 = (.ok bs, h1) →
    let g := h2.endWork (.opening (.queue b q))
    (h1.checkOpen (.queue b q) (leWords 8 bs) = (.wait, h2) → exec (.collectiveOpen (.queue b q) ((s.hub.queue b 3 q).w 4)) s = .next (s.withHub h2)) ∧
    (∀ code, h1.checkOpen (.queue b q) (leWords 8 bs) = (.ok (.inr code), h2) → (h2.queue b 3 q).phase = .held →
      ∃ t : State, exec (.collectiveOpen (.queue b q) ((s.hub.queue b 3 q).w 4)) s = .next t ∧ (t.hub.queue b 3 q).phase = .done ∧ (t.hub.queue b 3 q).status = code ∧
        t.hub.coll = h2.coll ∧ t.hub.mem = h2.mem ∧ t.hub.regs = h2.regs) ∧
    (∀ d fast, h1.checkOpen (.queue b q) (leWords 8 bs) = (.ok (.inl d), h2) → h2.ageReached = false → g.fits d = some fast →
      exec (.collectiveOpen (.queue b q) ((s.hub.queue b 3 q).w 4)) s = .next (s.withHub (g.openSlot (.queue b q) d fast))) ∧
    (∀ d, h1.checkOpen (.queue b q) (leWords 8 bs) = (.ok (.inl d), h2) → (h2.ageReached = true ∨ g.fits d = none) →
      (d.wait = false ∨ 64 ≤ h2.coll.waiting.length → (h2.queue b 3 q).phase = .held →
        ∃ t : State, exec (.collectiveOpen (.queue b q) ((s.hub.queue b 3 q).w 4)) s = .next t ∧ (t.hub.queue b 3 q).status = stBusy ∧ t.hub.coll = h2.coll) ∧
      (d.wait = true → h2.coll.waiting.length < 64 → ∃ t : State, exec (.collectiveOpen (.queue b q) ((s.hub.queue b 3 q).w 4)) s = .next t ∧
        (∃ w : Waiting, t.hub.coll.waiting = h2.coll.waiting ++ [w] ∧ w.desc = d ∧ w.opener = .queue b q ∧ w.at_ = h2.now) ∧
        t.hub.coll.slots = h2.coll.slots))) ∧
  (∀ (h : Hub) (b q : Nat) (d : CollDesc) (fast c : Nat), c < 512 → (h.slot c).state = .free → (∀ k, k < c → (h.slot k).state ≠ .free) →
    ((h.openSlot (.queue b q) d fast).slot c).state = .joining ∧ ((h.openSlot (.queue b q) d fast).slot c).gen = ((h.slot c).gen + 1) % 256 ∧
    ((h.openSlot (.queue b q) d fast).slot c).k = d.ring ∧ ((h.openSlot (.queue b q) d fast).slot c).fastK = fast ∧
    (∀ k, k ≠ c → (h.openSlot (.queue b q) d fast).slot k = h.slot k) ∧
    (∀ r, d.raise = some r → (h.openSlot (.queue b q) d fast).bit (rSegDir r.seg) 62 = true)) ∧
  (∀ (h : Hub) (o : Opener) (ws : List Word),
    (h.openerPart o (h.parseColl ws).part = false → h.checkOpen o ws = (.ok (.inr stPartDenied), h)) ∧
    (h.openerPart o (h.parseColl ws).part = true → (rsvOk ws = false ∨ (h.parseColl ws).formOk = false) →
      h.checkOpen o ws = (.ok (.inr stBadDesc), h)) ∧
    (∀ d g, h.checkOpen o ws = (.ok (.inl d), g) → d.members.length = bitsGet (ws.getD 0 0) 32 8 + 1 ∧ d.members.Nodup ∧
      d.root < d.members.length ∧ fmtIn d.inF = true ∧ d.rmode ≤ 1 ∧ (d.kind ≠ kRaise → d.raise = none) ∧
      (d.kind = kRaise → d.raise.isSome = true))) ∧
  (∀ (s : State) (w : Waiting) (rest : List Waiting), s.hub.coll.waiting = w :: rest →
    (∀ fast, s.hub.raiseStands w.desc = true → s.hub.fits w.desc = some fast →
      exec .kerfAdmit s = .next (s.withHub ((s.hub.notWaiting w.id).openSlot w.opener w.desc fast))) ∧
    (s.hub.raiseStands w.desc = false →
      exec .kerfAdmit s = .next (s.withHub ((s.hub.notWaiting w.id).openResult w.opener w.desc.status stBadDesc 0))) ∧
    (s.hub.raiseStands w.desc = true → s.hub.fits w.desc = none → s.hub.ageReached = true → exec .kerfAdmit s = .next s) ∧
    (∀ x fast, s.hub.raiseStands w.desc = true → s.hub.fits w.desc = none → s.hub.ageReached = false →
      rest.find? (fun y => (s.hub.fits y.desc).isSome || !s.hub.raiseStands y.desc) = some x → s.hub.raiseStands x.desc = true →
      s.hub.fits x.desc = some fast →
      exec .kerfAdmit s = .next (s.withHub ((s.hub.notWaiting x.id).openSlot x.opener x.desc fast)))) ∧
  (∀ (s : State) (w : Waiting) (x : Nat), s.hub.coll.waiting.find? (fun y => decide (y.id = w.id)) = some w → w.until_ = some x → x ≤ s.hub.now →
    exec (.admissionWaitExpiry w.id) s = .next (s.withHub ((s.hub.notWaiting w.id).openResult w.opener w.desc.status stBusy 0))) ∧
  (∀ (s : State) (c : Fin 512), (s.hub.slot c.val).state = .done → (s.hub.slot c.val).doneAt + 4 * s.hub.lifetime ≤ s.hub.now →
    ∃ t : State, exec (.slotDoneExpiry c) s = .next t ∧ (t.hub.slot c.val).state = .free ∧ (t.hub.slot c.val).gen = (s.hub.slot c.val).gen ∧
      (∀ k, k ≠ c.val → t.hub.slot k = s.hub.slot k) ∧ t = s.withHub { s.hub with coll := t.hub.coll }) ∧
  (∀ (s : State) (m : Member), s.hub.member m.id = some m → m.deadline ≤ s.hub.now →
    exec (.memberLocalTimeout m.id) s = .next (s.withHub (s.hub.memberEnd m stMembTimeout m.memb 0 0 0))) ∧
  (∀ (s : State) (c : Fin 512) (x : Nat),
    let g := s.hub.refresh c.val
    let y := g.slot c.val
    y.holds = true → y.timer = some x → x ≤ g.now →
    exec (.stallTimerExpiry c) s = .next (s.withHub (g.endColl c.val y.stalled.1 y.stalled.2.1 y.stalled.2.2))) ∧
  (∀ (y : Slot) (m : Nat), y.state = .joining → m < y.n → tget 0 y.counts m = 0 → (∀ k, k < m → tget 0 y.counts k ≠ 0) →
    y.stalled = (stMembTimeout, m, 0)) ∧
  (∀ (s : State) (n : Fin 256) (v : Word), s.hub.regLive (rSegDir n.val) = true →
    (s.hub.bit (rSegDir n.val) 62 = true → exec (.sawSegDirWrite n { value := v }) s = .next s) ∧
    (s.hub.bit (rSegDir n.val) 62 = false → ∃ t : State, exec (.sawSegDirWrite n { value := v }) s = .next t ∧
      t.hub.reg (rSegDir n.val) = (s.hub.reg (rSegDir n.val) &&& ~~~ (rwMask (rSegDir n.val))) ||| (v &&& rwMask (rSegDir n.val)) ∧
      (∀ p, p ≠ rSegDir n.val → t.hub.reg p = s.hub.reg p) ∧ t = s.withHub { s.hub with regs := t.hub.regs })) ∧
  (∀ (s : State) (v : Word), s.hub.regLive rSawSeed = true → ∃ t : State, exec (.sawSrSeedWrite { value := v }) s = .next t ∧
    t.hub.reg rSawSeed = v ∧ t.hub.coll = { s.hub.coll with gens := [] } ∧ (∀ p, p ≠ rSawSeed → t.hub.reg p = s.hub.reg p) ∧
    (∀ u, (t.hub.rnd u 1).gen = genSeed v u))

/-- R45, R62, R174 to R186, R208: what each COLC packet does. One that fails CHK is discarded before every other check; a FREE slot or another generation answers
NAK COLL, a DONE slot counts SAW_LATE; a packet outside the collective ends it with PROTOCOL; a COUNT sets the member's count and capacity, the last one fixes the
layout; a DATA or SCALE is taken or counted as a repeat; a CONFIRM is kept, and the last one closes the collective: CORRUPT where a chunk was bad, OK where none was,
for a RAISE after the commit, which writes NSTEP into the shadow header and then moves the entry to it. -/
def Obligations.ContributionsAct : Prop :=
  (∀ (s : State) (c : Instr) (md : BitVec 4) (x : Held) (rest : List Held),
    (c, md) ∈ [(Instr.colcData, (0 : BitVec 4)), (.colcScale, 1), (.colcCount, 2), (.colcConfirm, 3)] → s.hub.alive = true →
    s.hub.sill.colc = x :: rest → x.pkt.md = md →
    let g := s.hub.tookColc rest x.pkt.cid
    let y := g.slot x.pkt.cid
    (x.pkt.chkOk = false →
      let g' := (g.count rSawChk).report (fltSaw (y.sawOf x.pkt.chunkIx)) .contained 7
      exec c s = .next (s.withHub (if md.toNat < 2 then Hub.colcBad x.pkt g' else g'))) ∧
    (x.pkt.chkOk = true → (y.state = .free ∨ y.gen ≠ x.pkt.gen) →
      exec c s = .next (s.withHub (g.injectFor (some x.ing) (g.ingressOf x.pkt.dst) (x.pkt.nakOf nakColl g.self)))) ∧
    (x.pkt.chkOk = true → y.state = .done → y.gen = x.pkt.gen → exec c s = .next (s.withHub (g.count rSawLate))) ∧
    (y.holds = true → y.gen = x.pkt.gen → x.pkt.chkOk = true →
      (y.belongs x.pkt = false → exec c s = .next (s.withHub (g.endColl x.pkt.cid stProtocol x.pkt.memb 0))) ∧
      (md.toNat < 2 → exec c s = .next (s.withHub (match y.judge x.pkt with
        | .protocol => g.endColl x.pkt.cid stProtocol x.pkt.memb 0
        | .repeat_ => g.count rSawDup
        | .take => g.takePiece x.pkt false))) ∧
      (y.belongs x.pkt = true → x.pkt.len = 16 → x.pkt.chunkIx = 0 → x.pkt.pktIx = 0 →
        (md = 2 → tget 0 y.counts x.pkt.memb = 0 →
          let y' : Slot := { y with counts := tset 0 y.counts x.pkt.memb (leNat (x.pkt.payload.take 4) + 1),
                                    caps := tset 0 y.caps x.pkt.memb (leNat (slice x.pkt.payload 8 8) % 2 ^ 33),
                                    timer := if y.timer.isNone then some (g.now + y.desc.tmo * 1000) else y.timer }
          ((∃ i, i < y.n ∧ i ≠ x.pkt.memb ∧ tget 0 y.counts i = 0) → exec c s = .next (s.withHub (g.setSlot x.pkt.cid y'))) ∧
          ((∀ i, i < y.n → i ≠ x.pkt.memb → tget 0 y.counts i ≠ 0) →
            exec c s = .next (s.withHub ((g.setSlot x.pkt.cid y').fixCounts x.pkt.cid)))) ∧
        (md = 3 → y.state = .running → tget none y.confirms x.pkt.memb = none →
          let y' : Slot := { y with confirms := tset none y.confirms x.pkt.memb
                                      (some ((leNat (x.pkt.payload.take 8) >>> 22) % 2 ^ 22, leNat (slice x.pkt.payload 8 8) % 2 ^ 21)),
                                    timer := some (g.now + y.desc.tmo * 1000) }
          ((∃ i, i < y.n ∧ i ≠ x.pkt.memb ∧ tget none y.confirms i = none) → exec c s = .next (s.withHub (g.setSlot x.pkt.cid y'))) ∧
          ((∀ i, i < y.n → i ≠ x.pkt.memb → (tget none y.confirms i).isSome = true) →
            exec c s = .next (s.withHub ((g.setSlot x.pkt.cid y').close x.pkt.cid))))))) ∧
  (∀ (y : Slot) (p : Packet), y.judge p = .take → y.state = .running ∧ p.part.toNat = y.desc.part ∧ p.fmt = y.desc.inF ∧ p.memb < y.n ∧
    y.chunkAt (y.ringOf p) = p.chunkIx ∧ 0 < y.contrib p.memb p.chunkIx ∧
    (p.md = 0 → p.pktIx < dataPackets y.desc.inF (y.contrib p.memb p.chunkIx) ∧ p.len = dataLen y.desc.inF (y.contrib p.memb p.chunkIx) p.pktIx ∧
      tget none (y.chunk (y.ringOf p)).data (64 * p.memb + p.pktIx) = none ∧
      (y.desc.scaled = true → (y.chunk (y.ringOf p)).agreed.isSome = true))) ∧
  (∀ (h : Hub) (cid : Nat), (∀ id, (h.slot cid).opener ≠ .ring id) →
    let y := h.slot cid
    let counts := (List.range y.n).map y.count
    let y' : Slot := { y with len := resultLen y.desc.kind y.desc.root counts, first := firstChunks y.desc.kind counts }
    y'.len ≤ 2 ^ 32 → (∀ m, m < y.n → y'.capShort m = false) → (∀ r, y.desc.raise = some r → y'.len = bitsGet (r.hdr.getD 0 0) 0 40) →
    ((h.fixCounts cid).slot cid).state = .running ∧ ((h.fixCounts cid).slot cid).len = y'.len ∧
    ((h.fixCounts cid).slot cid).first = y'.first ∧ ((h.fixCounts cid).slot cid).timer = some (h.now + y.desc.tmo * 1000) ∧
    (h.fixCounts cid).mem = h.mem) ∧
  (∀ (h : Hub) (cid : Nat),
    (∀ c m, (h.slot cid).worst = some (c, m) → h.close cid = h.endColl cid stCorrupt m c) ∧
    ((h.slot cid).worst = none → (h.slot cid).desc.raise = none → h.close cid = h.endColl cid 0 0 0) ∧
    (∀ r, (h.slot cid).worst = none → (h.slot cid).desc.raise = some r → h.close cid = h.commit cid r) ∧
    ((h.slot cid).worst = none ↔ ((h.slot cid).corrupt = none ∧
      ∀ m bad first, m < (h.slot cid).n → tget none (h.slot cid).confirms m = some (bad, first) → bad = 0))) ∧
  (∀ (h : Hub) (cid : Nat) (r : RaiseDesc), ((h.commit cid r).slot cid).closing = true ∧ (h.commit cid r).regs = h.regs ∧
    (∀ tag, h.waitsTag (.raiseCommit cid) = false → h.drawTag h.self = some tag → ∃ o ∈ (h.commit cid r).sill.out, o.tag = tag ∧
      o.agent = .raiseCommit cid ∧ o.cont = .commit cid ∧ o.pkt.opc = opcWra ∧ o.pkt.loc = BitVec.ofNat 52 (r.shd + 56) ∧
      o.pkt.payload = leBytes 8 (r.hdr.getD 7 0 + 1).toNat) ∧
    ((h.slot cid).holds = true → (h.slot cid).closing = true → (h.slot cid).desc.raise = some r →
      h.commitEnd cid = (h.setFld (rSegDir r.seg) 0 52 r.shd).endColl cid 0 0 0 ∧
      (h.setFld (rSegDir r.seg) 0 52 r.shd).fld (rSegDir r.seg) 0 52 = r.shd % 2 ^ 52)) ∧
  (∀ (h : Hub) (cid status memb chunk id : Nat), (h.slot cid).holds = true → (h.slot cid).opener = .ring id →
    ((h.endColl cid status memb chunk).slot cid).state = .done ∧ ((h.endColl cid status memb chunk).slot cid).doneAt = h.now ∧
    ((h.endColl cid status memb chunk).slot cid).gen = (h.slot cid).gen ∧ (∀ k, k ≠ cid → (h.endColl cid status memb chunk).slot k = h.slot k) ∧
    (∀ r, (h.slot cid).desc.raise = some r → (h.endColl cid status memb chunk).bit (rSegDir r.seg) 62 = false))

/-- R59, R123, R157, R174, R176, R183, R200 to R204: what each COLR packet does at the local member it is for, and where it is for none; a
supplied kernel takes the next item of its bay, whose new weights are written to the shadow arrays and kept; U3 sends them. -/
def Obligations.ResultsAndKernelsAct : Prop :=
  (∀ (s : State) (c : Instr) (md : BitVec 4) (x : Held) (rest : List Held),
    (c, md) ∈ [(Instr.colrData, (0 : BitVec 4)), (.colrScale, 1), (.colrCount, 2), (.colrFinal, 3)] → s.hub.alive = true →
    s.hub.sill.colr = x :: rest → x.pkt.md = md → x.pkt.chkOk = true →
    (s.hub.membersOf x.pkt = [] →
      exec c s = .next (s.withHub (({ s.hub with sill := { s.hub.sill with colr := rest } } : Hub).count rSilDiscard))) ∧
    (∀ m, s.hub.membersOf x.pkt = [m] → s.hub.member m.id = some m →
      let g := s.hub.tookColr rest m
      let m' : Member := { m with deadline := s.hub.now + 2 * m.tmo * 1000 }
      let w0 := leWord x.pkt.payload
      exec c s = .next (s.withHub (if md.toNat < 2 then g.memberPiece m' x.pkt true else if md = 2 then g.memberCount m' x.pkt
        else g.memberEnd m' (bitsGet w0 0 8) (bitsGet w0 8 8) (bitsGet w0 16 21) (bitsGet (leWord (x.pkt.payload.drop 8)) 0 32)
          (bitsGet (leWord (x.pkt.payload.drop 16)) 0 22))))) ∧
  (∀ (h : Hub) (m : Member) (b q status memb chunk taint sent : Nat), m.of_ = .queue b q → (h.queue b 3 q).phase = .held →
    ((h.memberEnd m status memb chunk taint sent).queue b 3 q).phase = .done ∧
    ((h.memberEnd m status memb chunk taint sent).queue b 3 q).status = (if status = 0 then m.status else status) ∧
    (h.memberEnd m status memb chunk taint sent).member m.id = none ∧ (h.memberEnd m status memb chunk taint sent).mem = h.mem) ∧
  (∀ (s : State) (c : Instr) (kernel chunk : Nat) (cid : Fin 512) (rd : RaiseDesc) (sums posted : List (Nat × List Int))
      (w m1 m2 : List Byte × List Byte) (h1 g1 : Hub),
    (c, kernel) ∈ [(Instr.veUpdScaled cid chunk, 0), (.veUpdMom cid chunk, 1), (.veUpdAdapt2 cid chunk, 2)] →
    s.hub.kernelDue kernel cid.val chunk rd sums →
    let y := s.hub.slot cid.val
    let b := rd.bayOf chunk
    let x := y.chunk (chunk % max 1 y.k)
    (∀ g, s.hub.kernelInputs y rd x chunk sums.length = (none, g) → exec c s = .next (s.withHub (g.kernelFault cid.val b chunk))) ∧
    (s.hub.kernelInputs y rd x chunk sums.length = (some (posted, w, m1, m2), h1) →
      let r := kernelBlocks rd (y.elems chunk) w m1 m2 posted 0 (h1.rnd (17 + b) y.desc.rmode)
      let g0 := h1.saveRnd (17 + b) r.2
      g0.injected (fltBay b) 6 = 0 →
      (g0.kernelOutputs rd chunk r.1 = (false, g1) → exec c s = .next (s.withHub (g1.updateFail cid.val b chunk))) ∧
      (g0.kernelOutputs rd chunk r.1 = (true, g1) →
        let g2 := g1.putOutput y rd x chunk (r.1.map (·.1))
        ∃ t : State, exec c s = .next t ∧ ((t.hub.slot cid.val).chunk (chunk % max 1 y.k)).weights = some (r.1.map (·.1)) ∧
          (t.hub.slot cid.val).taint = min ((g2.slot cid.val).taint + r.2.taint) (2 ^ 32 - 1) ∧ t.hub.mem = g2.mem ∧
          t.hub.regs = g2.regs ∧ (∀ k, k ≠ cid.val → t.hub.slot k = g2.slot k)))) ∧
  (∀ (s : State) (c : Instr) (kernel chunk : Nat) (cid : Fin 512) (rd : RaiseDesc) (sums : List (Nat × List Int)),
    (c, kernel) ∈ [(Instr.veUpdScaled cid chunk, 0), (.veUpdMom cid chunk, 1), (.veUpdAdapt2 cid chunk, 2)] →
    s.hub.kernelDue kernel cid.val chunk rd sums → s.hub.soundMem → s.hub.statesThere rd chunk sums.length →
    let k := chunk % max 1 (s.hub.slot cid.val).k
    ∃ t : State, ∃ ws, exec c s = .next t ∧ ((t.hub.slot cid.val).chunk k).weights = some ws ∧ ws.length = sums.length ∧
      ((t.hub.slot cid.val).chunk k).corrupt = ((s.hub.slot cid.val).chunk k).corrupt ∧
      (t.hub.slot cid.val).desc = (s.hub.slot cid.val).desc ∧ (∀ j, j ≠ cid.val → t.hub.slot j = s.hub.slot j) ∧
      t.hub.regs = s.hub.regs ∧ t.hub.bays = s.hub.bays ∧ t.hub.pegs = s.hub.pegs ∧ t.hub.swc = s.hub.swc) ∧
  (∀ (s : State) (cid : Fin 512) (chunk : Nat) (rd : RaiseDesc) (sums : List (Nat × List Int)) (blocks : List (Nat × List Byte)) (g : Hub),
    s.hub.alive = true →
    let y := s.hub.slot cid.val
    let k := chunk % max 1 y.k
    y.desc.raise = some rd → (y.chunk k).sums = some sums → y.holds = true → y.chunkAt k = chunk → (y.chunk k).sent = false →
    (y.chunk k).item.isSome = true → s.hub.itemDone y rd (y.chunk k) = true →
    s.hub.itemOut y rd (y.chunk k) chunk sums.length = (some blocks, g) →
    exec (.raiseU3Convert cid chunk) s = .next (s.withHub (g.convertSend cid.val k chunk rd blocks)) ∧
    (y.desc.outF = rd.wfmt → y.taint < 2 ^ 32 →
      g.convertSend cid.val k chunk rd blocks = (((g.saveRnd (1 + y.sawOf chunk) (g.rnd (1 + y.sawOf chunk) y.desc.rmode)).setSlot cid.val
        (y.setChunk k { y.chunk k with weights := some blocks })).sendResults cid.val k blocks |>.raisePost cid.val))) ∧
  (∀ (s : State) (cid : Fin 512) (chunk : Nat) (rd : RaiseDesc), (s.hub.slot cid.val).desc.raise = some rd → rd.kernel ≠ 3 →
    ((s.hub.slot cid.val).chunk (chunk % max 1 (s.hub.slot cid.val).k)).weights = none →
    exec (.raiseU3Convert cid chunk) s = .next s)

/-! ### Bays, engines and threads (chapters 8 and 9) -/

/-- R219 to R226: a write with EN = 1 is checked and takes the consumer count from its peg, or leaves EN 0 with ERR; EN = 0 ends a waiting descriptor
with ABORTED; the descriptor at the consumer count is read and checked, and waits or runs; a producer count too far ahead stops the queue with ERR 1; a
wait ends with PEG_TIMEOUT; a good descriptor advances the consumer count and its pegs, a bad one stops the queue with ERR 4. -/
def Obligations.QueuesTakeDescriptors : Prop :=
  (∀ (s : State) (b : Fin 64) (e q : Fin 4) (v : Word), e.val ≠ 2 → s.hub.bayOn b.val = true →
    let o := rQcfgBay b.val e.val q.val
    let w := ({ value := v } : Access).merge (rwMask o) (s.hub.reg o)
    s.hub.regLive o = true →
    (bitAt v 63 = true → s.hub.bit o 63 = false → s.hub.qcfgError b.val w = 0 →
      ∃ t : State, exec (.bayQcfgEnable b e q { value := v }) s = .next t ∧ t.hub.reg o = w ∧ t.hub.reg (rQstat b.val e.val q.val) = 0 ∧
        ((s.hub.queue b.val e.val q.val).phase = .none →
          (t.hub.queue b.val e.val q.val).count = (s.hub.peg (bitsGet w 36 12)).value) ∧ t.hub.mem = s.hub.mem ∧ t.hub.pegs = s.hub.pegs) ∧
    (bitAt v 63 = true → s.hub.bit o 63 = false → s.hub.qcfgError b.val w ≠ 0 →
      ∃ t : State, exec (.bayQcfgEnable b e q { value := v }) s = .next t ∧ t.hub.bit o 63 = false ∧
        t.hub.fld (rQstat b.val e.val q.val) 48 8 = s.hub.qcfgError b.val w ∧ t.hub.bays = s.hub.bays) ∧
    (bitAt v 63 = false → s.hub.bit o 63 = true → ∃ t : State, exec (.bayQcfgDisable b e q { value := v }) s = .next t ∧ t.hub.bit o 63 = false ∧
      ((s.hub.queue b.val e.val q.val).phase = .waiting → (t.hub.queue b.val e.val q.val).phase = .done ∧
        (t.hub.queue b.val e.val q.val).status = stAborted ∧ ∀ x, x ∈ t.hub.pegs.waits → x.agent ≠ .queue b.val e.val q.val) ∧
      ((s.hub.queue b.val e.val q.val).phase ≠ .waiting → t.hub.bays = s.hub.bays ∧ t.hub.pegs = s.hub.pegs) ∧ t.hub.mem = s.hub.mem) ∧
    (bitAt v 63 = false → s.hub.bit o 63 = false → exec (.bayQcfgDisable b e q { value := v }) s = .next (s.withHub (s.hub.setReg o w)))) ∧
  (∀ (s : State) (b : Fin 64) (e q : Fin 4), e.val ≠ 2 → s.hub.alive = true → s.hub.bayOn b.val = true →
    let o := rQcfgBay b.val e.val q.val
    let n := 2 ^ s.hub.fld o 20 4
    let c := (s.hub.queue b.val e.val q.val).count
    let prod := (s.hub.peg (s.hub.fld o 24 12)).value
    let a : Agent := .queue b.val e.val q.val
    s.hub.bit o 63 = true → s.hub.bit (rQstat b.val e.val q.val) 63 = false → (s.hub.queue b.val e.val q.val).phase = .none →
    (n < (prod - c).toNat → (prod - c).toNat < 2 ^ 63 → ∃ t : State, exec (.descriptorStart b e q) s = .next t ∧
      t.hub.bit (rQstat b.val e.val q.val) 63 = true ∧ t.hub.fld (rQstat b.val e.val q.val) 48 8 = 1 ∧
      t.hub.bit rFltStatus (fltBay b.val) = true ∧ t.hub.bays = s.hub.bays ∧ t.hub.mem = s.hub.mem) ∧
    ((prod - c).toNat ≤ n ∨ 2 ^ 63 ≤ (prod - c).toNat → reached prod (c + 1) = false → exec (.descriptorStart b e q) s = .next s) ∧
    (∀ (bs : List Byte) (g : Hub), (prod - c).toNat ≤ n → reached prod (c + 1) = true →
      (s.hub.acquire a).memRead (loftOff b.val ((s.hub.fld o 0 15 + c.toNat % n) * 128)) 128 = (some bs, g) →
      let x : EQueue := { count := c, desc := bs }
      (g.descCheck b.val e.val q.val x ≠ 0 → exec (.descriptorStart b e q) s =
        .next (s.withHub (g.setQueue b.val e.val q.val { x with phase := .done, status := g.descCheck b.val e.val q.val x }))) ∧
      (g.descCheck b.val e.val q.val x = 0 → bitAt (x.w 0) 55 = false → exec (.descriptorStart b e q) s =
        .next (s.withHub (g.setQueue b.val e.val q.val { x with phase := .running }))) ∧
      (g.descCheck b.val e.val q.val x = 0 → bitAt (x.w 0) 55 = true → reached (g.peg (bitsGet (x.w 0) 43 12)).value (x.w 1) = true →
        ∃ t : State, exec (.descriptorStart b e q) s = .next t ∧ (t.hub.queue b.val e.val q.val).phase = .running ∧ t.hub.pegs = g.pegs) ∧
      (g.descCheck b.val e.val q.val x = 0 → bitAt (x.w 0) 55 = true → reached (g.peg (bitsGet (x.w 0) 43 12)).value (x.w 1) = false →
        ∃ t : State, ∃ w : PegWait, exec (.descriptorStart b e q) s = .next t ∧ (t.hub.queue b.val e.val q.val).phase = .waiting ∧
          t.hub.pegs.waits = g.pegs.waits ++ [w] ∧ w.agent = a ∧ w.peg = bitsGet (x.w 0) 43 12 ∧ w.thresh = x.w 1 ∧
          t.hub.pegs.words = g.pegs.words)) ∧
    (∀ g, (prod - c).toNat ≤ n → reached prod (c + 1) = true →
      (s.hub.acquire a).memRead (loftOff b.val ((s.hub.fld o 0 15 + c.toNat % n) * 128)) 128 = (none, g) →
      ∃ t : State, exec (.descriptorStart b e q) s = .next t ∧ (t.hub.queue b.val e.val q.val).phase = .done ∧
        (t.hub.queue b.val e.val q.val).status = nakMem)) ∧
  (∀ (s : State) (b : Fin 64) (e q : Fin 4) (w : PegWait) (x : Nat),
    s.hub.pegs.waits.find? (fun w => decide (w.agent = .queue b.val e.val q.val)) = some w → w.deadline = some x → x ≤ s.hub.now →
    (s.hub.queue b.val e.val q.val).phase = .waiting → ∃ t : State, exec (.descWaitTimeout b e q) s = .next t ∧
      (t.hub.queue b.val e.val q.val).phase = .done ∧ (t.hub.queue b.val e.val q.val).status = stPegTimeout ∧
      (∀ y, y ∈ t.hub.pegs.waits → y.agent ≠ .queue b.val e.val q.val) ∧ t.hub.pegs.words = s.hub.pegs.words ∧
      t.hub.regs = s.hub.regs ∧ t.hub.mem = s.hub.mem) ∧
  (∀ (s : State) (b : Fin 64) (e q : Fin 4), s.hub.alive = true → s.hub.quiet (.queue b.val e.val q.val) = true →
    let x := s.hub.queue b.val e.val q.val
    let g0 := s.hub.descSpoil b.val e.val q.val
    let asks : Prop := bitsGet (x.w 0) 28 2 = 1 ∨ (bitsGet (x.w 0) 28 2 = 2 ∧ x.status ≠ 0)
    let k : WCtl := { ack := true, cont := fun _ => .wrote x.done }
    (x.phase = .recording → exec (.descriptorComplete b e q) s = .next (s.withHub (s.hub.descRetire b.val e.val q.val))) ∧
    (x.phase = .done → g0.queue b.val e.val q.val = { x with ran := false } ∧
      (¬ asks → exec (.descriptorComplete b e q) s = .next (s.withHub (g0.descRetire b.val e.val q.val))) ∧
      (∀ g, asks → g0.writeRange (g0.queueWho b.val e.val q.val) k (x.w 3) x.record = (.wait, g) →
        exec (.descriptorComplete b e q) s = .next (s.withHub g)) ∧
      (∀ y g, asks → g0.writeRange (g0.queueWho b.val e.val q.val) k (x.w 3) x.record = (.bad y, g) →
        exec (.descriptorComplete b e q) s = .next (s.withHub ((g.setQueue b.val e.val q.val { g.queue b.val e.val q.val with
          status := if x.status = 0 then y.status else x.status }).descRetire b.val e.val q.val))) ∧
      (∀ g, asks → g0.writeRange (g0.queueWho b.val e.val q.val) k (x.w 3) x.record = (.ok (), g) →
        (g.quiet (.queue b.val e.val q.val) = true →
          exec (.descriptorComplete b e q) s = .next (s.withHub (g.descRetire b.val e.val q.val))) ∧
        (g.quiet (.queue b.val e.val q.val) = false → ∃ t : State, exec (.descriptorComplete b e q) s = .next t ∧
          (t.hub.queue b.val e.val q.val).phase = .recording ∧ t.hub.mem = g.mem)))) ∧
  (∀ (h : Hub) (b e q : Nat), b < 64 → e < 4 → q < 4 →
    let o := rQcfgBay b e q
    ((h.queue b e q).status ≠ 0 → (h.descRetire b e q).queue b e q = { count := (h.queue b e q).count } ∧
      (h.descRetire b e q).bit (rQstat b e q) 63 = true ∧ (h.descRetire b e q).fld (rQstat b e q) 48 8 = 4 ∧
      (h.descRetire b e q).pegs = h.pegs ∧ (h.descRetire b e q).mem = h.mem) ∧
    ((h.queue b e q).status = 0 → bitAt ((h.queue b e q).w 0) 42 = false → h.pegs.waits = [] →
      bitAt (h.peg (h.fld o 36 12)).trigCtl 2 = false →
      (h.descRetire b e q).queue b e q = { count := (h.queue b e q).count + 1 } ∧
      ((h.descRetire b e q).peg (h.fld o 36 12)).value = (h.peg (h.fld o 36 12)).value + 1 ∧
      (∀ n, n ≠ h.fld o 36 12 → (h.descRetire b e q).peg n = h.peg n) ∧ (h.descRetire b e q).regs = h.regs ∧
      (h.descRetire b e q).mem = h.mem))

/-- R222, R225, R228, R231, R233, R235, R237, R238, R241 to R243, R275: an engine runs the head descriptor that is ready and of its operation; an
operation that ends keeps its result; a collective descriptor is held until its collective ends; BAY_MODE is written only while the hub is not READY; START
starts a thread with zero registers, STOP stops one. -/
def Obligations.EnginesAndThreadsRun : Prop :=
  (∀ (s : State) (b : Fin 64) (q : Fin 4) (n : Word), s.hub.engineDue b.val 0 q.val 1 n →
    exec (.meMmul b q n) s = .next (s.withHub ((s.hub.engineTook b.val 0 q.val).mmul b.val q.val (s.hub.tookDesc b.val 0 q.val)))) ∧
  (∀ (s : State) (b : Fin 64) (q : Fin 4) (n : Word) (c : Instr) (op : Nat),
    (c, op) ∈ [(Instr.veCopy b q n, 1), (.veAdd b q n, 2), (.veSub b q n, 3), (.veMul b q n, 4), (.veMac b q n, 5),
      (.veMax b q n, 6), (.veMin b q n, 7), (.veAffine b q n, 8), (.veRsq b q n, 9)] → s.hub.engineDue b.val 1 q.val op n →
    exec c s = .next (s.withHub ((s.hub.engineTook b.val 1 q.val).veRun b.val q.val (s.hub.tookDesc b.val 1 q.val)))) ∧
  (∀ (s : State) (b : Fin 64) (q : Fin 4) (n : Word), s.hub.engineDue b.val 1 q.val 10 n →
    exec (.veSumred b q n) s = .next (s.withHub ((s.hub.engineTook b.val 1 q.val).veSum b.val q.val (s.hub.tookDesc b.val 1 q.val)))) ∧
  (∀ (s : State) (b : Fin 64) (q : Fin 4) (n : Word) (c : Instr) (op : Nat),
    (c, op) ∈ [(Instr.deCopy b q n, 1), (.deFill b q n, 2), (.deTstream b q n, 3)] → s.hub.engineDue b.val 3 q.val op n →
    exec c s = .next (s.withHub ((s.hub.engineTook b.val 3 q.val).deRun b.val q.val (s.hub.tookDesc b.val 3 q.val)))) ∧
  (∀ (s : State) (b : Fin 64) (q : Fin 4) (n : Word),
    let x := s.hub.queue b.val 0 q.val
    let set := bitsGet (x.w 13) 2 1
    let ds := (mmulIns x).map fun r => s.hub.loftBytes b.val r.1 r.2.1
    s.hub.startsOn b.val 0 q.val 1 n → allLoft (mmulIns x ++ mmulOuts x) → ∃ t : State, exec (.meMmul b q n) s = .next t ∧
      s.endsWell t b.val 0 q.val (if bitAt (x.w 13) 4 then 64 else 0) (mmulOuts x) ∧
      t.hub.accRows b.val set = (mmulCompute x (s.hub.accRows b.val set) ds (s.hub.meRnd (bitsGet (x.w 0) 26 2))).1 ∧
      t.hub.accRows b.val (1 - set) = s.hub.accRows b.val (1 - set)) ∧
  (∀ (s : State) (b : Fin 64) (q : Fin 4) (n : Word) (c : Instr) (op : Nat),
    (c, op) ∈ [(Instr.veCopy b q n, 1), (.veAdd b q n, 2), (.veSub b q n, 3), (.veMul b q n, 4), (.veMac b q n, 5),
      (.veMax b q n, 6), (.veMin b q n, 7), (.veAffine b q n, 8), (.veRsq b q n, 9)] →
    let x := s.hub.queue b.val 1 q.val
    let len := arrBytes (veDf x) (veN x)
    let ops := takeOperands ((veInputs x).map (·.1)) ((veIns x).map fun r => s.hub.loftBytes b.val r.1 r.2.1)
    let l := (veTile x ops (ceilDiv (veN x) 32) 0 (veN x) (s.hub.rnd (17 + b.val) (bitsGet (x.w 0) 26 2))).1
    s.hub.startsOn b.val 1 q.val op n → allLoft (veIns x ++ veOuts x) → ∃ t : State, exec c s = .next t ∧
      s.endsWell t b.val 1 q.val (veN x) (veOuts x) ∧
      (bitsGet (x.w 10) 0 62 % 65536 + len ≤ 65536 → fmtBlock (veDf x) = false →
        t.hub.loftBytes b.val (x.w 10) len = fit len (l.map (·.2)).flatten) ∧
      (bitsGet (x.w 10) 0 62 % 65536 + len ≤ 65536 → fmtBlock (veDf x) = true →
        loftApart (x.w 10) (x.w 11) len (ceilDiv (veN x) 32) →
        t.hub.loftBytes b.val (x.w 10) len = (l.map (·.2)).flatten ∧
          t.hub.loftBytes b.val (x.w 11) (ceilDiv (veN x) 32) = l.map fun y => BitVec.ofNat 8 y.1)) ∧
  (∀ (s : State) (b : Fin 64) (q : Fin 4) (n : Word),
    let x := s.hub.queue b.val 1 q.val
    let r := sumredOf x ((veIns x).map fun r => s.hub.loftBytes b.val r.1 r.2.1) (s.hub.rnd (17 + b.val) (bitsGet (x.w 0) 26 2))
    s.hub.startsOn b.val 1 q.val 10 n → allLoft (veIns x ++ veOuts x) → ∃ t : State, exec (.veSumred b q n) s = .next t ∧
      s.endsWell t b.val 1 q.val 1 (veOuts x) ∧
      (fmtBlock (veDf x) = false → t.hub.loftBytes b.val (x.w 10) (arrBytes (veDf x) 1) = fit (arrBytes (veDf x) 1) r.2.1) ∧
      (fmtBlock (veDf x) = true → loftApart (x.w 10) (x.w 11) (arrBytes (veDf x) 1) 1 →
        t.hub.loftBytes b.val (x.w 10) (arrBytes (veDf x) 1) = fit (arrBytes (veDf x) 1) r.2.1 ∧
          t.hub.loftBytes b.val (x.w 11) 1 = [BitVec.ofNat 8 r.1])) ∧
  (∀ (s : State) (b : Fin 64) (q : Fin 4) (n : Word),
    let x := s.hub.queue b.val 3 q.val
    let len := bitsGet (x.w 6) 0 40
    (s.hub.startsOn b.val 3 q.val 1 n → adSpace (x.w 4) = 0 → adSpace (x.w 5) = 0 → ∃ t : State, exec (.deCopy b q n) s = .next t ∧
      s.endsWell t b.val 3 q.val len [(x.w 5, len, needW, 1)] ∧
      (loftApart (x.w 4) (x.w 5) len len → t.hub.loftBytes b.val (x.w 5) len = s.hub.loftBytes b.val (x.w 4) len)) ∧
    (s.hub.startsOn b.val 3 q.val 2 n → adSpace (x.w 5) = 0 → ∃ t : State, exec (.deFill b q n) s = .next t ∧
      s.endsWell t b.val 3 q.val len [(x.w 5, len, needW, 1)] ∧ t.hub.loftBytes b.val (x.w 5) len = fillBytes x (x.w 5) len) ∧
    (s.hub.startsOn b.val 3 q.val 3 n → adSpace (x.w 4) = 0 → adSpace (x.w 5) = 0 → ∃ t : State, exec (.deTstream b q n) s = .next t ∧
      s.endsWell t b.val 3 q.val (streamNt x * ((bitsGet (x.w 6) 48 16 + 1) * streamRb x)) (streamOuts x))) ∧
  (∀ (s : State) (b : Fin 64) (q : Fin 4) (n : Word),
    let x := s.hub.queue b.val 3 q.val
    let ws := leWords 8 (s.hub.loftBytes b.val (x.w 4) 64)
    s.hub.startsOn b.val 3 q.val 9 n → adSpace (x.w 4) = 0 → memberRsvOk ws = true →
    (∀ w ∈ (ws.drop 3).take 4, adOk (s.hub.bit (rQcfgBay b.val 3 q.val) 62) w 0 = true) →
    ∃ t : State, ∃ m : Member, exec (.deCollMember b q n) s = .next t ∧ (t.hub.queue b.val 3 q.val).phase = .held ∧
      t.hub.coll.members = s.hub.coll.members ++ [m] ∧ m.of_ = .queue b.val q.val ∧ m.node = s.hub.self ∧
      m.hub.toNat = bitsGet (ws.getD 0 0) 0 10 ∧ m.cid = bitsGet (ws.getD 0 0) 10 9 ∧ m.gen = bitsGet (ws.getD 0 0) 19 8 ∧
      m.memb = bitsGet (ws.getD 1 0) 0 8 ∧ m.count = bitsGet (ws.getD 2 0) 0 32 ∧
      (∃ y : Held, t.hub.swc.rx = s.hub.swc.rx ++ [y] ∧ y.pkt.opc = opcColc ∧ y.pkt.md = 2 ∧ y.pkt.dst = m.hub) ∧
      t.hub.mem = s.hub.mem ∧ t.hub.regs = s.hub.regs) ∧
  (∀ (h : Hub) (b e q : Nat), b < 64 → e < 4 → q < 4 →
    (h.engineTook b e q).queue b e q = h.tookDesc b e q ∧
    (∀ i, i < 4 → i ≠ q → (h.engineTook b e q).queue b e i = h.queue b e i) ∧ (h.engineTook b e q).mem = h.mem ∧
    (h.engineTook b e q).regs = h.regs ∧
    (e ≠ 3 → (h.queue b e q).phase = .running → ∀ i, i < 4 → i ≠ q → (h.engineTook b e q).hasTurn b e i = (h.queue b e i).ran)) ∧
  (∀ (h : Hub) (b e q : Nat) (r : OpResult), h.mustFence (.queue b e q) = false → (h.queue b e q).taint + r.taint < 2 ^ 32 →
    ((h.opEnd b e q r).queue b e q).phase = .done ∧ ((h.opEnd b e q r).queue b e q).done = r.done ∧
    ((h.opEnd b e q r).queue b e q).taint = (h.queue b e q).taint + r.taint ∧
    ((h.opEnd b e q r).queue b e q).status = (match r.bad with
      | none => (h.queue b e q).status
      | some k => if (h.queue b e q).status ≠ 0 then (h.queue b e q).status else k.status) ∧
    (h.opEnd b e q r).mem = h.mem ∧ (h.opEnd b e q r).regs = h.regs) ∧
  (∀ (h : Hub) (b e q : Nat) (r : OpResult), h.mustFence (.queue b e q) = true →
    ((h.opEnd b e q r).queue b e q).phase = .fencing ∧ (h.opEnd b e q r).mem = h.mem ∧
    ∃ f, f ∈ (h.opEnd b e q r).sill.fences ∧ f.agent = .queue b e q ∧ f.dst = none ∧ f.next = .descriptor ∧
      f.deadline = h.now + h.fenceTimeout) ∧
  (∀ (acce : Nat) (a b : Nat × List Int) (acc : Int) (r : Rnd), (a.1 = 0 ∨ b.1 = 0) → mmulTerm acce a b acc r = (acc, r)) ∧
  (∀ (s : State) (b : Fin 64) (q : Fin 4) (n : Word), s.hub.engineDue b.val 3 q.val 8 n →
    ∃ t : State, exec (.deCollOpen b q n) s = .next t ∧ t.hub.queue b.val 3 q.val = { s.hub.tookDesc b.val 3 q.val with phase := .held } ∧
      t = s.withHub { s.hub with bays := t.hub.bays }) ∧
  (∀ (s : State) (b : Fin 64) (q : Fin 4) (n : Word), s.hub.engineDue b.val 3 q.val 9 n →
    let h := s.hub.engineTook b.val 3 q.val
    let c := h.queueWho b.val 3 q.val
    let x := s.hub.queue b.val 3 q.val
    (∀ g, h.readRange c (x.w 4) 64 = (.wait, g) → exec (.deCollMember b q n) s = .next (s.withHub g)) ∧
    (∀ k g, h.readRange c (x.w 4) 64 = (.bad k, g) →
      exec (.deCollMember b q n) s = .next (s.withHub (g.opEnd b.val 3 q.val { bad := some k }))) ∧
    (∀ (bs : List Byte) (g : Hub), h.readRange c (x.w 4) 64 = (.ok bs, g) →
      (memberRsvOk (leWords 8 bs) = false ∨ (∃ w ∈ ((leWords 8 bs).drop 3).take 4, adOk c.sys w 0 = false) →
        exec (.deCollMember b q n) s = .next (s.withHub (g.opEnd b.val 3 q.val { bad := some { status := stBadDesc } }))) ∧
      (memberRsvOk (leWords 8 bs) = true → (∀ w ∈ ((leWords 8 bs).drop 3).take 4, adOk c.sys w 0 = true) →
        ∃ t : State, ∃ m : Member, exec (.deCollMember b q n) s = .next t ∧
          (t.hub.queue b.val 3 q.val).phase = .held ∧ t.hub.coll.members = g.coll.members ++ [m] ∧ m.node = g.self ∧
          m.cid = bitsGet ((leWords 8 bs).getD 0 0) 10 9 ∧ m.gen = bitsGet ((leWords 8 bs).getD 0 0) 19 8 ∧
          m.memb = bitsGet ((leWords 8 bs).getD 1 0) 0 8 ∧ m.count = bitsGet ((leWords 8 bs).getD 2 0) 0 32 ∧
          m.deadline = g.now + 2 * bitsGet ((leWords 8 bs).getD 0 0) 27 24 * 1000 ∧ m.of_ = .queue b.val q.val ∧
          (∃ y : Held, t.hub.swc.rx = g.swc.rx ++ [y] ∧ y.pkt.opc = opcColc ∧ y.pkt.md = 2 ∧ y.pkt.dst = m.hub)))) ∧
  (∀ (s : State) (b : Fin 64) (v : Word), s.hub.regLive (rBayMode b.val) = true → s.hub.bayOn b.val = true →
    (s.hub.ready = true → exec (.bayModeWrite b { value := v }) s = .next s) ∧
    (s.hub.ready = false → ∃ t : State, exec (.bayModeWrite b { value := v }) s = .next t ∧ t.hub.bit (rBayMode b.val) 0 = bitAt v 0 ∧
      t.hub.bit (rBayMode b.val) 1 = bitAt v 0 ∧ (∀ p, p ≠ rBayMode b.val → t.hub.reg p = s.hub.reg p) ∧ t.hub.bays = s.hub.bays)) ∧
  (∀ (s : State) (b : Fin 64) (t : Fin 16) (v : Word), s.hub.regLive (rTctl b.val t.val) = true → s.hub.bayOn b.val = true →
    s.hub.kernelSlot b.val t.val = none →
    ((s.hub.thread b.val t.val).state = .run → exec (.bayTctlStart b t { value := v }) s = .next s) ∧
    ((s.hub.thread b.val t.val).state ≠ .run → bitAt v 63 = true → ∃ u : State, exec (.bayTctlStart b t { value := v }) s = .next u ∧
      (u.hub.thread b.val t.val).state = .run ∧ (u.hub.thread b.val t.val).pc = v.toNat % 2 ^ 20 ∧ (u.hub.thread b.val t.val).regs = [] ∧
      (u.hub.thread b.val t.val).preds = 0 ∧ (u.hub.thread b.val t.val).rstat = 0 ∧ (u.hub.thread b.val t.val).hmode = false ∧
      (∀ k, k ≠ 16 * b.val + t.val → tget {} u.hub.bays.threads k = tget {} s.hub.bays.threads k) ∧ u.hub.mem = s.hub.mem) ∧
    ((s.hub.thread b.val t.val).state ≠ .run → bitAt v 63 = false → ∃ u : State, exec (.bayTctlStart b t { value := v }) s = .next u ∧
      u.hub.bays = s.hub.bays)) ∧
  (∀ (s : State) (b : Fin 64) (t : Fin 16), s.hub.bayOn b.val = true → s.hub.kernelSlot b.val t.val = none →
    (s.hub.thread b.val t.val).state = .run →
    ((s.hub.thread b.val t.val).wait = .ready → ∃ u : State, exec (.bayTctlStop b t) s = .next u ∧ (u.hub.thread b.val t.val).state = .stopped ∧
      (u.hub.thread b.val t.val).regs = (s.hub.thread b.val t.val).regs ∧ (u.hub.thread b.val t.val).pc = (s.hub.thread b.val t.val).pc) ∧
    (∀ f, (s.hub.thread b.val t.val).wait = .fence f → exec (.bayTctlStop b t) s =
      .next (s.withHub (s.hub.setThread b.val t.val { s.hub.thread b.val t.val with stop := true }))))

/-! ### The Scribe and memory (chapters 10 and 11) -/

/-- R277, R278, R280, R289 to R294, R307, R308: a context becomes valid only where no other differs under its tag; clearing VALID, like a write of GO, starts
an invalidation that leaves no entry or cache line of the tag, and BUSY clears when what used it has ended; the oldest miss gets a walk; a level read leads to the next
table, to an entry installed and handed over, or to a fault that the first latch keeps; prefetching walks for the first page ahead that no buffer holds; the scrubber moves through a tier and corrects a word of at
most two bad symbols; a retraining is not visible. -/
def Obligations.ScribeAndMemoryAct : Prop :=
  (∀ (s : State) (n : Fin 256) (v : Word), s.hub.regLive (rCtxCfg n.val) = true →
    let o := rCtxCfg n.val
    let w := ({ value := v } : Access).merge (rwMask o) (s.hub.reg o)
    let tag := s.hub.ctxTag n.val
    (s.hub.bit o 63 = false → bitAt v 63 = true → s.hub.ctxRefused n.val w = true →
      exec (.scrCtxCfgWrite n { value := v }) s = .next (s.withHub (s.hub.setFld rScrInv 62 1 1))) ∧
    (s.hub.bit o 63 = false → (bitAt v 63 = false ∨ s.hub.ctxRefused n.val w = false) →
      exec (.scrCtxCfgWrite n { value := v }) s = .next (s.withHub (s.hub.setReg o w))) ∧
    (s.hub.bit o 63 = true → bitAt v 63 = true → exec (.scrCtxCfgWrite n { value := v }) s = .next s) ∧
    (s.hub.bit o 63 = true → bitAt v 63 = false → s.hub.bit rScrInv 63 = true →
      exec (.scrCtxCfgWrite n { value := v }) s = .next (s.withHub (s.hub.setFld rScrInv 62 1 1))) ∧
    (s.hub.bit o 63 = true → bitAt v 63 = false → s.hub.bit rScrInv 63 = false →
      ∃ t : State, exec (.scrCtxCfgWrite n { value := v }) s = .next t ∧ t.hub.bit o 63 = false ∧ t.hub.bit rScrInv 63 = true ∧
        (∀ k x, x ∈ t.hub.buffer k → x.tag ≠ tag) ∧ (∀ b l, b < 64 → l ∈ t.hub.lines b → l.tag ≠ tag) ∧ t.hub.mem = s.hub.mem)) ∧
  (∀ (s : State) (v : Word), s.hub.regLive rScrInv = true → bitAt v 61 = true →
    (s.hub.bit rScrInv 63 = true → exec (.scrInvGo .wright { value := v }) s = .next (s.withHub (s.hub.setFld rScrInv 62 1 1))) ∧
    (s.hub.bit rScrInv 63 = false → ∃ t : State, exec (.scrInvGo .wright { value := v }) s = .next t ∧ t.hub.bit rScrInv 63 = true ∧
      t.hub.fld rScrInv 0 16 = v.toNat % 65536 ∧ (∀ k x, x ∈ t.hub.buffer k → x.tag ≠ v.toNat % 65536) ∧
      (∀ b l, b < 64 → l ∈ t.hub.lines b → l.tag ≠ v.toNat % 65536) ∧ (∀ p, p ≠ rScrInv → t.hub.reg p = s.hub.reg p) ∧
      t.hub.mem = s.hub.mem)) ∧
  (∀ s : State, (s.hub.bit rScrInv 63 = true → s.hub.invOver = true → ∃ t : State, exec .scrInvDone s = .next t ∧ t.hub.bit rScrInv 63 = false ∧
      (∀ p, p ≠ rScrInv → t.hub.reg p = s.hub.reg p) ∧ t.hub.scr.buffers = s.hub.scr.buffers) ∧
    (s.hub.bit rScrInv 63 = false ∨ s.hub.invOver = false → exec .scrInvDone s = .next s)) ∧
  (∀ (s : State) (m : Miss) (rest : List Miss), s.hub.alive = true → s.hub.scr.misses = m :: rest → s.hub.sharedWalk m = none →
    s.hub.freeWalker = none → exec .walkStart s = .next s) ∧
  (∀ (s : State) (m : Miss) (rest : List Miss) (w : Nat) (x : Walk), s.hub.alive = true → s.hub.scr.misses = m :: rest →
    s.hub.sharedWalk m = some (w, x) →
    exec .walkStart s = .next (s.withHub (({ s.hub with scr := { s.hub.scr with
      misses := (m :: rest).filter fun y => !s.hub.shareWalk m y } } : Hub).setWalk w
        (some { x with misses := x.misses ++ (m :: rest).filter (s.hub.shareWalk m) })))) ∧
  (∀ (s : State) (m : Miss) (rest : List Miss) (w : Nat), s.hub.alive = true → s.hub.scr.misses = m :: rest →
    s.hub.sharedWalk m = none → s.hub.freeWalker = some w →
    exec .walkStart s = .next (s.withHub (({ s.hub with scr := { s.hub.scr with
      misses := (m :: rest).filter fun x => !s.hub.shareWalk m x } } : Hub).walkBegin w ((m :: rest).filter (s.hub.shareWalk m))))) ∧
  (∀ (s : State) (w : Fin 16) (words : Option (List Word)) (x : Walk) (m : Miss) (ms : List Miss) (h1 : Hub),
    tget none s.hub.scr.walks w.val = some x → x.misses = m :: ms →
    (s.hub.walkRead m.ctx (s.hub.tableFa m.ctx x.table + groupOff m.va x.level) words = (none, h1) →
      exec (.walkTableReadReturn w words) s = .next (s.withHub ((h1.setWalk w.val none).walkFault (m :: ms) xlWalkErr x.level))) ∧
    (∀ g, s.hub.walkRead m.ctx (s.hub.tableFa m.ctx x.table + groupOff m.va x.level) words = (some g, h1) →
      (∀ t r, h1.walkLevel m.ctx m.va m.need x.level x.rights g = .next t r →
        exec (.walkTableReadReturn w words) s = .next (s.withHub ((if x.stale then h1 else h1.bufPut (66 + bayDie m.bay)
          (h1.nonLeaf m.ctx m.va (x.level - 1) t r)).walkOn w.val { x with level := x.level - 1, table := t, rights := r }))) ∧
      (∀ y k, ms = [] → m.who = .thread k → m.bay < 64 → (h1.thread m.bay k).wait = .walk →
        h1.walkLevel m.ctx m.va m.need x.level x.rights g = .found y → ∃ t : State, exec (.walkTableReadReturn w words) s = .next t ∧
          (t.hub.thread m.bay k).wait = .walked m.va (y.fetch m.va) y.attrs ∧ tget none t.hub.scr.walks w.val = none ∧
          (x.stale = false → ∃ z ∈ t.hub.buffer m.bay, z = { y with bad := z.bad }) ∧
          (x.stale = true → t.hub.scr.buffers = h1.scr.buffers)) ∧
      (∀ y r, ms = [] → m.who = .reader r → (∀ i, r ≠ .member i) →
        h1.walkLevel m.ctx m.va m.need x.level x.rights g = .found y → ∃ t : State, exec (.walkTableReadReturn w words) s = .next t ∧
          ((m.va, m.need), Xlate.ok (y.fetch m.va) y.attrs) ∈ (t.hub.work r).xl ∧ tget none t.hub.scr.walks w.val = none ∧
          (x.stale = true → t.hub.scr.buffers = h1.scr.buffers)) ∧
      (∀ cause lvl, ms = [] → h1.walkLevel m.ctx m.va m.need x.level x.rights g = .fault cause lvl →
        exec (.walkTableReadReturn w words) s = .next (s.withHub ((h1.setWalk w.val none).walkFault [m] cause lvl))))) ∧
  (∀ (h : Hub) (m : Miss) (cause lvl : Nat),
    (∀ q n, m.who = .ahead q n → (h.walkFault [m] cause lvl).scr.noAhead = h.scr.noAhead ++ [(q, n)] ∧
      (h.walkFault [m] cause lvl).regs = h.regs) ∧
    (∀ r, m.who = .reader r → (∀ i, r ≠ .member i) → ((m.va, m.need), Xlate.fault cause lvl) ∈ ((h.walkFault [m] cause lvl).work r).xl ∧
      (h.walkFault [m] cause lvl).regs = h.regs) ∧
    (∀ k, m.who = .thread k → (h.thread m.bay k).wait = .walk → h.walkFault [m] cause lvl =
      (h.latchXlate m.bay m.ctx 15 k 0 lvl cause m.va).exception m.bay k exXlate (BitVec.ofNat 64 m.va))) ∧
  (∀ (h : Hub) (b c agent th side lvl cause va : Nat), b < 64 → agent < 16 → th < 16 → side < 2 → lvl < 8 → cause < 256 →
    (h.bit (rBflt b) 63 = false → (h.latchXlate b c agent th side lvl cause va).fld (rBflt b) 0 8 = cause ∧
      (h.latchXlate b c agent th side lvl cause va).fld (rBflt b) 8 3 = lvl ∧
      (h.latchXlate b c agent th side lvl cause va).fld (rBflt b) 20 4 = agent ∧
      (h.latchXlate b c agent th side lvl cause va).fld (rBflt b) 24 8 = c % 256 ∧
      (h.latchXlate b c agent th side lvl cause va).bit (rBflt b) 63 = true ∧
      ((h.latchXlate b c agent th side lvl cause va).reg (rBfltVa b)).toNat = va % 2 ^ 57) ∧
    (h.bit (rBflt b) 63 = true → h.latchXlate b c agent th side lvl cause va = h.setFld (rBflt b) 62 1 1)) ∧
  (∀ (s : State) (b : Fin 64) (q : Fin 4) (p : Nat × Nat) (w : Nat), s.hub.alive = true → s.hub.bayOn b.val = true →
    (s.hub.queue b.val 3 q.val).phase = .running → 1 ≤ (s.hub.queue b.val 3 q.val).opc → (s.hub.queue b.val 3 q.val).opc ≤ 3 →
    (s.hub.queue b.val 3 q.val).ran = true → s.hub.streamMode b.val = true → s.hub.scr.misses = [] →
    ((16 * b.val + 12 + q.val, (s.hub.queue b.val 3 q.val).count) ∉ s.hub.scr.noAhead → s.hub.pageAhead b.val q.val = some p →
      s.hub.freeWalker = some w →
      exec (.prefetchWalk b 3 q) s = .next (s.withHub (s.hub.walkBegin w [s.hub.missAhead b.val q.val p.1 p.2]))) ∧
    ((16 * b.val + 12 + q.val, (s.hub.queue b.val 3 q.val).count) ∈ s.hub.scr.noAhead → exec (.prefetchWalk b 3 q) s = .next s)) ∧
  (∀ (s : State) (lp : Bool), s.hub.bit rMemScrub 63 = true →
    let words := (if lp then s.hub.lpExtent else s.hub.hbmExtent) / 32
    let pos := tget 0 s.hub.mem.scrub (bit01 lp)
    let w := (if lp then lpBase / 32 else 0) + pos
    pos < words → codeMends (tget 0 s.hub.mem.marks w) = true → ∃ t : State, exec (.scrubRead lp) s = .next t ∧ tget 0 t.hub.mem.marks w = 0 ∧
      (∀ k, k ≠ w → tget 0 t.hub.mem.marks k = tget 0 s.hub.mem.marks k) ∧ t.hub.mem.cells = s.hub.mem.cells ∧
      tget 0 t.hub.mem.scrub (bit01 lp) = (if tierWords lp ≤ pos + 1 then 0 else pos + 1) ∧
      (tget 0 s.hub.mem.marks w = 0 → t.hub.plumb = s.hub.plumb)) ∧
  (∀ (s : State) (lp : Bool), s.hub.bit rMemScrub 63 = true →
    let words := (if lp then s.hub.lpExtent else s.hub.hbmExtent) / 32
    let pos := tget 0 s.hub.mem.scrub (bit01 lp)
    words ≠ 0 → words ≤ pos → ∃ t : State, exec (.scrubRead lp) s = .next t ∧ t.hub.mem.marks = s.hub.mem.marks ∧
      t.hub.mem.cells = s.hub.mem.cells ∧ t.hub.plumb = s.hub.plumb ∧
      tget 0 t.hub.mem.scrub (bit01 lp) = (if tierWords lp ≤ pos + 1 then 0 else pos + 1)) ∧
  (∀ (s : State) (lp : Bool), s.hub.bit rMemScrub 63 = false → exec (.scrubRead lp) s = .next s) ∧
  (∀ (s : State) (lp : Bool) (c : Fin 64), exec (.memoryRetrain lp c) s = .next s)

/-! ### Host ports (chapter 12) -/

/-- R313 to R318, R320, R333, R334, R341, R378, R441: what a host's accesses and resets do. A window that is not enabled counts a write and refuses a read; a
write is posted with the window's peg; a read becomes as few RDs as R38 allows; DB, FENCE, stage, COMMIT and RELEASE act on ring, fence and mortise; a reset ends
the function's operations, rings, windows, requests and enables; an unmasked vector that is pending sends its message. -/
def Obligations.HostAccessesAct : Prop :=
  (∀ (s : State) (f : Fin 32) (addr : BitVec 36), s.hub.bar2On f.val = true →
    let fa := (s.hub.aperture f.val addr).1
    let w := (s.hub.aperture f.val addr).2
    (∀ data, data ≠ [] → bitAt w 63 = true → s.hub.waitsTag (.aperture f.val) = true → ∃ t : State, ∃ p, exec (.bar2Write f addr data) s = .next t ∧
      t.hub.sill.backlog = s.hub.sill.backlog ++ [(.aperture f.val, p, .posted)] ∧ p.payload = data ∧ t.hub.swc.rx = s.hub.swc.rx ∧
      t.hub.mem = s.hub.mem ∧ t.hub.regs = s.hub.regs) ∧
    (∀ data, data ≠ [] → bitAt w 63 = true → s.hub.waitsTag (.aperture f.val) = false → ∃ t : State, ∃ y : Held, exec (.bar2Write f addr data) s = .next t ∧ t.hub.swc.rx = s.hub.swc.rx ++ [y] ∧
      y.pkt.opc = opcWr ∧ y.pkt.loc.toNat = fa ∧ y.pkt.dst = faNode fa ∧ y.pkt.src = s.hub.funcNode f.val ∧ y.pkt.payload = data ∧
      y.pkt.peg.toNat = bitsGet w 46 12 ∧ y.pkt.pgm.toNat = bitsGet w 58 2 ∧ t.hub.mem = s.hub.mem ∧ t.hub.regs = s.hub.regs ∧
      (∃ d ∈ t.hub.sill.dirty, d.agent = .aperture f.val ∧ d.dst = faNode fa)) ∧
    (∀ data, data ≠ [] → bitAt w 63 = false →
      exec (.bar2Write f addr data) s = .next (s.withHub (s.hub.count (rApwMiss f.val)))) ∧
    (∀ len, bitAt w 63 = false → exec (.bar2Read f addr len) s = .next (s.withHub (s.hub.toHost (.unsupported f.val)))) ∧
    (∀ len, bitAt w 63 = true → 0 < len →
      let spans := readSpans (len / 1024 + len / 4096 + 3) fa len
      ∃ t : State, exec (.bar2Read f addr len) s = .next t ∧
        t.hub.host.reads = s.hub.host.reads ++ [{ id := s.hub.host.nextRead, func := f.val, left := spans.length }] ∧
        t.hub.requests = s.hub.requests + spans.length ∧ t.hub.mem = s.hub.mem ∧ t.hub.regs = s.hub.regs ∧
        (spans.map (·.2)).sum = len ∧ ∀ x ∈ spans, 0 < x.2 ∧ x.2 ≤ 1024 ∧ x.1 % 4096 + x.2 ≤ 4096) ∧
    (∀ (op : BitVec 4) (wide : Bool) (v c : Word),
      (bitAt w 63 = true → op = 0 ∨ op = 4 ∨ op = 5 → ∃ t : State, exec (.bar2AtomicOp f addr op wide v c) s = .next t ∧
        t.hub.host.reads = s.hub.host.reads ++ [{ id := s.hub.host.nextRead, func := f.val, left := 1 }] ∧
        t.hub.requests = s.hub.requests + 1 ∧ t.hub.mem = s.hub.mem ∧ t.hub.regs = s.hub.regs) ∧
      (bitAt w 63 = false ∨ (op ≠ 0 ∧ op ≠ 4 ∧ op ≠ 5) →
        exec (.bar2AtomicOp f addr op wide v c) s = .next (s.withHub (s.hub.toHost (.unsupported f.val)))))) ∧
  (∀ (s : State) (f : Fin 32) (r : Fin 16) (v : Word), s.hub.bar4On f.val = true → (s.hub.ring f.val r.val).bound = true →
    ∃ t : State, exec (.bar4DbWrite f r { value := v }) s = .next t ∧ (t.hub.ring f.val r.val).db = v.toNat % 2 ^ 32 ∧
      (t.hub.ring f.val r.val).head = (s.hub.ring f.val r.val).head ∧
      (2 ^ (s.hub.ring f.val r.val).log2n < (v.toNat % 2 ^ 32 + 2 ^ 32 - (s.hub.ring f.val r.val).head) % 2 ^ 32 →
        (t.hub.ring f.val r.val).err = 1 ∧ (t.hub.ring f.val r.val).stopped = true) ∧
      (∀ g k, g < 32 → k < 16 → ¬ (g = f.val ∧ k = r.val) → t.hub.ring g k = s.hub.ring g k) ∧ t.hub.mem = s.hub.mem) ∧
  (∀ (s : State) (f : Fin 32), s.hub.bar4On f.val = true →
    (∃ t : State, exec (.bar4FenceRead f .full) s = .next t ∧ (∃ x ∈ t.hub.sill.fences, x.agent = .aperture f.val ∧ x.dst = none ∧
      x.deadline = s.hub.now + s.hub.fenceTimeout) ∧ (∀ d ∈ t.hub.sill.dirty, d.agent ≠ .aperture f.val) ∧ t.hub.mem = s.hub.mem) ∧
    exec (.bar4FenceRead f .low) s = .next (s.withHub (s.hub.toHost (.completion f.val (zeros 4))))) ∧
  (∀ (s : State) (f : Fin 32) (n : Fin 256), s.hub.bar4On f.val = true →
    (∀ (off : Nat) (data : List Byte), s.hub.fld (rMtsCfg n.val) 31 5 = f.val → data.length = 8 → (off = 0 ∨ off = 8) →
      ∃ t : State, exec (.mortiseStageWrite f n off data) s = .next t ∧ slice (t.hub.mortise n.val).stage off 8 = data ∧
        (t.hub.mortise n.val).full = (s.hub.mortise n.val).full ∧ (t.hub.mortise n.val).notice = (s.hub.mortise n.val).notice ∧
        (∀ k, k ≠ n.val → t.hub.mortise k = s.hub.mortise k) ∧ t = s.withHub { s.hub with mts := t.hub.mts }) ∧
    (∀ hf : Half, hf ≠ .full →
      exec (.mortiseCommitRead f { n := n, half := hf }) s = .next (s.withHub (s.hub.toHost (.completion f.val (zeros 4))))) ∧
    (s.hub.commitOutcome f.val n.val = 0 → ∃ t : State, exec (.mortiseCommitRead f { n := n }) s = .next t ∧ (t.hub.mortise n.val).full = true ∧
      (t.hub.mortise n.val).notice = fit 16 (s.hub.mortise n.val).stage ∧
      t.hub.host.sentMsgs.getLast? = some (.completion f.val (zeros 8)) ∧ t.hub.mem = s.hub.mem) ∧
    (s.hub.commitOutcome f.val n.val ≠ 0 → ∃ t : State, exec (.mortiseCommitRead f { n := n }) s = .next t ∧
      t.hub.mortise n.val = { s.hub.mortise n.val with rej := s.hub.commitOutcome f.val n.val } ∧
      t.hub.host.sentMsgs = s.hub.host.sentMsgs ++ [.abort f.val] ∧ t.hub.mem = s.hub.mem ∧ t.hub.pegs = s.hub.pegs) ∧
    (∀ a : Access, a.isOne = true → s.hub.bit (rMtsCfg n.val) 57 = true → s.hub.fld (rMtsCfg n.val) 52 5 = f.val →
      (s.hub.mortise n.val).full = true → ∃ t : State, exec (.mortiseReleaseWrite f { n := n, acc := a }) s = .next t ∧ (t.hub.mortise n.val).full = false ∧
        (t.hub.mortise n.val).takes = ((s.hub.mortise n.val).takes + 1) % 2 ^ 32 ∧ t.hub.mem = s.hub.mem) ∧
    (∀ a : Access, a.isOne = false → exec (.mortiseReleaseWrite f { n := n, acc := a }) s = .next s)) ∧
  (∀ (s : State) (f : Fin 32) (c : CmdBits) (on : FuncBits), ∀ i ∈ [Instr.functionEnable f c.mem c.master on, .functionEnableClear f c on, .flr f],
    (s.hub.configOn (f.val / 16) = false → exec i s = .next s) ∧
    (s.hub.configOn (f.val / 16) = true → s.hub.phase < 9 → exec i s = .next (s.withHub { s.hub with
      host := { s.hub.host with sentMsgs := s.hub.host.sentMsgs ++ [.retry f.val] } }))) ∧
  (∀ (s : State) (f : Fin 32) (c : CmdBits) (on : FuncBits), s.hub.configOn (f.val / 16) = true → 9 ≤ s.hub.phase →
    let x := s.hub.func f.val
    (∃ t : State, exec (.functionEnable f c.mem c.master on) s = .next t ∧ (t.hub.func f.val).mem = (x.mem || (isPf f.val && c.mem)) ∧
      (t.hub.func f.val).master = (x.master || c.master) ∧ (t.hub.func f.val).msixOn = (x.msixOn || on.msix) ∧
      (t.hub.func f.val).maskAll = (x.maskAll || on.mask) ∧ (t.hub.func f.val).vectors = x.vectors ∧
      (isPf f.val = true → on.vfs = true → t.hub.host.vfs = s.hub.host.vfs.set (f.val / 16) true ∧
        ∀ v ∈ (portFuncs (f.val / 16)).drop 1, (t.hub.func v).mem = true) ∧
      (isPf f.val = false ∨ on.vfs = false → t.hub.host.vfs = s.hub.host.vfs ∧ ∀ g, g ≠ f.val → t.hub.func g = s.hub.func g) ∧
      t.hub.regs = s.hub.regs ∧ t.hub.mem = s.hub.mem) ∧
    (∃ t : State, exec (.functionEnableClear f c on) s = .next t ∧ (t.hub.func f.val).mem = (x.mem && !(isPf f.val && c.mem)) ∧
      (t.hub.func f.val).master = (x.master && !c.master) ∧ (t.hub.func f.val).msixOn = (x.msixOn && !on.msix) ∧
      (t.hub.func f.val).maskAll = (x.maskAll && !on.mask) ∧ (t.hub.func f.val).vectors = x.vectors ∧
      (isPf f.val = true → on.vfs = true → t.hub.host.vfs = s.hub.host.vfs.set (f.val / 16) false ∧
        ∀ v ∈ (portFuncs (f.val / 16)).drop 1, (t.hub.func v).mem = false) ∧
      (isPf f.val = false ∨ on.vfs = false → t.hub.host.vfs = s.hub.host.vfs ∧ ∀ g, g ≠ f.val → t.hub.func g = s.hub.func g) ∧
      t.hub.regs = s.hub.regs ∧ t.hub.mem = s.hub.mem)) ∧
  (∀ (s : State) (f v : Fin 32) (addr ctl : Word), s.hub.bar4On f.val = true → ∃ t : State, ∃ l : List HostMsg, exec (.msixVectorUnmask f { v := v, addr := addr, ctl := ctl }) s = .next t ∧
    t.hub.host.sentMsgs = s.hub.host.sentMsgs ++ l ∧ (∀ m ∈ l, ∃ n, m = .msix f.val n) ∧
    (t.hub.func f.val).vector (2 * v.val) = addr ∧ (t.hub.func f.val).vector (2 * v.val + 1) = ctl ∧
    ((s.hub.func f.val).pending.testBit v.val = true → (s.hub.func f.val).master = true → (s.hub.func f.val).msixOn = true →
      (s.hub.func f.val).maskAll = false → bitAt ctl 32 = false →
      HostMsg.msix f.val v.val ∈ l ∧ (t.hub.func f.val).pending.testBit v.val = false) ∧
    ((s.hub.func f.val).pending.testBit v.val = true → bitAt ctl 32 = true → HostMsg.msix f.val v.val ∉ l ∧
      (t.hub.func f.val).pending.testBit v.val = true) ∧
    (∀ g, g ≠ f.val → t.hub.func g = s.hub.func g) ∧ t.hub.regs = s.hub.regs) ∧
  (∀ (s : State) (f : Fin 32), s.hub.configOn (f.val / 16) = true → 9 ≤ s.hub.phase → ∃ t : State, exec (.flr f) s = .next t ∧ t.hub.func f.val = {} ∧ (∀ r, r < 16 → t.hub.ring f.val r = {}) ∧
    (∀ w, w < 64 → t.hub.reg (rApw f.val w) = 0) ∧ (∀ o ∈ t.hub.sill.out, o.agent ≠ .aperture f.val ∧ o.agent ≠ .ring f.val) ∧
    (∀ x ∈ t.hub.host.reads, x.func ≠ f.val) ∧ (∀ g r, g < 32 → g ≠ f.val → r < 16 → t.hub.ring g r = s.hub.ring g r) ∧ t.vault = s.vault) ∧
  (∀ (s : State) (p : Fin 2), ∃ t : State, exec (.hostPortReset p) s = .next t ∧ (∀ f ∈ portFuncs p.val, t.hub.func f = {} ∧
    ∀ r, r < 16 → t.hub.ring f r = {}) ∧ t.hub.brd.pcieAt = s.hub.brd.pcieAt.set p.val false ∧ t.vault = s.vault) ∧
  (∀ (s : State) (p : Fin 2), s.hub.configOn p.val = true → 9 ≤ s.hub.phase → ∃ t : State, exec (.vfEnableClear p) s = .next t ∧ (∀ f ∈ (portFuncs p.val).drop 1, t.hub.func f = {} ∧
    ∀ r, r < 16 → t.hub.ring f r = {}) ∧ t.hub.func (16 * p.val) = s.hub.func (16 * p.val) ∧ t.hub.host.vfs = s.hub.host.vfs.set p.val false) ∧
  (∀ (s : State) (p : Fin 2), exec (.perstDeassert p) s = .next (s.withHub { s.hub with brd := { s.hub.brd with
    perst := s.hub.brd.perst.set p.val false, pcieAt := s.hub.brd.pcieAt.set p.val (s.hub.domainOn 11) } }))

/-- R321 to R327, R337 to R339: HEAD passes a fetched entry, which is reported ACCEPTED or stops its ring; an operation that may start acts by its opcode; a
transfer moves units that end at 4 KiB boundaries and reports whole ones; a status word's update is three writes in order; a command block that passes its
checks is signed by a key of the image, for this boot, and not a replay; the commands of rings and registers check before they act. -/
def Obligations.RingsAndCommandsAct : Prop :=
  (∀ (s : State) (f : Fin 32) (r : Fin 16) (entry : List Byte) (n : BitVec 32), (s.hub.ring f.val r.val).held = none →
    (s.hub.ring f.val r.val).head = n.toNat →
    let x := s.hub.ring f.val r.val
    let ws := leWords 8 (fit 64 entry)
    (s.hub.mayFetch f.val r.val = true → s.hub.ringTurn f.val r.val = true →
      (bitsGet (ws.getD 0 0) 0 8 ≠ 1 → exec (.ringEntryFetch f r entry n) s = .next (s.withHub ((s.hub.fetchedEntry f.val r.val
        { x with head := (x.head + 1) % 2 ^ 32 }).ringEntry f.val r.val ws (bitsGet (ws.getD 1 0) 0 52)))) ∧
      (bitsGet (ws.getD 0 0) 0 8 = 1 → exec (.ringEntryFetch f r entry n) s = .next (s.withHub ((s.hub.fetchedEntry f.val r.val
        { x with head := (x.head + 1) % 2 ^ 32, held := some ws }).ringHeld f.val r.val ws)))) ∧
    (s.hub.mayFetch f.val r.val = false ∨ s.hub.ringTurn f.val r.val = false → exec (.ringEntryFetch f r entry n) s = .next s)) ∧
  (∀ (s : State) (f : Fin 32) (r : Fin 16) (entry : List Byte) (n : BitVec 32) (ws : List Word), (s.hub.ring f.val r.val).held = some ws →
    ((s.hub.ring f.val r.val).head + 2 ^ 32 - 1) % 2 ^ 32 = n.toNat →
    exec (.ringEntryFetch f r entry n) s = .next (s.withHub (s.hub.ringHeld f.val r.val ws))) ∧
  (∀ (h : Hub) (f r : Nat) (ws : List Word),
    let key : Reader := .ring (16 * f + r)
    let got := h.faRead { agent := .ring f, key := key, sys := isPf f } (bitsGet (ws.getD 3 0) 0 52) 64
    (∀ g : Hub, got = (.wait, g) → h.ringHeld f r ws = g) ∧
    (∀ (e : Bad) (g : Hub), got = (.bad e, g) → ((h.ringHeld f r ws).ring f r).err = 1 ∧ ((h.ringHeld f r ws).ring f r).stopped = true ∧
      ((h.ringHeld f r ws).ring f r).held = none ∧ (h.ringHeld f r ws).host.ops = g.host.ops) ∧
    (∀ (bs : List Byte) (g : Hub), got = (.ok bs, g) → h.ringHeld f r ws = (g.endWork key).ringEntry f r ws (bitsGet (leWord (slice bs 40 8)) 0 52))) ∧
  (∀ (h : Hub) (f r : Nat) (ws : List Word) (sw : Nat), f < 32 → r < 16 →
    let x := h.ring f r
    let opc := bitsGet (ws.getD 0 0) 0 8
    let g := h.ringEntry f r ws sw
    (h.swPlace f sw = false → (g.ring f r).err = 1 ∧ (g.ring f r).stopped = true ∧ (g.ring f r).held = none ∧ g.host.ops = h.host.ops) ∧
    (h.swPlace f sw = true → h.op h.host.nextOp = none → g.ring f r = { x with held := none } ∧ g.mem = h.mem ∧
      ((∃ p : Nat, h.funcPart f = some p ∧ h.partState p = ptQuiesce) → ∀ o : Op, g.op h.host.nextOp = some o →
        o.state = opDone ∧ o.status = nakQuiesce) ∧
      ((opc = 0 ∨ 4 < opc ∨ x.opmask.testBit opc = false ∨ entryRsvOk ws = false) →
        (∀ p : Nat, h.funcPart f = some p → h.partState p ≠ ptQuiesce) → ∀ o : Op, g.op h.host.nextOp = some o →
        o.state = opDone ∧ o.status = stBadDesc) ∧
      (1 ≤ opc → opc ≤ 4 → x.opmask.testBit opc = true → entryRsvOk ws = true →
        (∀ p : Nat, h.funcPart f = some p → h.partState p ≠ ptQuiesce) → ∃ o : Op, g.op h.host.nextOp = some o ∧ o.opc = opc ∧ o.state = opAccepted ∧
          o.seq = (x.head + 2 ^ 32 - 1) % 2 ^ 32 ∧ o.user = ws.getD 2 0 ∧ o.sw = sw ∧ o.ring = some r ∧ o.func = f))) ∧
  (∀ (h : Hub) (o : Op), h.op o.id = some o → h.swHost o = true →
    (h.updateStart o.id).host.sentMsgs = h.host.sentMsgs ++
      [.write o.id o.func (faOff (o.sw + 56)) (leBytes 8 (o.word7 (o.upd + 1)).toNat),
       .write o.id o.func (faOff o.sw) (wordsBytes o.words),
       .write o.id o.func (faOff (o.sw + 56)) (leBytes 8 (o.word7 (o.upd + 2)).toNat)]) ∧
  (∀ (s : State) (f : Fin 32) (o : Op), s.hub.op o.id = some o → o.func = f.val →
    (s.hub.mayStart o 1 = true →
      exec (.ringCollOpen o.id f) s = .next (s.withHub (s.hub.mapOp o.id fun o => { o with phase := 1 }))) ∧
    (s.hub.mayStart o 2 = true →
      let got := s.hub.faRead (ringWho o.func o.id) (bitsGet (o.args.getD 0 0) 0 52) 64
      (∀ g : Hub, got = (.wait, g) → exec (.ringCollMember o.id f) s = .next (s.withHub g)) ∧
      (∀ (e : Bad) (g : Hub), got = (.bad e, g) → exec (.ringCollMember o.id f) s = .next (s.withHub
        ((g.endWork (.op o.id)).opFinish o.id e.status fun o => { o with node := e.node }))) ∧
      (∀ (bs : List Byte) (g : Hub), got = (.ok bs, g) → ringBlockOk (leWords 8 bs) = false →
        exec (.ringCollMember o.id f) s = .next (s.withHub ((g.endWork (.op o.id)).opFinish o.id stBadDesc id))) ∧
      (∀ (bs : List Byte) (g : Hub), got = (.ok bs, g) → ringBlockOk (leWords 8 bs) = true →
        ∃ t : State, ∃ m : Member, exec (.ringCollMember o.id f) s = .next t ∧ t.hub.coll.members = g.coll.members ++ [m] ∧ m.of_ = .ring o.id ∧
          m.cid = bitsGet ((leWords 8 bs).getD 0 0) 10 9 ∧ m.count = bitsGet ((leWords 8 bs).getD 2 0) 0 32 ∧
          m.node = g.funcNode o.func)) ∧
    (let len := bitsGet (o.args.getD 2 0) 0 40
     let src := bitsGet (o.args.getD 0 0) 0 52
     let dst := bitsGet (o.args.getD 1 0) 0 52
     let k : WCtl := { wctlOf (o.args.getD 3 0) with cont := .xfer o.id }
     (s.hub.mayStart o 3 = true → o.status = 0 → exec (.ringXfer o.id f) s = .next (s.withHub ((s.hub.opSet o.id fun o =>
       { o with state := opRunning, phase := 1, total := len }).xferGo o.id (ringWho o.func o.id) k src dst (len / 4096 + 3)))) ∧
     (s.hub.alive = true → o.opc = 3 → o.phase = 1 → o.state = opRunning →
       (o.status ≠ 0 → exec (.ringXfer o.id f) s = .next (s.withHub (s.hub.xferStop o.id o.status o.node))) ∧
       (o.status = 0 → exec (.ringXfer o.id f) s =
         .next (s.withHub (s.hub.xferGo o.id (ringWho o.func o.id) k src dst (len / 4096 + 3)))))) ∧
    (s.hub.mayStart o 4 = true →
      let target := s.hub.host.ops.find? fun t => decide (t.func = o.func) && decide (t.ring = some (bitsGet (o.args.getD 0 0) 0 4)) &&
        decide (t.seq = bitsGet (o.args.getD 1 0) 0 32) && decide (t.state ≠ opDone) && decide (t.opc ≠ 4)
      (target = none → exec (.ringAbort o.id) s = .next (s.withHub (s.hub.opFinish o.id 0x46 id))) ∧
      (∀ (t : Op) (c : Nat), target = some t → s.hub.slotOfOp t.id = some c → (s.hub.slot c).committed = true →
        exec (.ringAbort o.id) s = .next (s.withHub (s.hub.opFinish o.id 0x46 id))) ∧
      (∀ t : Op, target = some t → (∀ c, s.hub.slotOfOp t.id = some c → (s.hub.slot c).committed = false) →
        exec (.ringAbort o.id) s = .next (s.withHub ((s.hub.abortOp t).opFinish o.id stOk id)))) ∧
    (∀ y : Op, (s.hub.refreshOf o.id).op o.id = some y → y.state = opRunning → y.dirty = true → y.step = 0 →
      exec (.statusProgressUpdate o.id) s = .next (s.withHub ((s.hub.refreshOf o.id).updateStart o.id))) ∧
    (∀ x : Nat, o.retryAt = some x → x ≤ s.hub.now → o.step ≠ 0 → exec (.statusWriteRetry o.id) s =
      .next (s.withHub ((s.hub.mapOp o.id fun o => { o with retryAt := none }).stepIssue o)))) ∧
  (∀ (s : State) (f : Fin 32) (o : Op) (d : List Byte), s.hub.op o.id = some o → o.func = f.val → s.hub.mayStart o 2 = true →
    let fa := bitsGet (o.args.getD 0 0) 0 52
    fa % 4096 + 64 ≤ 4096 →
    (s.hub.canAsk o.id o.func → ∃ t : State, exec (.ringCollMember o.id f) s = .next t ∧ s.hub.asks t.hub o.func fa 64 ∧
      t.hub.host.ops = s.hub.host.ops ∧ t.hub.coll = s.hub.coll ∧ t.hub.mem = s.hub.mem) ∧
    (s.hub.hasRead o.id fa 64 d → ringBlockOk (leWords 8 d) = true → ∃ t : State, ∃ m : Member, exec (.ringCollMember o.id f) s = .next t ∧
      t.hub.coll.members = s.hub.coll.members ++ [m] ∧ m.of_ = .ring o.id ∧ m.node = s.hub.funcNode o.func ∧
      m.cid = bitsGet ((leWords 8 d).getD 0 0) 10 9 ∧ m.memb = bitsGet ((leWords 8 d).getD 1 0) 0 8 ∧
      m.count = bitsGet ((leWords 8 d).getD 2 0) 0 32 ∧ (t.hub.work (.op o.id)).got = [] ∧ t.hub.mem = s.hub.mem)) ∧
  (∀ (s : State) (f : Fin 32) (o : Op) (d : List Byte), s.hub.op o.id = some o → o.func = f.val → o.status = 0 → o.progress = 0 →
    let len := bitsGet (o.args.getD 2 0) 0 40
    let src := bitsGet (o.args.getD 0 0) 0 52
    let dst := bitsGet (o.args.getD 1 0) 0 52
    0 < len → len ≤ 1024 → src % 4096 + len ≤ 4096 →
    (s.hub.mayStart o 3 = true → o.step = 0 → s.hub.swHost o = true → s.hub.canAsk o.id o.func →
      ∃ t : State, ∃ y : Op, exec (.ringXfer o.id f) s = .next t ∧ t.hub.op o.id = some y ∧ y.state = opRunning ∧ y.phase = 1 ∧ y.total = len ∧
        y.progress = 0 ∧ s.hub.asks t.hub o.func src len ∧ t.hub.mem = s.hub.mem) ∧
    (s.hub.alive = true → o.opc = 3 → o.phase = 1 → o.state = opRunning → o.total = len → dst % 4096 + len ≤ 4096 →
      bitAt (o.args.getD 3 0) 63 = false → s.hub.hasRead o.id src len d → s.hub.waitsTag (.ring o.func) = false →
      ∃ t : State, ∃ y : Op, ∃ x : Held, ∃ l : List Held, exec (.ringXfer o.id f) s = .next t ∧ t.hub.op o.id = some y ∧ y.progress = len ∧ y.phase = 2 ∧ y.status = 0 ∧
        t.hub.swc.rx = s.hub.swc.rx ++ x :: l ∧ x.pkt.opc = opcWr ∧ x.pkt.loc.toNat = dst ∧ x.pkt.payload = d ∧
        x.pkt.src = s.hub.funcNode o.func ∧ x.pkt.peg.toNat = bitsGet (o.args.getD 3 0) 40 12 ∧
        x.pkt.pgm.toNat = bitsGet (o.args.getD 3 0) 38 2 ∧ (∃ f ∈ t.hub.sill.fences, f.agent = .ring o.func ∧ f.next = .xfer o.id) ∧
        t.hub.mem = s.hub.mem)) ∧
  (∀ (h : Hub) (o : Op) (c : Who) (k : WCtl) (src dst n : Nat), h.op o.id = some o →
    (o.total ≤ o.progress → h.xferGo o.id c k src dst (n + 1) = h.xferStop o.id 0 0) ∧
    (o.progress < o.total →
      let m := min (o.total - o.progress) (4096 - (src + o.progress) % 4096)
      let got := h.faRead c (src + o.progress) m
      0 < m ∧ (src + o.progress) % 4096 + m ≤ 4096 ∧ o.progress + m ≤ o.total ∧
      (h.waitsTag c.agent = true → h.xferGo o.id c k src dst (n + 1) = h) ∧
      (h.waitsTag c.agent = false →
        (∀ g : Hub, got = (.wait, g) → h.xferGo o.id c k src dst (n + 1) = g) ∧
        (∀ (e : Bad) (g : Hub), got = (.bad e, g) → h.xferGo o.id c k src dst (n + 1) = g.xferStop o.id e.status e.node) ∧
        (∀ (bs : List Byte) (g : Hub) (w : Wrote) (g' : Hub), got = (.ok bs, g) → (g.forget c [{ fa := src + o.progress, len := m }]).writePieces c k
            [{ fa := dst + o.progress, len := m }] o.progress bs = (w, g') →
          (∀ e : Bad, w.1 = some e → h.xferGo o.id c k src dst (n + 1) = g'.xferStop o.id e.status e.node) ∧
          (w.1 = none → h.xferGo o.id c k src dst (n + 1) =
            (g'.opSet o.id fun o => { o with progress := o.progress + m }).xferGo o.id c k src dst n))))) ∧
  (∀ (h : Hub) (o : Op), h.op o.id = some o →
    (o.opc = 1 → h.slotOfOp o.id = none → o.state ≠ opDone → ∀ w ∈ (h.abortOp o).coll.waiting, w.opener ≠ .ring o.id) ∧
    (o.opc = 3 → o.phase = 1 → o.status = 0 → h.mustFence (.ring o.func) = true → ∃ y : Op, ∃ f : Fence, (h.abortOp o).op o.id = some y ∧
      y.status = stAborted ∧ y.phase = 2 ∧ y.progress = o.progress ∧ f ∈ (h.abortOp o).sill.fences ∧ f.next = .xfer o.id ∧
      f.agent = .ring o.func)) ∧
  (∀ done total : Nat, done ≤ total → finalCount done total ≤ done ∧ (finalCount done total % 4096 = 0 ∨ finalCount done total = total)) ∧
  (∀ (s : State) (f : Fin 32), s.hub.alive = true → (s.hub.mortise (224 + f.val)).full = true → s.hub.cmdOf f.val = none →
    let len := bitsGet (leWord ((s.hub.mortise (224 + f.val)).notice.drop 8)) 0 13
    let g := s.hub.mtsTake (224 + f.val)
    exec (.commandTake f none) s = .next (s.withHub (g.count (rCmdDrop f.val))) ∧
    (∀ bs : List Byte,
      let b := fit len bs
      let sw := leNat (slice b 24 8) % 2 ^ 52
      faNode (bitsGet (leWord (s.hub.mortise (224 + f.val)).notice) 0 52) = g.funcNode f.val → 32 ≤ len → g.funcAvail f.val = true →
      sw % 64 = 0 → faNode sw = g.funcNode f.val → g.op g.host.nextOp = none →
      (g.blockCheck f.val len b = stOk → ∃ t : State, ∃ c : Cmd, exec (.commandTake f (some bs)) s = .next t ∧ t.hub.host.cmd = g.host.cmd ++ [c] ∧
        c.func = f.val ∧ c.code = leNat (slice b 0 2) ∧ c.key = leNat (slice b 4 1) ∧ c.op = g.host.nextOp ∧
        tget 0 t.hub.host.lastSeq c.key = leNat (slice b 8 8) + 1) ∧
      (g.blockCheck f.val len b ≠ stOk → ∃ t : State, exec (.commandTake f (some bs)) s = .next t ∧ t.hub.host.cmd = g.host.cmd ∧
        t.hub.host.lastSeq = g.host.lastSeq))) ∧
  (∀ (h : Hub) (f len : Nat) (bs : List Byte), h.blockCheck f len bs = stOk →
    len = 178 + leNat (slice bs 2 2) ∧ Config.ed448Verify (slice (keyEntry h.brd.image (leNat (slice bs 4 1))) 0 57)
      (slice bs 0 (64 + leNat (slice bs 2 2))) (slice bs (64 + leNat (slice bs 2 2)) 114) = true ∧
    byteBit (keyEntry h.brd.image (leNat (slice bs 4 1))) 60 f = true ∧ leWord (slice bs 16 8) = h.reg rNonce ∧
    tget 0 h.host.lastSeq (leNat (slice bs 4 1)) ≤ leNat (slice bs 8 8) ∧ (cmdBit (leNat (slice bs 0 2))).isSome = true) ∧
  (∀ (s : State) (f : Fin 32) (c : Cmd), s.hub.cmdDue f.val 1 c →
    let r := bitsGet (c.w 0) 52 4
    let base := bitsGet (c.w 0) 0 52
    let n := bitsGet (c.w 0) 56 4
    (c.len ≠ 16 ∨ n < 4 ∨ 12 < n ∨ base % 4096 ≠ 0 ∨ faNode base ≠ s.hub.funcNode f.val ∨ (s.hub.ring f.val r).bound = true →
      exec (.ringBind f) s = .next (s.withHub (s.hub.cmdEnd c stBadDesc id))) ∧
    (c.len = 16 → 4 ≤ n → n ≤ 12 → base % 4096 = 0 → faNode base = s.hub.funcNode f.val → (s.hub.ring f.val r).bound = false →
      let y : Ring := { bound := true, base := base, log2n := n, maxf := bitsGet (c.w 1) 16 11, opmask := bitsGet (c.w 1) 0 16 }
      exec (.ringBind f) s = .next (s.withHub ((s.hub.setRing f.val r y).cmdEnd c stOk id)))) ∧
  (∀ (s : State) (f : Fin 32) (c : Cmd), s.hub.cmdDue f.val 2 c → c.len = 8 →
    let r := bitsGet (c.w 0) 0 4
    ((s.hub.ring f.val r).bound = false → exec (.ringUnbind f) s = .next (s.withHub (s.hub.cmdEnd c stOk id))) ∧
    ((s.hub.ring f.val r).bound = true → exec (.ringUnbind f) s = .next (s.withHub
      ((s.hub.setRing f.val r { s.hub.ring f.val r with unbind := true }).cmdRun c 0)))) ∧
  (∀ (s : State) (f : Fin 32) (c : Cmd) (o : Op), s.hub.cmdOf f.val = some c → c.code = 2 → s.hub.op c.op = some o → o.phase = 1 →
    (s.hub.inFlight f.val (bitsGet (c.w 0) 0 4) = 0 → exec (.ringUnbindDone f) s =
      .next (s.withHub ((s.hub.setRing f.val (bitsGet (c.w 0) 0 4) {}).cmdEnd c stOk id))) ∧
    (s.hub.inFlight f.val (bitsGet (c.w 0) 0 4) ≠ 0 → exec (.ringUnbindDone f) s = .next s)) ∧
  (∀ (s : State) (f : Fin 32) (c : Cmd), s.hub.cmdDue f.val 3 c →
    let key := keyEntry s.hub.brd.image c.key
    let ps := (List.range (c.words.length / 2)).map fun i => (bitsGet (c.w (2 * i)) 0 26, c.w (2 * i + 1))
    (c.len % 16 ≠ 0 ∨ (∃ p ∈ ps, p.1 % 8 ≠ 0) → exec (.regWrite f) s = .next (s.withHub (s.hub.cmdEnd c stBadDesc id))) ∧
    let mayWrite (p : Nat × Word) : Bool := grantOk key (grantedOf p.1) && s.hub.settingOk (grantedOf p.1) p.2
    (c.len % 16 = 0 → (∀ p ∈ ps, p.1 % 8 = 0) → (∃ p ∈ ps, mayWrite p = false) →
      ∃ i : Nat, exec (.regWrite f) s = .next (s.withHub (s.hub.cmdEnd c stBeyond fun o => { o with detail := BitVec.ofNat 64 i })) ∧
        ∃ p, ps[i]? = some p ∧ mayWrite p = false ∧ ∀ k q, k < i → ps[k]? = some q → mayWrite q = true) ∧
    (c.len % 16 = 0 → (∀ p ∈ ps, p.1 % 8 = 0) → (∀ p ∈ ps, mayWrite p = true) →
      exec (.regWrite f) s = .next (s.withHub ((ps.foldl (fun (h : Hub) p =>
        h.writeAt p.1 { value := p.2 } fun h => h.grantedWrite (grantedOf p.1) { value := p.2 }) s.hub).cmdEnd c stOk id))))

/-! ### Partitions, keys, reports and overrides (chapters 13 and 14) -/

/-- R342 to R344, R355 to R366, R393, R443: a partition is added with fresh keys and cleared regions after its checks, and removed by draining,
destroying its key slots and wiping, and a packet of those slots is dropped at the head of its queue with TENANT_GONE; a re-key rotates the slots and sweeps the pages; a release loads the weight key that its wrap holds; a report has
its stated length; an update leaves the running bank as it is; an override acts by its ACTION. -/
def Obligations.TenancyActs : Prop :=
  (∀ (s : State) (f : Fin 32) (c : Cmd), s.hub.cmdDue f.val 0x10 c →
    (s.hub.addCheck f.val c.len c.words ≠ stOk →
      exec (.partAdd f) s = .next (s.withHub (s.hub.cmdEnd c (s.hub.addCheck f.val c.len c.words) id))) ∧
    (s.hub.addCheck f.val c.len c.words = stOk →
      exec (.partAdd f) s = .next (s.withHub ((s.hub.partApply c.words).cmdEnd c stOk id)))) ∧
  (∀ (h : Hub) (ws : List Word),
    let p := recPart ws
    let g := h.partApply ws
    g.partState p = ptActive ∧ g.wepoch p = false ∧ g.reg (rKslot (2 * p)) = kslotWord ksWrite 0 p false ∧
      g.reg (rKslot (2 * p + 1)) = kslotWord ksRead 0 p true ∧ tget [] g.sec.parts p = ws ∧
      tget 0 g.sec.drops p = 0 ∧ g.sec.rdig = h.sec.rdig ∧
      (∀ r ∈ recRegions ws, ∀ a, r.1 ≤ a → a < r.1 + r.2 → tget 0 g.mem.cells a = 0)) ∧
  (∀ (s : State) (f : Fin 32) (c : Cmd), s.hub.cmdDue f.val 0x11 c →
    let p := bitsGet (c.w 0) 0 4
    (c.len ≠ 8 → exec (.partRemove f) s = .next (s.withHub (s.hub.cmdEnd c stBadDesc id))) ∧
    (c.len = 8 → s.hub.notOwn f.val p = true → exec (.partRemove f) s = .next (s.withHub (s.hub.cmdEnd c stBeyond id))) ∧
    (c.len = 8 → s.hub.notOwn f.val p = false → s.hub.partState p = ptQuiesce ∨ s.hub.partState p = ptWiping →
      exec (.partRemove f) s = .next (s.withHub (s.hub.cmdEnd c stBusy id))) ∧
    (c.len = 8 → s.hub.notOwn f.val p = false → s.hub.partState p = ptFree →
      exec (.partRemove f) s = .next (s.withHub (s.hub.cmdEnd c stBadDesc id))) ∧
    (c.len = 8 → s.hub.notOwn f.val p = false → s.hub.partState p ≠ ptQuiesce → s.hub.partState p ≠ ptWiping → s.hub.partState p ≠ ptFree →
      ∃ t : State, ∃ r, exec (.partRemove f) s = .next t ∧ t.hub.fld (rKslot (2 * p)) 62 2 = ksDrain ∧ t.hub.fld (rKslot (2 * p + 1)) 62 2 = ksDrain ∧
        tget none t.hub.sec.removals p = some r ∧ r.func = f.val ∧ r.wiping = false ∧
        r.deadline = t.hub.now + clampNat (t.hub.fld rDrainTmo 0 34) 10000 10000000000 ∧ t.vault = s.vault)) ∧
  (∀ (s : State) (p : Fin 16) (r : Removal), tget none s.hub.sec.removals p.val = some r → r.wiping = false →
    (s.hub.inflight (2 * p.val) + s.hub.inflight (2 * p.val + 1) = 0 →
      exec (.keySlotDestroy p) s = .next (s.withHub (s.hub.slotsDestroyed p.val r))) ∧
    (s.hub.inflight (2 * p.val) + s.hub.inflight (2 * p.val + 1) ≠ 0 → exec (.keySlotDestroy p) s = .next s) ∧
    (r.deadline ≤ s.hub.now → exec (.secDrainTimeout p) s = .next (s.withHub (s.hub.slotsDestroyed p.val r)))) ∧
  (∀ (h : Hub) (p : Fin 16) (r : Removal),
    let g := h.slotsDestroyed p.val r
    g.reg (rKslot (2 * p.val)) = 0 ∧ g.reg (rKslot (2 * p.val + 1)) = 0 ∧ tget [] g.sec.keys (2 * p.val) = [] ∧
      tget [] g.sec.keys (2 * p.val + 1) = [] ∧ g.partState p.val = ptWiping ∧
      tget none g.sec.removals p.val = some { r with wiping := true } ∧ 2 * p.val ∈ g.sec.gone ∧ 2 * p.val + 1 ∈ g.sec.gone ∧
      (∀ x ∈ h.regions p.val, ∀ a, x.1 ≤ a → a < x.1 + x.2 → tget 0 g.mem.cells a = 0)) ∧
  (∀ (s : State) (p : Fin 16) (r : Removal) (c : Cmd), tget none s.hub.sec.removals p.val = some r → r.wiping = true →
    (s.hub.partFree p.val).cmdOf r.func = some c → c.code = 0x11 →
    exec (.partitionWipeDone p) s = .next (s.withHub ((s.hub.partFree p.val).cmdEnd c stOk fun o =>
      { o with progress := o.total, final := o.total, detail := BitVec.ofNat 64 (tget 0 (s.hub.partFree p.val).sec.drops p.val) }))) ∧
  (∀ (h : Hub) (p : Fin 16),
    let g := h.partFree p.val
    g.reg (rPartStat p.val) = 0 ∧ g.reg (rKslot (34 + p.val)) = 0 ∧ tget [] g.sec.keys (34 + p.val) = [] ∧ tget [] g.sec.parts p.val = [] ∧
      tget [] g.sec.release p.val = [] ∧ g.sec.rdig = h.sec.rdig ∧ tget none g.sec.removals p.val = none) ∧
  (∀ (s : State) (out : Fin 86) (cls : Fin 5) (x : Held) (l : List Held), s.hub.qlist out.val cls.val = x :: l → s.hub.alive = true →
    s.hub.portUp out.val = true → x.pkt.kslot.toNat ∈ s.hub.sec.gone →
    exec (.packetTransmit out cls) s = .next (s.withHub ((s.hub.dropQ out.val cls.val).tenantGone x))) ∧
  (∀ (h : Hub) (x : Held), x.group = [] →
    let p := x.pkt.kslot.toNat / 2
    let g : Hub := { h with sec := { h.sec with drops := tset 0 h.sec.drops p (tget 0 h.sec.drops p + 1) } }
    (x.pkt.cls = 0 → h.tenantGone x = g.raiseNak x nakGone) ∧ (3 ≤ x.pkt.cls.toNat → h.tenantGone x = g) ∧
    (x.pkt.cls = 2 → x.pkt.src = h.self → (h.slot x.pkt.cid).gen = x.pkt.gen → h.tenantGone x = g.endColl x.pkt.cid nakGone 0 0)) ∧
  (∀ (s : State) (f : Fin 32) (c : Cmd), s.hub.cmdDue f.val 0x12 c →
    let p := bitsGet (c.w 0) 0 4
    let sub := bitsGet (c.w 0) 8 2
    let e := s.hub.wepoch p
    (sub = 0 ∧ c.len ≠ 8 ∨ sub = 3 → exec (.rekeyRotate f) s = .next (s.withHub (s.hub.cmdEnd c stBadDesc id))) ∧
    (sub = 0 → c.len = 8 → s.hub.notOwn f.val p = true → exec (.rekeyRotate f) s = .next (s.withHub (s.hub.cmdEnd c stBeyond id))) ∧
    (sub = 0 → c.len = 8 → s.hub.notOwn f.val p = false → s.hub.partState p ≠ ptActive →
      exec (.rekeyRotate f) s = .next (s.withHub (s.hub.cmdEnd c stBusy id))) ∧
    (sub = 0 → c.len = 8 → s.hub.notOwn f.val p = false → s.hub.partState p = ptActive →
      ∃ g : Hub, exec (.rekeyRotate f) s = .next (s.withHub (g.cmdRun c (s.hub.pagesUnder p e).length)) ∧ g.wepoch p = (!e) ∧
        g.partState p = ptRekey ∧ g.fld (rKslot (2 * p + bit01 (!e))) 62 2 = ksWrite ∧ g.fld (rKslot (2 * p + bit01 e)) 62 2 = ksRead ∧
        tget none g.sec.rekeys p = some f.val ∧ g.mem = s.hub.mem) ∧
    (sub = 1 → c.len ≠ 112 → exec (.rekeyRelease f) s = .next (s.withHub (s.hub.cmdEnd c stBadDesc id))) ∧
    (sub = 1 → c.len = 112 → s.hub.notOwn f.val p = true → exec (.rekeyRelease f) s = .next (s.withHub (s.hub.cmdEnd c stBeyond id))) ∧
    (sub = 1 → c.len = 112 → s.hub.notOwn f.val p = false →
      let key := tget [] s.hub.sec.release p
      let rdig := tget [] s.hub.sec.rdig p
      (key = [] ∨ rdig = [] ∨ openWrap key rdig p (slice c.bytes 8 104) = none →
        exec (.rekeyRelease f) s = .next (s.withHub (s.hub.cmdEnd c stReleaseFail id))) ∧
      (∀ k, key ≠ [] → rdig ≠ [] → openWrap key rdig p (slice c.bytes 8 104) = some k →
        exec (.rekeyRelease f) s = .next (s.withHub ((s.hub.loadSlot (34 + p) (kslotWord ksWrite 0 p false) k).cmdEnd c stOk id)))) ∧
    (sub = 2 → c.len ≠ 40 → exec (.rekeyUnseal f) s = .next (s.withHub (s.hub.cmdEnd c stBadDesc id))) ∧
    (sub = 2 → c.len = 40 → s.hub.notOwn f.val p = true → exec (.rekeyUnseal f) s = .next (s.withHub (s.hub.cmdEnd c stBeyond id))) ∧
    (let src := bitsGet (c.w 1) 0 52
     let dst := bitsGet (c.w 2) 0 52
     let sl := bitsGet (c.w 3) 0 40
     let dl := bitsGet (c.w 4) 0 40
     (sub = 2 → c.len = 40 → s.hub.notOwn f.val p = false →
       sl < 32 ∨ s.hub.partRange p src sl = false ∨ s.hub.partRange p dst dl = false →
       exec (.rekeyUnseal f) s = .next (s.withHub (s.hub.cmdEnd c stBadDesc id))) ∧
     (sub = 2 → c.len = 40 → s.hub.notOwn f.val p = false → 32 ≤ sl → s.hub.partRange p src sl = true → s.hub.partRange p dst dl = true →
       exec (.rekeyUnseal f) s = .next (s.withHub (s.hub.unseal c p src dst sl dl))))) ∧
  (∀ (h : Hub) (key header : List Byte) (src dst len i : Nat) (u : Unsealed), u.failed.isSome = true →
    (h.unsealRecord key header src dst len i u).1.failed = u.failed ∧ (h.unsealRecord key header src dst len i u).1.final = u.final ∧
      (h.unsealRecord key header src dst len i u).2 = (h.unsealWrite (dst + i * 65536) (zeros len)).2) ∧
  (∀ (s : State) (p : Fin 16) (f : Nat) (c : Cmd), tget none s.hub.sec.rekeys p.val = some f → s.hub.partState p.val = ptRekey →
    s.hub.cmdOf f = some c → c.code = 0x12 →
    let e := s.hub.wepoch p.val
    let old := 2 * p.val + bit01 (!e)
    (∀ page, (s.hub.pagesUnder p.val (!e)).min? = some page → exec (.rekeyRetire p) s =
      .next (s.withHub ((s.hub.sweepPage e page).opSet c.op fun o =>
        { o with progress := o.total - ((s.hub.sweepPage e page).pagesUnder p.val (!e)).length }))) ∧
    (s.hub.pagesUnder p.val (!e) = [] → s.hub.inflight old = 0 → ∃ g : Hub, exec (.rekeyRetire p) s = .next (s.withHub (g.cmdEnd c stOk fun o =>
        { o with progress := o.total, final := o.total })) ∧ g.partState p.val = ptActive ∧ g.reg (rKslot old) = kslotWord ksRead 0 p.val (!e) ∧
      tget none g.sec.rekeys p.val = none ∧ g.wepoch p.val = e ∧ g.mem = s.hub.mem) ∧
    (s.hub.pagesUnder p.val (!e) = [] → s.hub.inflight old ≠ 0 → exec (.rekeyRetire p) s = .next s)) ∧
  (∀ (h : Hub) (e : Bool) (page p n : Nat), n ∈ (h.sweepPage e page).pagesUnder p (!e) ↔ n ∈ h.pagesUnder p (!e) ∧ n ≠ page) ∧
  (∀ (s : State) (f : Fin 32) (c : Cmd), s.hub.cmdDue f.val 0x13 c →
    let p := bitsGet (c.w 0) 0 4
    let i := bitsGet (c.w 0) 8 3
    let w := s.hub.partWord p (8 + i)
    (c.len ≠ 8 → exec (.wipeRegion f) s = .next (s.withHub (s.hub.cmdEnd c stBadDesc id))) ∧
    (c.len = 8 → s.hub.notOwn f.val p = true → exec (.wipeRegion f) s = .next (s.withHub (s.hub.cmdEnd c stBeyond id))) ∧
    (c.len = 8 → s.hub.notOwn f.val p = false → bitAt w 63 = false → exec (.wipeRegion f) s = .next (s.withHub (s.hub.cmdEnd c stBadDesc id))) ∧
    (c.len = 8 → s.hub.notOwn f.val p = false → bitAt w 63 = true →
      let g := s.hub.clearRange (regionSpan w).1 (regionSpan w).2
      let x := g.cmdRun c (regionSpan w).2
      exec (.wipeRegion f) s = .next (s.withHub { x with sec := { x.sec with wipes := x.sec.wipes ++ [(f.val, p, i)] } }) ∧
      ∀ a, tget 0 g.mem.cells a =
        if (regionSpan w).1 ≤ a ∧ a < (regionSpan w).1 + (regionSpan w).2 then 0 else tget 0 s.hub.mem.cells a)) ∧
  (∀ (s : State) (f : Fin 32) (c : Cmd) (x : Nat × Nat × Nat), (s.hub.sec.wipes.find? fun y => decide (y.1 = f.val)) = some x →
    s.hub.cmdOf f.val = some c → c.code = 0x13 →
    exec (.wipeRegionDone f) s = .next (s.withHub (({ s.hub with sec := { s.hub.sec with
      wipes := s.hub.sec.wipes.filter fun y => !decide (y = x) } } : Hub).cmdEnd c stOk fun o => { o with progress := o.total, final := o.total }))) ∧
  (∀ (s : State) (f : Fin 32) (c : Cmd), s.hub.cmdDue f.val 0x14 c →
    let p := bitsGet (c.w 0) 0 8
    let fa := bitsGet (c.w 5) 0 52
    let room := bitsGet (c.w 6) 0 16
    let rep := s.hub.report_ s.vault (slice c.bytes 8 32) p
    (c.len ≠ 56 ∨ (15 < p ∧ p ≠ 0xFF) ∨ faNode fa ≠ s.hub.funcNode f.val → exec (.attest f) s = .next (s.withHub (s.hub.cmdEnd c stBadDesc id))) ∧
    (c.len = 56 → p ≤ 15 → faNode fa = s.hub.funcNode f.val → s.hub.notOwn f.val p = true →
      exec (.attest f) s = .next (s.withHub (s.hub.cmdEnd c stBeyond id))) ∧
    (c.len = 56 → p = 0xFF ∨ (p ≤ 15 ∧ s.hub.notOwn f.val p = false) → faNode fa = s.hub.funcNode f.val → room < rep.length →
      exec (.attest f) s = .next (s.withHub (s.hub.cmdEnd c stBadDesc id))) ∧
    (c.len = 56 → p = 0xFF ∨ (p ≤ 15 ∧ s.hub.notOwn f.val p = false) → faNode fa = s.hub.funcNode f.val → rep.length ≤ room →
      exec (.attest f) s = .next (s.withHub (((s.hub.toHost (.write c.op f.val (faOff fa) rep)).noteReport p rep).cmdEnd c stOk
        fun o => { o with detail := BitVec.ofNat 64 rep.length })))) ∧
  (∀ (v : Vault) (h : Hub) (nonce : List Byte) (p : Nat), (h.report_ v nonce p).length = 1382 + h.reportChain.length) ∧
  (∀ (h : Hub) (p q : Nat) (rep : List Byte), p < 16 → h.sec.identity ≠ [] →
    tget [] (h.noteReport p rep).sec.rdig q = if q = p then Config.shake256 64 rep else tget [] h.sec.rdig q) ∧
  (∀ (s : State) (f : Fin 32) (c : Cmd) (copy : Option (List Byte)), s.hub.cmdDue f.val 0x20 c →
    let fa := bitsGet (c.w 0) 0 52
    let len := bitsGet (c.w 1) 0 32
    let token := bitAt (c.w 1) 32
    (c.len ≠ 16 ∨ faNode fa ≠ s.hub.funcNode f.val → exec (.imageUpdate f copy) s = .next (s.withHub (s.hub.cmdEnd c stBadDesc id))) ∧
    (c.len = 16 → faNode fa = s.hub.funcNode f.val → s.hub.brd.upd.isSome = true →
      exec (.imageUpdate f copy) s = .next (s.withHub (s.hub.cmdEnd c stBusy id))) ∧
    (c.len = 16 → faNode fa = s.hub.funcNode f.val → s.hub.brd.upd = none →
      (copy = none → exec (.imageUpdate f copy) s = .next (s.withHub (s.hub.cmdEnd c stBadDesc id))) ∧
      (∀ bs, copy = some bs → updateOk s.vault token len (fit len bs) = false →
        exec (.imageUpdate f copy) s = .next (s.withHub (s.hub.cmdEnd c stBadDesc id))) ∧
      (∀ bs, copy = some bs → updateOk s.vault token len (fit len bs) = true → ∃ t : State, exec (.imageUpdate f copy) s = .next t ∧
        t.hub.brd.upd = some (f.val, token, fit len bs) ∧ t.vault = s.vault))) ∧
  (∀ (s : State) (f : Fin 32) (token : Bool) (bs : List Byte) (c : Cmd), s.hub.brd.upd = some (f.val, token, bs) → s.hub.alive = true →
    s.hub.cmdOf f.val = some c → c.code = 0x20 →
    exec (.imageUpdateDone f true) s = .next { s with
      vault := s.vault.programmed s.hub.brd.bank token bs,
      hub := ({ s.hub with brd := { s.hub.brd with upd := none } } : Hub).cmdEnd c stOk fun o => { o with progress := o.total, final := o.total } } ∧
    ∃ t : State, exec (.imageUpdateDone f false) s = .next t ∧ t.vault.bank s.hub.brd.bank = s.vault.bank s.hub.brd.bank) ∧
  (∀ (v : Vault) (running : Bool) (bs : List Byte), (v.programmed running false bs).bank running = v.bank running ∧
    nvmRead ((v.programmed running false bs).bank (!running)) 0 bs.length = bs ∧ (v.programmed running true bs).bank running = v.bank running ∧
    nvmRead (v.programmed running true bs).token 0 bs.length = bs) ∧
  (∀ (s : State) (f : Fin 32) (c : Cmd), s.hub.cmdDue f.val 0x30 c →
    let a := bitsGet (c.w 0) 0 4
    let plane := bitsGet (c.w 0) 4 3
    let node := bitsGet (c.w 0) 8 10
    let port := bitsGet (c.w 0) 18 7
    (c.len ≠ 8 ∨ a = 0 ∨ 6 < a ∨ plane / 4 ≠ s.hub.tray → ∀ i ∈ [Instr.ovrExpel f, .ovrRestore f, .ovrMarkAbsent f, .ovrClearAbsent f,
      .ovrWiden f, .ovrHold f], exec i s = .next (s.withHub (s.hub.cmdEnd c stBadDesc id))) ∧
    (c.len = 8 → plane / 4 = s.hub.tray → (a = 1 → exec (.ovrExpel f) s = .next (s.withHub (s.hub.relayOvr f.val c))) ∧
      (a = 2 → exec (.ovrRestore f) s = .next (s.withHub (s.hub.relayOvr f.val c))) ∧
      (a = 3 → exec (.ovrMarkAbsent f) s = .next (s.withHub ((s.hub.markAbsent (BitVec.ofNat 10 node) true).cmdEnd c stOk id))) ∧
      (a = 4 → ∃ g : Hub, exec (.ovrClearAbsent f) s = .next (s.withHub (g.cmdEnd c stOk id)) ∧ g.fld (rAbsent (node / 64)) (node % 64) 1 = 0 ∧
        (∀ j ∈ g.snd.absJ, j < 72 → 1024 ≤ tget 0 s.hub.brd.joists j → s.hub.joistNode j ≠ BitVec.ofNat 10 node) ∧ g.mem = s.hub.mem) ∧
      (a = 5 → 85 < port → exec (.ovrWiden f) s = .next (s.withHub (s.hub.cmdEnd c stBadDesc id))) ∧
      (a = 5 → port ≤ 85 → exec (.ovrWiden f) s = .next (s.withHub ((s.hub.takeDown port).cmdEnd c stOk id))) ∧
      (a = 6 → ∃ g : Hub, exec (.ovrHold f) s = .next (s.withHub (g.cmdEnd c stOk id)) ∧
        g.snd.hold = (if port = 0 then none else some (s.hub.now + port * 60000000000)) ∧ g.bit rSndStat 32 = decide (port ≠ 0) ∧
        g.mem = s.hub.mem)) ∧
    (s.hub.snd.ovrCmd = none →
      ∃ g : Hub, s.hub.relayOvr f.val c = g.cmdRun c 0 ∧
        g.snd.ovr = BitVec.ofNat 16 (bitsGet (c.w 0) 0 8 + 256 * ((s.hub.snd.ovrSeq + 1) % 256)) ∧
        g.snd.ovrCmd = some { func := f.val, action := a, slot := plane % 4, until_ := s.hub.now + 2000000 } ∧ g.mem = s.hub.mem)) ∧
  (∀ (s : State) (x : Nat), s.hub.snd.hold = some x →
    (x ≤ s.hub.now → ∃ t : State, exec .ovrHoldExpiry s = .next t ∧ t.hub.snd.hold = none ∧ t.hub.bit rSndStat 32 = false ∧ s.hub.sameDataPath t.hub) ∧
    (s.hub.now < x → exec .ovrHoldExpiry s = .next s))

/-! ### Links (chapter 15) -/

/-- R403, R404, R412 to R418, R421 to R423, R353: a port trains state by state under its timeouts, chooses a width from the halves that adapted, and
narrows by REQ, ACK and COMMIT; figures of merit, test patterns, margins and modules are registers that their commands write. -/
def Obligations.LinksTrain : Prop :=
  (∀ (s : State) (p : Fin 86) (lanes : BitVec 8), s.hub.lstate p.val = lkDetect →
    (∀ i ∈ halfLanes false, lanes.getLsbD i = true) ∨ (∀ i ∈ halfLanes true, lanes.getLsbD i = true) →
    ∃ t : State, exec (.signalDetect p lanes) s = .next t ∧ t.hub.lstate p.val = lkCdr ∧ (t.hub.port p.val).stateAt = s.hub.now ∧
      (∀ i, i < 8 → (t.hub.lane (laneOf p.val i)).signalAt = if lanes.getLsbD i then some s.hub.now else none) ∧ s.hub.sameDataPath t.hub) ∧
  (∀ (s : State) (p : Fin 86), s.hub.lstate p.val = lkCdr → ∃ t : State, exec (.cdrLock p) s = .next t ∧ t.hub.lstate p.val = lkBlock ∧
    (∀ i, i < 8 → (t.hub.lane (laneOf p.val i)).huntAt = s.hub.now) ∧ s.hub.sameDataPath t.hub) ∧
  (∀ (s : State) (l : Fin 688), lkBlock ≤ s.hub.lstate (lanePort l.val) → s.hub.lstate (lanePort l.val) ≤ lkActive →
    (s.hub.lane l.val).signalAt.isSome = true →
    exec (.blockLock l) s = .next (s.withHub ((s.hub.setFld (rLstat l.val) 63 1 1).blockLockCheck (lanePort l.val)))) ∧
  (∀ (h : Hub) (p : Fin 86), h.lstate p.val = lkBlock →
    ((∀ i, i < 8 → (h.lane (laneOf p.val i)).signalAt = none ∨ h.locked (laneOf p.val i) = true) → (h.port p.val).fineAdapt = false →
      h.blockLockCheck p.val = h.setLstate p.val lkAdapt) ∧
    ((∃ i, i < 8 ∧ (h.lane (laneOf p.val i)).signalAt ≠ none ∧ h.locked (laneOf p.val i) = false) → h.blockLockCheck p.val = h)) ∧
  (∀ (s : State) (l : Fin 688), s.hub.lstate (lanePort l.val) = lkBlock ∨ s.hub.lstate (lanePort l.val) = lkAdapt →
    s.hub.locked l.val = false → (s.hub.lane l.val).signalAt.isSome = true → (s.hub.lane l.val).huntAt + 500000 ≤ s.hub.now →
    ∃ t : State, exec (.polarityHuntTimeout l) s = .next t ∧ t.hub.bit (rLstat l.val) 61 = !s.hub.bit (rLstat l.val) 61 ∧
      (t.hub.lane l.val).huntAt = s.hub.now ∧ (∀ m, m ≠ l.val → t.hub.lane m = s.hub.lane m) ∧ s.hub.sameDataPath t.hub) ∧
  (∀ (s : State) (l : Fin 688), s.hub.locked l.val = true →
    exec (.groupLock l) s = .next (s.withHub ((s.hub.setFld (rLstat l.val) 62 1 1).alignCheck (lanePort l.val)))) ∧
  (∀ (h : Hub) (p : Fin 86), h.lstate p.val = lkAlign →
    ((∀ i, i < 8 → h.laneActive (laneOf p.val i) = true → h.grouped (laneOf p.val i) = true) → h.alignCheck p.val = h.enterInit p.val ∧
      (h.alignCheck p.val).lstate p.val = lkInit ∧ ((h.alignCheck p.val).port p.val).initSent = some (h.port p.val).nextSeq) ∧
    ((∃ i, i < 8 ∧ h.laneActive (laneOf p.val i) = true ∧ h.grouped (laneOf p.val i) = false) → h.alignCheck p.val = h)) ∧
  (∀ (s : State) (l : Fin 688), s.hub.rxDoze (lanePort l.val) = false →
    (s.hub.locked l.val = true → exec (.blockLockLoss l) s = .next (s.withHub ((((s.hub.setFld (rLstat l.val) 62 2 0).setLane l.val
      { s.hub.lane l.val with huntAt := s.hub.now }).report (fltSd (laneChip l.val)) .corrected 45).laneFail l.val))) ∧
    (s.hub.grouped l.val = true → exec (.groupLockLoss l) s = .next (s.withHub (((s.hub.setFld (rLstat l.val) 62 1 0).report
      (fltSd (laneChip l.val)) .corrected 45).laneFail l.val)))) ∧
  (∀ (h : Hub) (l : Fin 688), h.linkUp (lanePort l.val) = true → h.rxDoze (lanePort l.val) = false → h.laneActive l.val = true →
    h.bit (rLstat l.val) 60 = false →
    let p := lanePort l.val
    let other := !(halfOf (l.val % 8))
    let g := (h.setFld (rLstat l.val) 60 1 1).report (fltSd (laneChip l.val)) .corrected 23
    (g.fld (rPstat p) 58 2 ≠ 3 ∨ g.halfFailed p other = true → h.laneFail l.val = g.takeDown p) ∧
    (g.fld (rPstat p) 58 2 = 3 → g.halfFailed p other = false → (g.port p).narrow = .none → h.laneFail l.val = g.narrowRequest p other)) ∧
  (∀ (s : State) (p : Fin 86) (half : Bool), s.hub.linkUp p.val = true →
    let q := s.hub.port p.val
    (q.narrow = .none → s.hub.fld (rPstat p.val) 58 2 = 3 → s.hub.halfFailed p.val half = false → exec (.narrowReqReceive p half) s =
      .next (s.withHub (s.hub.setPort p.val { q with narrow := .responding, half := half }))) ∧
    (q.narrow = .none → s.hub.fld (rPstat p.val) 58 2 = 3 → s.hub.halfFailed p.val half = true →
      exec (.narrowReqReceive p half) s = .next (s.withHub (s.hub.takeDown p.val))) ∧
    (q.narrow = .none → s.hub.fld (rPstat p.val) 58 2 ≠ 3 → s.hub.usedHalf p.val = half → exec (.narrowReqReceive p half) s = .next s) ∧
    (q.narrow = .none → s.hub.fld (rPstat p.val) 58 2 ≠ 3 → s.hub.usedHalf p.val ≠ half →
      exec (.narrowReqReceive p half) s = .next (s.withHub (s.hub.takeDown p.val))) ∧
    (q.narrow = .requested → q.half ≠ half → exec (.narrowReqReceive p half) s = .next (s.withHub (s.hub.takeDown p.val))) ∧
    (q.narrow = .requested → q.half = half → q.hello.sideA = true → exec (.narrowReqReceive p half) s = .next s) ∧
    (q.narrow = .requested → q.half = half → q.hello.sideA = false → exec (.narrowReqReceive p half) s =
      .next (s.withHub (s.hub.setPort p.val { q with narrow := .responding }))) ∧
    (q.narrow = .responding → exec (.narrowReqReceive p half) s = .next (s.withHub (s.hub.setPort p.val { q with deferred := some half }))) ∧
    (q.narrow = .requested → q.half = half → exec (.narrowAckReceive p half) s = .next (s.withHub (s.hub.narrowDone p.val half))) ∧
    (q.narrow = .responding → q.half = half → exec (.narrowCommitReceive p half) s = .next (s.withHub (s.hub.narrowDone p.val half))) ∧
    (q.narrow = .requested → q.narrowAt + 10000 ≤ s.hub.now → exec (.narrowAckTimeout p) s = .next (s.withHub (s.hub.takeDown p.val)))) ∧
  (∀ (h : Hub) (p : Fin 86) (hi : Bool), (h.port p.val).deferred ≠ some (!hi) →
    let g := h.narrowDone p.val hi
    g.fld (rPstat p.val) 58 2 = (if hi then 2 else 1) ∧ g.fld (rPstat p.val) 8 8 = (if hi then 0xF0 else 0x0F) ∧ (g.port p.val).narrow = .none ∧
      (g.port p.val).deferred = none ∧ g.reg (rLaneFail p.val) = (h.count (rLaneFail p.val)).reg (rLaneFail p.val) ∧ g.lstate p.val = h.lstate p.val) ∧
  (∀ (s : State) (l : Fin 688) (w : TrainingWord),
    let p := lanePort l.val
    (w.magic ≠ 0x4B1A → exec (.trainingWordReceive l w) s = .next s) ∧
    (w.magic = 0x4B1A → lkCdr ≤ s.hub.lstate p → s.hub.lstate p ≤ lkAdapt →
      let x := (s.hub.lane l.val).tuned (s.hub.presetOf p) w.coefReq
      let h1 := s.hub.setLane l.val { x with ready := w.ready, widths := w.widths.toNat, number := some w.lane.toNat }
      let g := h1.setPort p { h1.port p with offers := w.widths.toNat }
      (g.bit (rPstat p) 55 = true ∨ g.runsReverse p = false → exec (.trainingWordReceive l w) s = .next (s.withHub g)) ∧
      (g.bit (rPstat p) 55 = false → g.runsReverse p = true → exec (.trainingWordReceive l w) s = .next (s.withHub (g.reverseLanes p))))) ∧
  (∀ (x : Lane) (preset : Nat) (req : BitVec 8) (i : Nat), i < 4 →
    let t := (x.tuned preset req).taps.getD i 0
    let r := req.toNat / 4 ^ i % 4
    (r = 0 → t = x.taps.getD i 0 ∧ (x.tuned preset req).coefStat / 4 ^ i % 4 = 0) ∧
    (r = 1 → x.taps.getD i 0 < (Config.tapSpan preset i).2 → t = x.taps.getD i 0 + 1 ∧ (x.tuned preset req).coefStat / 4 ^ i % 4 = 1) ∧
    (r = 1 → (Config.tapSpan preset i).2 ≤ x.taps.getD i 0 → t = x.taps.getD i 0 ∧ (x.tuned preset req).coefStat / 4 ^ i % 4 = 3) ∧
    (r = 2 → -((Config.tapSpan preset i).1 : Int) < x.taps.getD i 0 → t = x.taps.getD i 0 - 1 ∧ (x.tuned preset req).coefStat / 4 ^ i % 4 = 1) ∧
    (r = 2 → x.taps.getD i 0 ≤ -((Config.tapSpan preset i).1 : Int) → t = x.taps.getD i 0 ∧ (x.tuned preset req).coefStat / 4 ^ i % 4 = 2) ∧
    (r = 3 → t = 0 ∧ (x.tuned preset req).coefStat / 4 ^ i % 4 = 1)) ∧
  (∀ (h : Hub) (p : Fin 86), (h.reverseLanes p.val).bit (rPstat p.val) 55 = true ∧
    ∀ i, i < 8 → (h.reverseLanes p.val).lane (laneOf p.val i) = h.lane (laneOf p.val (7 - i)) ∧
      (h.reverseLanes p.val).reg (rLstat (laneOf p.val i)) = h.reg (rLstat (laneOf p.val (7 - i)))) ∧
  (∀ (s : State) (p : Fin 86),
    let w := s.hub.chooseWidth p.val
    s.hub.lstate p.val = lkAdapt → w ≠ 0 → (∀ i, i < 8 → (widthLanes w).testBit i = true → (s.hub.lane (laneOf p.val i)).ready = true) →
    ∃ g : Hub, exec (.adaptDone p) s = .next (s.withHub (g.alignCheck p.val)) ∧ g.lstate p.val = lkAlign ∧ g.fld (rPstat p.val) 58 2 = w ∧
      g.fld (rPstat p.val) 8 8 = widthLanes w ∧ (∀ i, i < 8 → s.hub.adaptFailed (laneOf p.val i) = true → g.bit (rLstat (laneOf p.val i)) 60 = true)) ∧
  (∀ (h : Hub) (p : Fin 86), (h.chooseWidth p.val = 3 → (h.port p.val).offers.testBit 0 = true) ∧
    ∀ i, i < 8 → (widthLanes (h.chooseWidth p.val)).testBit i = true → h.adaptFailed (laneOf p.val i) = false) ∧
  (∀ (s : State) (p : Fin 86) (n : Nat), trainTimeout (s.hub.lstate p.val) = some n →
    ((s.hub.port p.val).stateAt + n ≤ s.hub.now → exec (.trainingTimeout p) s = .next (s.withHub (s.hub.trainFail p.val))) ∧
    (s.hub.now < (s.hub.port p.val).stateAt + n → exec (.trainingTimeout p) s = .next s)) ∧
  (trainTimeout lkCdr = some 1000000 ∧ trainTimeout lkBlock = some 2000000 ∧ trainTimeout lkAdapt = some 150000000 ∧
    trainTimeout lkAlign = some 1000000 ∧ trainTimeout lkInit = some 100000) ∧
  (∀ (s : State) (p : Fin 86), s.hub.lstate p.val = lkDown → (s.hub.port p.val).stateAt + 100000000 ≤ s.hub.now → s.hub.mayTrain p.val = true →
    ∃ t : State, exec (.downRetryExpiry p) s = .next t ∧ t.hub.lstate p.val = lkDetect ∧ (t.hub.port p.val).stateAt = s.hub.now ∧
      ∀ i, i < 8 → (t.hub.lane (laneOf p.val i)).signalAt = none ∧ t.hub.bit (rLstat (laneOf p.val i)) 60 = false) ∧
  (∀ (s : State) (l : Fin 688) (height amplitude : Nat), s.hub.adapted (lanePort l.val) = true → 3 ≤ amplitude →
    ∃ t : State, exec (.fomMeasure l height amplitude) s = .next t ∧ t.hub.fom l.val = min 1023 (1024 * height / (amplitude / 3)) ∧
      (∀ m : Fin 688, m ≠ l → t.hub.fom m.val = s.hub.fom m.val) ∧ s.hub.sameDataPath t.hub) ∧
  (∀ (s : State) (p : Fin 86) (v : Word), s.hub.regLive (rPctl p.val) = true →
    exec (.lnkPctlEnable p { value := v }) s = .next (s.withHub (s.hub.pctlWrite p.val { value := v })) ∧
    exec (.lnkPctlRetrain p { value := v }) s = .next (s.withHub (s.hub.pctlWrite p.val { value := v }))) ∧
  (∀ (h : Hub) (p : Fin 86) (v : Word), bitAt v 57 = false →
    let h1 := h.setReg (rPctl p.val) (({ value := v } : Access).merge (rwMask (rPctl p.val)) (h.reg (rPctl p.val)))
    (bitAt v 63 = true → bitAt v 58 = false → h.lstate p.val = lkOff → h1.mayTrain p.val = true →
      h.pctlWrite p.val { value := v } = h1.enterDetect p.val) ∧
    (bitAt v 63 = false → bitAt v 58 = false → h.lstate p.val ≠ lkOff → h.pctlWrite p.val { value := v } = h1.portOff p.val ∧
      (h1.portOff p.val).lstate p.val = lkOff) ∧
    (bitAt v 63 = true → bitAt v 58 = true → h.lstate p.val ≠ lkOff → h.pctlWrite p.val { value := v } =
      if (h1.takeDown p.val).fld (rPctl p.val) 60 2 % 3 = 0 then (h1.takeDown p.val).deepExit p.val else h1.takeDown p.val)) ∧
  (∀ (s : State) (l : Fin 688) (v : Word), s.hub.regLive (rPrbs l.val) = true →
    (s.hub.prbsOpen l.val = false → exec (.lnkPrbsWrite l { value := v }) s = .next s ∧ exec (.prbsInject l) s = .next s) ∧
    (s.hub.prbsOpen l.val = true → bitAt v 57 = false → ∃ t : State, exec (.lnkPrbsWrite l { value := v }) s = .next t ∧
      (t.hub.bit (rPrbs l.val) 63 = bitAt v 63 ∧ t.hub.bit (rPrbs l.val) 62 = bitAt v 62 ∧ t.hub.fld (rPrbs l.val) 58 2 = bitsGet v 58 2) ∧
      (bitAt v 62 = false → t.hub.bit (rPrbs l.val) 51 = false) ∧ s.hub.sameDataPath t.hub) ∧
    (s.hub.prbsOpen l.val = true → s.hub.bit (rPrbs l.val) 63 = true → s.hub.bit (rPrbs l.val) 62 = true → s.hub.bit (rPrbs l.val) 51 = true →
      s.hub.fld (rPrbs l.val) 58 2 = 1 → ∃ t : State, exec (.prbsInject l) s = .next t ∧
        t.hub.fld (rPrbs l.val) 0 32 = min (s.hub.fld (rPrbs l.val) 0 32 + 1) (2 ^ 32 - 1) ∧ s.hub.sameDataPath t.hub) ∧
    (s.hub.prbsOpen l.val = true → s.hub.bit (rPrbs l.val) 62 = true → s.hub.bit (rPrbs l.val) 51 = false →
      ∃ t : State, exec (.prbsCheckerSync l) s = .next t ∧ t.hub.bit (rPrbs l.val) 51 = true ∧ t.hub.fld (rPrbs l.val) 0 32 = 0 ∧ s.hub.sameDataPath t.hub)) ∧
  (∀ (s : State) (l : Fin 688) (a b : Nat), s.hub.adapted (lanePort l.val) = true → ∃ t : State, exec (.marginSample l a b) s = .next t ∧
    t.hub.fld (rLstat l.val) 40 8 = min a 255 ∧ t.hub.fld (rLstat l.val) 32 8 = min b 255 ∧ t.hub.fom l.val = s.hub.fom l.val ∧
    s.hub.sameDataPath t.hub) ∧
  (∀ (s : State) (x : Fin 8), s.hub.regLive (rMod x.val) = true →
    (∃ t : State, exec (.modulePoll x none) s = .next t ∧ t.hub.bit (rMod x.val) 63 = false ∧
      (∀ k, k < 63 → t.hub.bit (rMod x.val) k = s.hub.bit (rMod x.val) k) ∧ s.hub.sameDataPath t.hub) ∧
    (∀ m : ModuleRead, ∃ t : State, exec (.modulePoll x (some m)) s = .next t ∧ t.hub.bit (rMod x.val) 63 = true ∧ t.hub.bit (rMod x.val) 62 = m.alarm ∧
      t.hub.fld (rMod x.val) 8 8 = m.temp.toNat ∧ t.hub.fld (rMod x.val) 0 8 = m.state.toNat ∧
      (∀ v ∈ m.powers, m.powers = [v] → t.hub.fld (rMod x.val) 32 16 = ofInt 16 (powerOf v.toNat)) ∧
      t.hub.fld (rMod x.val) 16 16 = s.hub.fld (rMod x.val) 16 16 ∧ s.hub.sameDataPath t.hub) ∧
    (∀ v : BitVec 16, ∃ t : State, exec (.moduleInsertion x v) s = .next t ∧ t.hub.fld (rMod x.val) 16 16 = ofInt 16 (powerOf v.toNat) ∧
      t.hub.fld (rMod x.val) 32 16 = s.hub.fld (rMod x.val) 32 16 ∧ s.hub.sameDataPath t.hub)) ∧
  (powerOf 0 = -400 ∧ powerOf 10000 = 0 ∧ powerOf 1 = -400 ∧ powerOf 20000 = 30) ∧
  (∀ (s : State) (p : Fin 86), s.hub.linkUp p.val = true →
    let x := (s.hub.port p.val).hello
    (x.rekey = false → exec (.linkRekeyStart p) s = .next (s.withHub (s.hub.helloOffer p.val
      { x with rekey := true, sentProof := false, gotProof := false, peerOffer := [], nextTx := {}, nextRx := {} }))) ∧
    (x.rekey = true → exec (.linkRekeyStart p) s = .next s)) ∧
  (∀ (s : State) (p : Fin 86), (s.hub.port p.val).sealing = true →
    (2 ^ 41 ≤ (s.hub.port p.val).tx.count ∨ 2 ^ 41 ≤ (s.hub.port p.val).rxCount →
      exec (.linkCounterExhausted p) s = .next (s.withHub (s.hub.takeDown p.val))) ∧
    ((s.hub.port p.val).tx.count < 2 ^ 41 → (s.hub.port p.val).rxCount < 2 ^ 41 → exec (.linkCounterExhausted p) s = .next s))

/-! ### Sounding and planks (chapters 14 and 15) -/

/-- R381 to R392, R405 to R409, R419, R420: a token of the stated form goes out on every port that is up; an evaluation scores the ports, applies the
rules and lets the arbiter order an expulsion only within budget and floor; planks are taken in sequence, acknowledged and replayed, and a port dozes
and sleeps when nothing is owed. -/
def Obligations.SoundingAndPlanksAct : Prop :=
  (∀ s : State, exec .soundTokenSend s = .next (s.withHub ((List.range 86).foldl Hub.sendToken s.hub))) ∧
  (∀ (h : Hub) (p : Nat), (h.linkUp p = false → h.sendToken p = h) ∧ (h.linkUp p = true → h.sendToken p =
    ({ h with snd := { h.snd with sent := tset 0 h.snd.sent p (tget 0 h.snd.sent p + 1) } } : Hub).sendLocalD p
      (h.mgt 0 0 (h.tokenBytes p (tget 0 h.snd.sent p + 1))))) ∧
  (∀ (h : Hub) (p seq : Nat), (∀ x, h.snd.order = some x → x < 4) → tokenOk (h.tokenBytes p seq) = true) ∧
  (∀ (s : State) (p : Fin 86), s.hub.domainOn 2 = true → p.val ∉ s.hub.snd.silent →
    (∀ t, tget none s.hub.snd.tokens p.val = some t → t.time + 1000000 ≤ s.hub.now) →
    (tget none s.hub.snd.tokens p.val = none → 1000000 ≤ s.hub.now) →
    exec (.linkSilent p) s = .next (s.withHub { s.hub with snd := { s.hub.snd with silent := s.hub.snd.silent ++ [p.val] } })) ∧
  (∀ (s : State) (m : Measures), (s.hub.domainOn 2 = false → exec (.soundingEvaluate m) s = .next s) ∧
    (s.hub.domainOn 2 = true →
      let g := ({ s.hub with snd := { s.hub.snd with slack := m.slack, tj := m.tj } } : Hub).scorePorts
      let g1 := (List.range 86).foldl Hub.ruleNarrow (g.setFld rSndStat 56 8 g.hubScore)
      let g2 := ((List.range 14).map (72 + ·)).foldl Hub.ruleDeweight ((List.range 72).foldl Hub.ruleDetour g1)
      let g3 := (List.range 3).foldl Hub.rulePeerAbsent ((List.range 72).foldl Hub.ruleAbsent g2)
      let g4 := g3.arbitrate.recordLosses.takeOrders.takeOvrs.orderDone.decideExpel.decideSuspect
      exec (.soundingEvaluate m) s = .next (s.withHub (g4.ovrCheck.redraw).updateStat))) ∧
  (∀ (h : Hub) (p : Fin 86), h.scorePorts.pscore p.val = h.scoreOf p.val ∧ (h.linkUp p.val = false → h.scoreOf p.val = 0)) ∧
  (∀ h : Hub, h.decideExpel.snd.order = h.snd.order ∨ (h.snd.isArb = true ∧ h.snd.hold = none ∧ h.snd.order = none ∧ h.inBudget = true ∧
    h.inFloor = true ∧ h.peersFresh = true)) ∧
  (∀ (h : Hub) (x : Nat), (h.orderExpel x).snd.order = some x ∧ (h.orderExpel x).snd.expels = (h.agedAt 0 :: h.snd.expels).take 4) ∧
  (∀ h : Hub, h.becomeExpelled.snd.expelled = true) ∧
  (∀ (s : State) (p : Fin 86) (k : Plank),
    let l := laneOf p.val k.lane.val
    (s.hub.mission p.val = false ∨ s.hub.laneActive l = false → exec (.plankReceive p k) s = .next s) ∧
    (s.hub.mission p.val = true → s.hub.laneActive l = true →
      (k.decoded = false → exec (.plankReceive p k) s = .next (s.withHub (s.hub.badCodeword p.val l))) ∧
      (let h := s.hub.setLane l { s.hub.lane l with uncorr := 0 }
       (k.decoded = true → k.symbols = 0 → exec (.plankReceive p k) s = .next (s.withHub (h.takePlank p k))) ∧
       (k.decoded = true → k.symbols ≠ 0 → exec (.plankReceive p k) s = .next (s.withHub
         ((((h.count (rCwCorr p.val)).countBy (rSymCorr p.val) (min k.symbols 8)).noteErr p.val 0).takePlank p k)))))) ∧
  (∀ (h : Hub) (p : Fin 86) (k : Plank), (k.body = .reserved → h.takePlank p k = h) ∧
    (k.body.sequenced = true → k.pseq.toNat ≠ (h.port p.val).expect → ((h.takePlank p k).port p.val).rplSent = true ∧
      ((h.takePlank p k).port p.val).expect = (h.port p.val).expect ∧ (h.takePlank p k).swc = h.swc)) ∧
  (∀ (h : Hub) (p : Fin 86), ((h.acceptPlank p.val).port p.val).expect = ((h.port p.val).expect + 1) % 4096 ∧
    ((h.acceptPlank p.val).port p.val).rplSent = false) ∧
  (∀ (h : Hub) (p : Fin 86) (ack i : Nat), ((h.port p.val).unacked.findIdx? fun k => decide (k.pseq = ack)) = some i →
    ((h.takeAck p.val ack).port p.val).unacked = (h.port p.val).unacked.drop (i + 1) ∧ ((h.takeAck p.val ack).port p.val).replays = 0 ∧
      ((h.takeAck p.val ack).port p.val).progressAt = h.now) ∧
  (∀ (s : State) (p : Fin 86), s.hub.mission p.val = true →
    ((s.hub.port p.val).wantReplay = true → (s.hub.port p.val).unacked ≠ [] → (s.hub.port p.val).resentAt + (s.hub.port p.val).rtt ≤ s.hub.now →
      exec (.replayResend p) s = .next (s.withHub (s.hub.replay p.val))) ∧
    ((s.hub.port p.val).unacked ≠ [] → (s.hub.port p.val).progressAt + 4000 ≤ s.hub.now →
      exec (.replayTimerExpiry p) s = .next (s.withHub (s.hub.replay p.val)))) ∧
  (∀ (h : Hub) (p : Fin 86), (8 ≤ (h.port p.val).replays → h.replay p.val = h.takeDown p.val) ∧
    ((h.port p.val).replays < 8 → ((h.replay p.val).port p.val).replays = (h.port p.val).replays + 1 ∧
      ((h.replay p.val).port p.val).wantReplay = false ∧
      (((h.replay p.val).port p.val).unacked.map fun k => k.pseq) = ((h.port p.val).unacked.map fun k => k.pseq) ∧
      (h.replay p.val).reg (rReplay p.val) = (h.count (rReplay p.val)).reg (rReplay p.val) ∧ (h.replay p.val).lstate p.val = h.lstate p.val)) ∧
  (∀ (s : State) (p : Fin 86),
    (s.hub.mayDoze p.val = true → ∃ t : State, exec (.dozeEnter p) s = .next t ∧ t.hub.bit (rPstat p.val) 57 = true ∧
      (t.hub.port p.val).nextSeq = ((s.hub.port p.val).nextSeq + 1) % 4096 ∧ s.hub.sameDataPath t.hub) ∧
    (s.hub.mayDoze p.val = false → exec (.dozeEnter p) s = .next s) ∧
    (s.hub.linkUp p.val = true → s.hub.wakeEvent p.val = true → exec (.dozeWake p) s = .next (s.withHub (s.hub.txWake p.val))) ∧
    (s.hub.linkUp p.val = true → s.hub.pstate p.val = 2 → (s.hub.port p.val).unacked = [] → s.hub.hasPackets p.val = false →
      (s.hub.port p.val).deepReq = none → (s.hub.port p.val).narrow = .none → ∃ t : State, exec (.deepRequest p) s = .next t ∧
        t.hub.bit (rPstat p.val) 57 = true ∧ (t.hub.port p.val).deepReq = some s.hub.now ∧
        (t.hub.port p.val).nextSeq = ((s.hub.port p.val).nextSeq + 1) % 4096 ∧ s.hub.sameDataPath t.hub) ∧
    (∀ x, (s.hub.port p.val).deepReq = some x → x + 10000 ≤ s.hub.now → exec (.deepRequestTimeout p) s =
      .next (s.withHub (s.hub.setPort p.val { s.hub.port p.val with deepReq := none }))) ∧
    (s.hub.lstate p.val = lkDeep → ∃ t : State, exec (.deepExit p) s = .next t ∧ t.hub.lstate p.val = lkDetect ∧ (t.hub.port p.val).fineAdapt = true) ∧
    (s.hub.lstate p.val ≠ lkDeep → exec (.deepExit p) s = .next s))
end

