-- ==== Sys2Proof/Laws/Table.lean ====
section
/-! SUPPORT. Sparse tables and bit fields: what a read gives after a write, and the canonical form that every operation keeps. -/
namespace Sys2Proof.Machine

/-! ### A read after a write -/

theorem tget_tput_self {α : Type} (d : α) (t : Table α) (k : Nat) (v : α) : tget d (tput t k v) k = v := by
  induction t with
  | nil => simp [tput, tget]
  | cons e r ih =>
    obtain ⟨a, u⟩ := e
    simp only [tput]
    split
    · simp [tget]
    · split
      · simp [tget]
      · simp [tget, *]

theorem tget_tput_ne {α : Type} (d : α) (t : Table α) {k j : Nat} (v : α) (h : j ≠ k) :
    tget d (tput t k v) j = tget d t j := by
  induction t with
  | nil => simp [tput, tget, Ne.symm h]
  | cons e r ih =>
    obtain ⟨a, u⟩ := e
    simp only [tput]
    split
    · subst a; simp [tget, Ne.symm h]
    · split
      · simp [tget, Ne.symm h]
      · simp [tget, ih]

theorem tget_tdel_self {α : Type} (d : α) (t : Table α) (k : Nat) : tget d (tdel t k) k = d := by
  induction t with
  | nil => rfl
  | cons e r ih =>
    obtain ⟨a, u⟩ := e
    simp only [tdel]
    split
    · exact ih
    · simp [tget, *]

theorem tget_tdel_ne {α : Type} (d : α) (t : Table α) {k j : Nat} (h : j ≠ k) : tget d (tdel t k) j = tget d t j := by
  induction t with
  | nil => rfl
  | cons e r ih =>
    obtain ⟨a, u⟩ := e
    simp only [tdel]
    split
    · subst a; simp [tget, Ne.symm h, ih]
    · simp [tget, ih]

/-- An entry set is the entry read. -/
@[simp] theorem tget_tset_self {α : Type} [DecidableEq α] (d : α) (t : Table α) (k : Nat) (v : α) :
    tget d (tset d t k v) k = v := by
  unfold tset
  split
  · subst v; exact tget_tdel_self d t k
  · exact tget_tput_self d t k v

/-- Setting an entry leaves every other entry. -/
theorem tget_tset_ne {α : Type} [DecidableEq α] (d : α) (t : Table α) {k j : Nat} (v : α) (h : j ≠ k) :
    tget d (tset d t k v) j = tget d t j := by
  unfold tset
  split
  · exact tget_tdel_ne d t h
  · exact tget_tput_ne d t v h

/-- A run of entries set leaves every entry outside the run. -/
theorem tget_tsetRun_out {α : Type} [DecidableEq α] (d : α) (vs : List α) :
    ∀ (t : Table α) (k j : Nat), (j < k ∨ k + vs.length ≤ j) → tget d (tsetRun d t k vs) j = tget d t j := by
  induction vs with
  | nil => intro t k j _; rfl
  | cons v vs ih =>
    intro t k j h
    simp only [List.length_cons] at h
    simp only [tsetRun]
    rw [ih _ _ _ (by omega), tget_tset_ne d t v (by omega)]

/-- A run of entries set reads back. -/
theorem tget_tsetRun_in {α : Type} [DecidableEq α] (d : α) (vs : List α) :
    ∀ (t : Table α) (k i : Nat), i < vs.length → tget d (tsetRun d t k vs) (k + i) = vs.getD i d := by
  induction vs with
  | nil => intro t k i h; simp at h
  | cons v vs ih =>
    intro t k i h
    simp only [tsetRun]
    cases i with
    | zero => rw [tget_tsetRun_out d vs _ _ _ (by omega)]; simp
    | succ i =>
      have := ih (tset d t k v) (k + 1) i (by simpa using h)
      rw [show k + (i + 1) = k + 1 + i by omega, this]; simp

theorem tgetRun_length {α : Type} (d : α) (t : Table α) : ∀ (n k : Nat), (tgetRun d t k n).length = n := by
  intro n
  induction n with
  | zero => intro k; rfl
  | succ n ih => intro k; simp [tgetRun, ih]

/-- A run read is the entries one by one. -/
theorem tgetRun_getD {α : Type} (d : α) (t : Table α) : ∀ (n k i : Nat), i < n → (tgetRun d t k n).getD i d = tget d t (k + i) := by
  intro n
  induction n with
  | zero => intro k i h; omega
  | succ n ih =>
    intro k i h
    cases i with
    | zero => simp [tgetRun]
    | succ i =>
      have := ih (k + 1) i (by omega)
      simp only [tgetRun, List.getD_cons_succ, this]
      congr 1; omega

/-- Runs that agree entry by entry are equal. -/
theorem tgetRun_congr {α : Type} (d : α) (t u : Table α) : ∀ (n k : Nat),
    (∀ i, k ≤ i → i < k + n → tget d t i = tget d u i) → tgetRun d t k n = tgetRun d u k n := by
  intro n
  induction n with
  | zero => intro k _; rfl
  | succ n ih =>
    intro k h
    simp only [tgetRun]
    rw [h k (by omega) (by omega), ih (k + 1) (fun i h1 h2 => h i (by omega) (by omega))]

/-- A run of entries set, read back whole. -/
theorem tgetRun_tsetRun {α : Type} [DecidableEq α] (d : α) (vs : List α) :
    ∀ (t : Table α) (k : Nat), tgetRun d (tsetRun d t k vs) k vs.length = vs := by
  induction vs with
  | nil => intro t k; rfl
  | cons v vs ih =>
    intro t k
    simp only [List.length_cons, tgetRun, tsetRun, ih]
    rw [tget_tsetRun_out d vs _ _ _ (by omega)]; simp

/-! ### The canonical form -/

/-- The canonical form as a chain of rising keys and a bound on the first. -/
theorem twf_cons {α : Type} [DecidableEq α] (d : α) (a : Nat) (v : α) (r : Table α) :
    twf d ((a, v) :: r) = true ↔ v ≠ d ∧ (∀ e ∈ r, a < e.1) ∧ twf d r = true := by
  induction r generalizing a v with
  | nil => simp [twf]
  | cons e r ih =>
    obtain ⟨b, u⟩ := e
    rw [twf]
    simp only [Bool.and_eq_true, Bool.not_eq_true', decide_eq_false_iff_not, decide_eq_true_eq, List.mem_cons, forall_eq_or_imp]
    constructor
    · rintro ⟨⟨hv, hab⟩, hw⟩
      refine ⟨hv, ⟨hab, ?_⟩, hw⟩
      intro e he
      exact Nat.lt_trans hab (((ih b u).1 hw).2.1 e he)
    · rintro ⟨hv, ⟨hab, _⟩, hw⟩
      exact ⟨⟨hv, hab⟩, hw⟩

theorem mem_tput {α : Type} (t : Table α) (k : Nat) (v : α) : ∀ e ∈ tput t k v, e = (k, v) ∨ e ∈ t := by
  induction t with
  | nil => simp [tput]
  | cons e r ih =>
    obtain ⟨a, u⟩ := e
    simp only [tput]
    intro e he
    split at he
    · simp only [List.mem_cons] at he ⊢; tauto
    · split at he
      · simp only [List.mem_cons] at he ⊢; tauto
      · simp only [List.mem_cons] at he ⊢
        rcases he with he | he
        · tauto
        · rcases ih e he with h | h <;> tauto

theorem mem_tdel {α : Type} (t : Table α) (k : Nat) : ∀ e ∈ tdel t k, e ∈ t := by
  induction t with
  | nil => simp [tdel]
  | cons e r ih =>
    obtain ⟨a, u⟩ := e
    simp only [tdel]
    intro e he
    split at he
    · exact List.mem_cons_of_mem _ (ih e he)
    · simp only [List.mem_cons] at he ⊢
      rcases he with he | he
      · exact Or.inl he
      · exact Or.inr (ih e he)

/-- A value other than the default keeps the canonical form. -/
theorem twf_tput {α : Type} [DecidableEq α] (d : α) (t : Table α) (k : Nat) (v : α) (hv : v ≠ d) (h : twf d t = true) :
    twf d (tput t k v) = true := by
  induction t with
  | nil => simp [tput, twf, hv]
  | cons e r ih =>
    obtain ⟨a, u⟩ := e
    obtain ⟨hu, ha, hr⟩ := (twf_cons d a u r).1 h
    simp only [tput]
    split
    · subst a; exact (twf_cons d _ v r).2 ⟨hv, ha, hr⟩
    · split
      · refine (twf_cons d k v _).2 ⟨hv, ?_, h⟩
        intro e he
        simp only [List.mem_cons] at he
        rcases he with he | he
        · subst he; assumption
        · exact Nat.lt_trans ‹_› (ha e he)
      · refine (twf_cons d a u _).2 ⟨hu, ?_, ih hr⟩
        intro e he
        rcases mem_tput r k v e he with he | he
        · subst he; simp only; omega
        · exact ha e he

/-- Removing an entry keeps the canonical form. -/
theorem twf_tdel {α : Type} [DecidableEq α] (d : α) (t : Table α) (k : Nat) (h : twf d t = true) : twf d (tdel t k) = true := by
  induction t with
  | nil => rfl
  | cons e r ih =>
    obtain ⟨a, u⟩ := e
    obtain ⟨hu, ha, hr⟩ := (twf_cons d a u r).1 h
    simp only [tdel]
    split
    · exact ih hr
    · exact (twf_cons d a u _).2 ⟨hu, fun e he => ha e (mem_tdel r k e he), ih hr⟩

/-- Setting an entry keeps the canonical form. -/
theorem twf_tset {α : Type} [DecidableEq α] (d : α) (t : Table α) (k : Nat) (v : α) (h : twf d t = true) :
    twf d (tset d t k v) = true := by
  unfold tset
  split
  · exact twf_tdel d t k h
  · exact twf_tput d t k v ‹_› h

/-- Setting a run of entries keeps the canonical form. -/
theorem twf_tsetRun {α : Type} [DecidableEq α] (d : α) (vs : List α) :
    ∀ (t : Table α) (k : Nat), twf d t = true → twf d (tsetRun d t k vs) = true := by
  induction vs with
  | nil => intro t k h; exact h
  | cons v vs ih => intro t k h; exact ih _ _ (twf_tset d t k v h)

/-- Keeping some entries keeps the canonical form. -/
theorem twf_filter {α : Type} [DecidableEq α] (d : α) (p : Nat × α → Bool) (t : Table α) (h : twf d t = true) :
    twf d (t.filter p) = true := by
  induction t with
  | nil => rfl
  | cons e r ih =>
    obtain ⟨a, u⟩ := e
    obtain ⟨hu, ha, hr⟩ := (twf_cons d a u r).1 h
    rw [List.filter_cons]
    split
    · exact (twf_cons d a u _).2 ⟨hu, fun e he => ha e (List.mem_of_mem_filter he), ih hr⟩
    · exact ih hr

/-! ### Bit fields -/

theorem bitAt_bitsMask (lo n i : Nat) (h : lo + n ≤ 64) : bitAt (bitsMask lo n) i = (decide (lo ≤ i) && decide (i < lo + n)) := by
  unfold bitAt bitsMask
  rw [BitVec.getLsbD_ofNat, Nat.testBit_shiftLeft, Nat.testBit_two_pow_sub_one]
  by_cases h1 : lo ≤ i <;> by_cases h2 : i < lo + n <;> simp [h1, h2] <;> omega

theorem bitAt_bitsPut (w : Word) (lo n v i : Nat) (h : lo + n ≤ 64) :
    bitAt (bitsPut w lo n v) i = if lo ≤ i ∧ i < lo + n then v.testBit (i - lo) else bitAt w i := by
  have hm := bitAt_bitsMask lo n i h
  unfold bitAt at *
  unfold bitsPut
  rw [BitVec.getLsbD_or, BitVec.getLsbD_and, BitVec.getLsbD_not, hm, BitVec.getLsbD_ofNat, Nat.testBit_shiftLeft,
    Nat.testBit_mod_two_pow]
  by_cases h1 : lo ≤ i <;> by_cases h2 : i < lo + n
  · have h3 : i < 64 := by omega
    have h4 : i - lo < n := by omega
    simp [h1, h2, h3, h4]
  · have h4 : ¬ i - lo < n := by omega
    have h5 : i < 64 → True := fun _ => trivial
    by_cases h3 : i < 64
    · simp [h1, h2, h3, h4]
    · have : w.getLsbD i = false := BitVec.getLsbD_of_ge w i (by omega)
      simp [h1, h2, h3, this]
  · by_cases h3 : i < 64
    · simp [h1, h3]
    · have : w.getLsbD i = false := BitVec.getLsbD_of_ge w i (by omega)
      simp [h1, h3, this]
  · omega

theorem testBit_bitsGet (w : Word) (lo n i : Nat) : (bitsGet w lo n).testBit i = (decide (i < n) && bitAt w (lo + i)) := by
  unfold bitsGet bitAt
  rw [Nat.testBit_mod_two_pow, Nat.testBit_shiftRight, BitVec.getLsbD]

/-- A field put is the field got. -/
theorem bitsGet_bitsPut_self (w : Word) (lo n v : Nat) (h : lo + n ≤ 64) : bitsGet (bitsPut w lo n v) lo n = v % 2 ^ n := by
  apply Nat.eq_of_testBit_eq
  intro i
  rw [testBit_bitsGet, bitAt_bitsPut w lo n v _ h, Nat.testBit_mod_two_pow]
  by_cases h1 : i < n <;> simp [h1]

/-- A field put leaves every field apart from it. -/
theorem bitsGet_bitsPut_ne (w : Word) (lo n v lo' n' : Nat) (h : lo + n ≤ 64) (ha : lo' + n' ≤ lo ∨ lo + n ≤ lo') :
    bitsGet (bitsPut w lo n v) lo' n' = bitsGet w lo' n' := by
  apply Nat.eq_of_testBit_eq
  intro i
  rw [testBit_bitsGet, testBit_bitsGet, bitAt_bitsPut w lo n v _ h]
  by_cases h1 : i < n'
  · have : ¬ (lo ≤ lo' + i ∧ lo' + i < lo + n) := by omega
    simp [h1, this]
  · simp [h1]

end Sys2Proof.Machine
end

