-- ==== Sys2Proof/Laws/State.lean ====
section
/-! SUPPORT. The state after each basic update: one lemma per field, and a register or field read after a write. -/
namespace Sys2Proof.Machine

/-! ### Fields that an update of a register leaves -/

@[simp] theorem Hub.setReg_now (h : Hub) (o : Nat) (w : Word) : (h.setReg o w).now = h.now := by cases h; rfl
@[simp] theorem Hub.setReg_draw (h : Hub) (o : Nat) (w : Word) : (h.setReg o w).draw = h.draw := by cases h; rfl
@[simp] theorem Hub.setReg_brd (h : Hub) (o : Nat) (w : Word) : (h.setReg o w).brd = h.brd := by cases h; rfl
@[simp] theorem Hub.setReg_plumb (h : Hub) (o : Nat) (w : Word) : (h.setReg o w).plumb = h.plumb := by cases h; rfl
@[simp] theorem Hub.setReg_sec (h : Hub) (o : Nat) (w : Word) : (h.setReg o w).sec = h.sec := by cases h; rfl
@[simp] theorem Hub.setReg_swc (h : Hub) (o : Nat) (w : Word) : (h.setReg o w).swc = h.swc := by cases h; rfl
@[simp] theorem Hub.setReg_sill (h : Hub) (o : Nat) (w : Word) : (h.setReg o w).sill = h.sill := by cases h; rfl
@[simp] theorem Hub.setReg_pegs (h : Hub) (o : Nat) (w : Word) : (h.setReg o w).pegs = h.pegs := by cases h; rfl
@[simp] theorem Hub.setReg_mts (h : Hub) (o : Nat) (w : Word) : (h.setReg o w).mts = h.mts := by cases h; rfl
@[simp] theorem Hub.setReg_mem (h : Hub) (o : Nat) (w : Word) : (h.setReg o w).mem = h.mem := by cases h; rfl
@[simp] theorem Hub.setReg_coll (h : Hub) (o : Nat) (w : Word) : (h.setReg o w).coll = h.coll := by cases h; rfl
@[simp] theorem Hub.setReg_bays (h : Hub) (o : Nat) (w : Word) : (h.setReg o w).bays = h.bays := by cases h; rfl
@[simp] theorem Hub.setReg_scr (h : Hub) (o : Nat) (w : Word) : (h.setReg o w).scr = h.scr := by cases h; rfl
@[simp] theorem Hub.setReg_host (h : Hub) (o : Nat) (w : Word) : (h.setReg o w).host = h.host := by cases h; rfl
@[simp] theorem Hub.setReg_links (h : Hub) (o : Nat) (w : Word) : (h.setReg o w).links = h.links := by cases h; rfl
@[simp] theorem Hub.setReg_snd (h : Hub) (o : Nat) (w : Word) : (h.setReg o w).snd = h.snd := by cases h; rfl
@[simp] theorem Hub.setReg_wear (h : Hub) (o : Nat) (w : Word) : (h.setReg o w).wear = h.wear := by cases h; rfl
@[simp] theorem Hub.setFld_now (h : Hub) (o lo n v : Nat) : (h.setFld o lo n v).now = h.now := by cases h; rfl
@[simp] theorem Hub.setFld_draw (h : Hub) (o lo n v : Nat) : (h.setFld o lo n v).draw = h.draw := by cases h; rfl
@[simp] theorem Hub.setFld_brd (h : Hub) (o lo n v : Nat) : (h.setFld o lo n v).brd = h.brd := by cases h; rfl
@[simp] theorem Hub.setFld_plumb (h : Hub) (o lo n v : Nat) : (h.setFld o lo n v).plumb = h.plumb := by cases h; rfl
@[simp] theorem Hub.setFld_sec (h : Hub) (o lo n v : Nat) : (h.setFld o lo n v).sec = h.sec := by cases h; rfl
@[simp] theorem Hub.setFld_swc (h : Hub) (o lo n v : Nat) : (h.setFld o lo n v).swc = h.swc := by cases h; rfl
@[simp] theorem Hub.setFld_sill (h : Hub) (o lo n v : Nat) : (h.setFld o lo n v).sill = h.sill := by cases h; rfl
@[simp] theorem Hub.setFld_pegs (h : Hub) (o lo n v : Nat) : (h.setFld o lo n v).pegs = h.pegs := by cases h; rfl
@[simp] theorem Hub.setFld_mts (h : Hub) (o lo n v : Nat) : (h.setFld o lo n v).mts = h.mts := by cases h; rfl
@[simp] theorem Hub.setFld_mem (h : Hub) (o lo n v : Nat) : (h.setFld o lo n v).mem = h.mem := by cases h; rfl
@[simp] theorem Hub.setFld_coll (h : Hub) (o lo n v : Nat) : (h.setFld o lo n v).coll = h.coll := by cases h; rfl
@[simp] theorem Hub.setFld_bays (h : Hub) (o lo n v : Nat) : (h.setFld o lo n v).bays = h.bays := by cases h; rfl
@[simp] theorem Hub.setFld_scr (h : Hub) (o lo n v : Nat) : (h.setFld o lo n v).scr = h.scr := by cases h; rfl
@[simp] theorem Hub.setFld_host (h : Hub) (o lo n v : Nat) : (h.setFld o lo n v).host = h.host := by cases h; rfl
@[simp] theorem Hub.setFld_links (h : Hub) (o lo n v : Nat) : (h.setFld o lo n v).links = h.links := by cases h; rfl
@[simp] theorem Hub.setFld_snd (h : Hub) (o lo n v : Nat) : (h.setFld o lo n v).snd = h.snd := by cases h; rfl
@[simp] theorem Hub.setFld_wear (h : Hub) (o lo n v : Nat) : (h.setFld o lo n v).wear = h.wear := by cases h; rfl
@[simp] theorem Hub.countBy_now (h : Hub) (o k : Nat) : (h.countBy o k).now = h.now := by cases h; rfl
@[simp] theorem Hub.countBy_draw (h : Hub) (o k : Nat) : (h.countBy o k).draw = h.draw := by cases h; rfl
@[simp] theorem Hub.countBy_brd (h : Hub) (o k : Nat) : (h.countBy o k).brd = h.brd := by cases h; rfl
@[simp] theorem Hub.countBy_plumb (h : Hub) (o k : Nat) : (h.countBy o k).plumb = h.plumb := by cases h; rfl
@[simp] theorem Hub.countBy_sec (h : Hub) (o k : Nat) : (h.countBy o k).sec = h.sec := by cases h; rfl
@[simp] theorem Hub.countBy_swc (h : Hub) (o k : Nat) : (h.countBy o k).swc = h.swc := by cases h; rfl
@[simp] theorem Hub.countBy_sill (h : Hub) (o k : Nat) : (h.countBy o k).sill = h.sill := by cases h; rfl
@[simp] theorem Hub.countBy_pegs (h : Hub) (o k : Nat) : (h.countBy o k).pegs = h.pegs := by cases h; rfl
@[simp] theorem Hub.countBy_mts (h : Hub) (o k : Nat) : (h.countBy o k).mts = h.mts := by cases h; rfl
@[simp] theorem Hub.countBy_mem (h : Hub) (o k : Nat) : (h.countBy o k).mem = h.mem := by cases h; rfl
@[simp] theorem Hub.countBy_coll (h : Hub) (o k : Nat) : (h.countBy o k).coll = h.coll := by cases h; rfl
@[simp] theorem Hub.countBy_bays (h : Hub) (o k : Nat) : (h.countBy o k).bays = h.bays := by cases h; rfl
@[simp] theorem Hub.countBy_scr (h : Hub) (o k : Nat) : (h.countBy o k).scr = h.scr := by cases h; rfl
@[simp] theorem Hub.countBy_host (h : Hub) (o k : Nat) : (h.countBy o k).host = h.host := by cases h; rfl
@[simp] theorem Hub.countBy_links (h : Hub) (o k : Nat) : (h.countBy o k).links = h.links := by cases h; rfl
@[simp] theorem Hub.countBy_snd (h : Hub) (o k : Nat) : (h.countBy o k).snd = h.snd := by cases h; rfl
@[simp] theorem Hub.countBy_wear (h : Hub) (o k : Nat) : (h.countBy o k).wear = h.wear := by cases h; rfl
@[simp] theorem Hub.count_now (h : Hub) (o : Nat) : (h.count o).now = h.now := by cases h; rfl
@[simp] theorem Hub.count_draw (h : Hub) (o : Nat) : (h.count o).draw = h.draw := by cases h; rfl
@[simp] theorem Hub.count_brd (h : Hub) (o : Nat) : (h.count o).brd = h.brd := by cases h; rfl
@[simp] theorem Hub.count_plumb (h : Hub) (o : Nat) : (h.count o).plumb = h.plumb := by cases h; rfl
@[simp] theorem Hub.count_sec (h : Hub) (o : Nat) : (h.count o).sec = h.sec := by cases h; rfl
@[simp] theorem Hub.count_swc (h : Hub) (o : Nat) : (h.count o).swc = h.swc := by cases h; rfl
@[simp] theorem Hub.count_sill (h : Hub) (o : Nat) : (h.count o).sill = h.sill := by cases h; rfl
@[simp] theorem Hub.count_pegs (h : Hub) (o : Nat) : (h.count o).pegs = h.pegs := by cases h; rfl
@[simp] theorem Hub.count_mts (h : Hub) (o : Nat) : (h.count o).mts = h.mts := by cases h; rfl
@[simp] theorem Hub.count_mem (h : Hub) (o : Nat) : (h.count o).mem = h.mem := by cases h; rfl
@[simp] theorem Hub.count_coll (h : Hub) (o : Nat) : (h.count o).coll = h.coll := by cases h; rfl
@[simp] theorem Hub.count_bays (h : Hub) (o : Nat) : (h.count o).bays = h.bays := by cases h; rfl
@[simp] theorem Hub.count_scr (h : Hub) (o : Nat) : (h.count o).scr = h.scr := by cases h; rfl
@[simp] theorem Hub.count_host (h : Hub) (o : Nat) : (h.count o).host = h.host := by cases h; rfl
@[simp] theorem Hub.count_links (h : Hub) (o : Nat) : (h.count o).links = h.links := by cases h; rfl
@[simp] theorem Hub.count_snd (h : Hub) (o : Nat) : (h.count o).snd = h.snd := by cases h; rfl
@[simp] theorem Hub.count_wear (h : Hub) (o : Nat) : (h.count o).wear = h.wear := by cases h; rfl
@[simp] theorem Hub.setPhase_now (h : Hub) (n : Nat) : (h.setPhase n).now = h.now := by cases h; rfl
@[simp] theorem Hub.setPhase_draw (h : Hub) (n : Nat) : (h.setPhase n).draw = h.draw := by cases h; rfl
@[simp] theorem Hub.setPhase_brd (h : Hub) (n : Nat) : (h.setPhase n).brd = h.brd := by cases h; rfl
@[simp] theorem Hub.setPhase_plumb (h : Hub) (n : Nat) : (h.setPhase n).plumb = h.plumb := by cases h; rfl
@[simp] theorem Hub.setPhase_sec (h : Hub) (n : Nat) : (h.setPhase n).sec = h.sec := by cases h; rfl
@[simp] theorem Hub.setPhase_swc (h : Hub) (n : Nat) : (h.setPhase n).swc = h.swc := by cases h; rfl
@[simp] theorem Hub.setPhase_sill (h : Hub) (n : Nat) : (h.setPhase n).sill = h.sill := by cases h; rfl
@[simp] theorem Hub.setPhase_pegs (h : Hub) (n : Nat) : (h.setPhase n).pegs = h.pegs := by cases h; rfl
@[simp] theorem Hub.setPhase_mts (h : Hub) (n : Nat) : (h.setPhase n).mts = h.mts := by cases h; rfl
@[simp] theorem Hub.setPhase_mem (h : Hub) (n : Nat) : (h.setPhase n).mem = h.mem := by cases h; rfl
@[simp] theorem Hub.setPhase_coll (h : Hub) (n : Nat) : (h.setPhase n).coll = h.coll := by cases h; rfl
@[simp] theorem Hub.setPhase_bays (h : Hub) (n : Nat) : (h.setPhase n).bays = h.bays := by cases h; rfl
@[simp] theorem Hub.setPhase_scr (h : Hub) (n : Nat) : (h.setPhase n).scr = h.scr := by cases h; rfl
@[simp] theorem Hub.setPhase_host (h : Hub) (n : Nat) : (h.setPhase n).host = h.host := by cases h; rfl
@[simp] theorem Hub.setPhase_links (h : Hub) (n : Nat) : (h.setPhase n).links = h.links := by cases h; rfl
@[simp] theorem Hub.setPhase_snd (h : Hub) (n : Nat) : (h.setPhase n).snd = h.snd := by cases h; rfl
@[simp] theorem Hub.setPhase_wear (h : Hub) (n : Nat) : (h.setPhase n).wear = h.wear := by cases h; rfl

/-! ### A free value drawn -/

@[simp] theorem Hub.redraw_regs (h : Hub) : h.redraw.regs = h.regs := by cases h; rfl
@[simp] theorem Hub.redraw_now (h : Hub) : h.redraw.now = h.now := by cases h; rfl
@[simp] theorem Hub.redraw_draw (h : Hub) : h.redraw.draw = h.draw + 1 := by cases h; rfl
@[simp] theorem Hub.redraw_brd (h : Hub) : h.redraw.brd = h.brd := by cases h; rfl
@[simp] theorem Hub.redraw_plumb (h : Hub) : h.redraw.plumb = h.plumb := by cases h; rfl
@[simp] theorem Hub.redraw_sec (h : Hub) : h.redraw.sec = h.sec := by cases h; rfl
@[simp] theorem Hub.redraw_swc (h : Hub) : h.redraw.swc = h.swc := by cases h; rfl
@[simp] theorem Hub.redraw_sill (h : Hub) : h.redraw.sill = h.sill := by cases h; rfl
@[simp] theorem Hub.redraw_pegs (h : Hub) : h.redraw.pegs = h.pegs := by cases h; rfl
@[simp] theorem Hub.redraw_mts (h : Hub) : h.redraw.mts = h.mts := by cases h; rfl
@[simp] theorem Hub.redraw_mem (h : Hub) : h.redraw.mem = h.mem := by cases h; rfl
@[simp] theorem Hub.redraw_coll (h : Hub) : h.redraw.coll = h.coll := by cases h; rfl
@[simp] theorem Hub.redraw_bays (h : Hub) : h.redraw.bays = h.bays := by cases h; rfl
@[simp] theorem Hub.redraw_scr (h : Hub) : h.redraw.scr = h.scr := by cases h; rfl
@[simp] theorem Hub.redraw_host (h : Hub) : h.redraw.host = h.host := by cases h; rfl
@[simp] theorem Hub.redraw_links (h : Hub) : h.redraw.links = h.links := by cases h; rfl
@[simp] theorem Hub.redraw_snd (h : Hub) : h.redraw.snd = h.snd := by cases h; rfl
@[simp] theorem Hub.redraw_wear (h : Hub) : h.redraw.wear = h.wear := by cases h; rfl
@[simp] theorem Hub.redraw_reg (h : Hub) (o : Nat) : h.redraw.reg o = h.reg o := by cases h; rfl

/-! ### A register read after a write -/

/-- A register written is the value read. -/
@[simp] theorem Hub.reg_setReg_self (h : Hub) (o : Nat) (w : Word) : (h.setReg o w).reg o = w := tget_tset_self _ _ _ _

/-- A write of one register leaves the others. -/
theorem Hub.reg_setReg_ne (h : Hub) {o p : Nat} (w : Word) (hne : p ≠ o) : (h.setReg o w).reg p = h.reg p := by
  unfold Hub.reg Hub.setReg tset
  simp only
  split
  · exact tget_tdel_ne _ _ hne
  · exact tget_tput_ne _ _ _ hne

/-- A register written with a field. -/
@[simp] theorem Hub.reg_setFld_self (h : Hub) (o lo n v : Nat) : (h.setFld o lo n v).reg o = bitsPut (h.reg o) lo n v :=
  Hub.reg_setReg_self _ _ _

/-- A write of a field leaves the other registers. -/
theorem Hub.reg_setFld_ne (h : Hub) {o p : Nat} (lo n v : Nat) (hne : p ≠ o) : (h.setFld o lo n v).reg p = h.reg p :=
  Hub.reg_setReg_ne h _ hne

/-- A field written is the value read. -/
theorem Hub.fld_setFld_self (h : Hub) (o lo n v : Nat) (hw : lo + n ≤ 64) : (h.setFld o lo n v).fld o lo n = v % 2 ^ n := by
  unfold Hub.fld
  rw [Hub.reg_setFld_self, bitsGet_bitsPut_self _ _ _ _ hw]

/-- A write of a field leaves the fields of its register apart from it. -/
theorem Hub.fld_setFld_apart (h : Hub) (o lo n v lo' n' : Nat) (hw : lo + n ≤ 64) (ha : lo' + n' ≤ lo ∨ lo + n ≤ lo') :
    (h.setFld o lo n v).fld o lo' n' = h.fld o lo' n' := by
  unfold Hub.fld
  rw [Hub.reg_setFld_self, bitsGet_bitsPut_ne _ _ _ _ _ _ hw ha]

/-- A write of a field leaves the fields of other registers. -/
theorem Hub.fld_setFld_ne (h : Hub) {o p : Nat} (lo n v lo' n' : Nat) (hne : p ≠ o) :
    (h.setFld o lo n v).fld p lo' n' = h.fld p lo' n' := by
  unfold Hub.fld
  rw [Hub.reg_setFld_ne h lo n v hne]

/-- A counter counts, and stops at all ones (R456). -/
theorem Hub.reg_countBy_self (h : Hub) (o k : Nat) :
    ((h.countBy o k).reg o).toNat = min ((h.reg o).toNat + k) (2 ^ 64 - 1) := by
  unfold Hub.countBy
  rw [Hub.reg_setReg_self, BitVec.toNat_ofNat]
  apply Nat.mod_eq_of_lt
  omega

/-- A counter leaves the other registers. -/
theorem Hub.reg_countBy_ne (h : Hub) {o p : Nat} (k : Nat) (hne : p ≠ o) : (h.countBy o k).reg p = h.reg p :=
  Hub.reg_setReg_ne h _ hne

/-! ### What a command's meaning answers -/

@[simp] theorem onHub_next (f : Hub → Hub) (s : State) : onHub f s = .next { s with hub := f s.hub } := rfl
@[simp] theorem onHubV_next (f : Vault → Hub → Hub) (s : State) : onHubV f s = .next { s with hub := f s.vault s.hub } := rfl
@[simp] theorem onBoth_next (f : Vault → Hub → Vault × Hub) (s : State) :
    onBoth f s = .next { s with vault := (f s.vault s.hub).1, hub := (f s.vault s.hub).2 } := rfl

end Sys2Proof.Machine
end

