-- ==== Sys2Proof/Laws/Plumb.lean ====
section
/-! SUPPORT. What an event of the plumb can change, once for every caller. -/
namespace Sys2Proof.Machine

/-- The registers that latching an event writes. -/
def latchRegs : List Nat := [rFltStatus, rFltFirst, rFltOvf, rFltLog, rFltDropped, rFltInj]

/-- An injection that is done writes FLT_ERR_INJ alone. -/
theorem Hub.injectDone_cases (h : Hub) (k : Nat) :
    ∃ regs, h.injectDone k = { h with regs := regs } ∧ ∀ o, o ≠ rFltInj → tget (resetOf o) regs o = h.reg o := by
  unfold Hub.injectDone
  split
  · exact ⟨_, rfl, fun o ho => Hub.reg_setFld_ne h 63 1 0 ho⟩
  · exact ⟨h.regs, rfl, fun _ _ => rfl⟩

/-- Latching writes its own registers and the plumb's log, and nothing else. -/
theorem Hub.latch_cases (h : Hub) (src : Nat) (c : FaultClass) (chk : BitVec 16) (det : List Word) :
    ∃ regs lg lb lc, h.latch src c chk det =
        { h with regs := regs, plumb := { h.plumb with log := lg, logBad := lb, lastCorr := lc } } ∧
      ∀ o, o ∉ latchRegs → tget (resetOf o) regs o = h.reg o := by
  have ne : ∀ {o : Nat}, o ∉ latchRegs →
      o ≠ rFltStatus ∧ o ≠ rFltFirst ∧ o ≠ rFltOvf ∧ o ≠ rFltLog ∧ o ≠ rFltDropped ∧ o ≠ rFltInj := by
    intro o ho; simpa [latchRegs] using ho
  -- the hub after FLT_STATUS and FLT_FIRST or FLT_OVF
  have first : ∃ regs, (let g := h.setFld rFltStatus src 1 1
      if g.bit rFltFirst 63 then g.setFld rFltOvf 0 1 1
      else g.setReg rFltFirst (firstWord (!decide (1024 ≤ h.logUsed) && !h.rateLimited src c) c.code src (h.fld rFltLog 32 32) chk))
      = { h with regs := regs } ∧ ∀ o, o ∉ latchRegs → tget (resetOf o) regs o = h.reg o := by
    simp only
    split
    · refine ⟨_, rfl, fun o ho => ?_⟩
      obtain ⟨h1, h2, h3, h4, h5, h6⟩ := ne ho
      exact (Hub.reg_setFld_ne _ 0 1 1 h3).trans (Hub.reg_setFld_ne h src 1 1 h1)
    · refine ⟨_, rfl, fun o ho => ?_⟩
      obtain ⟨h1, h2, h3, h4, h5, h6⟩ := ne ho
      exact (Hub.reg_setReg_ne _ _ h2).trans (Hub.reg_setFld_ne h src 1 1 h1)
  obtain ⟨regs, hr, ho⟩ := first
  simp only at hr
  unfold Hub.latch
  simp only
  rw [hr]
  split
  · obtain ⟨regs', hi, hj⟩ := ({ h with regs := regs } : Hub).injectDone_cases (({ h with regs := regs } : Hub).injected fltKrf 43)
    rw [hi]
    refine ⟨_, _, _, _, rfl, fun o hn => ?_⟩
    obtain ⟨h1, h2, h3, h4, h5, h6⟩ := ne hn
    refine (Hub.reg_setFld_ne _ 32 32 _ h4).trans ?_
    exact (hj o h6).trans (ho o hn)
  · split
    · refine ⟨_, h.plumb.log, h.plumb.logBad, h.plumb.lastCorr, rfl, fun o hn => ?_⟩
      obtain ⟨h1, h2, h3, h4, h5, h6⟩ := ne hn
      exact (Hub.reg_setFld_ne _ (16 * c.code) 16 _ h5).trans (ho o hn)
    · exact ⟨_, h.plumb.log, h.plumb.logBad, h.plumb.lastCorr, rfl, ho⟩

/-! ### Fields that an event leaves -/

@[simp] theorem Hub.latch_now (h : Hub) (src : Nat) (c : FaultClass) (chk : BitVec 16) (det : List Word) :
    (h.latch src c chk det).now = h.now := by
  obtain ⟨_, _, _, _, e, _⟩ := h.latch_cases src c chk det
  rw [e]
@[simp] theorem Hub.latch_draw (h : Hub) (src : Nat) (c : FaultClass) (chk : BitVec 16) (det : List Word) :
    (h.latch src c chk det).draw = h.draw := by
  obtain ⟨_, _, _, _, e, _⟩ := h.latch_cases src c chk det
  rw [e]
@[simp] theorem Hub.latch_brd (h : Hub) (src : Nat) (c : FaultClass) (chk : BitVec 16) (det : List Word) :
    (h.latch src c chk det).brd = h.brd := by
  obtain ⟨_, _, _, _, e, _⟩ := h.latch_cases src c chk det
  rw [e]
@[simp] theorem Hub.latch_sec (h : Hub) (src : Nat) (c : FaultClass) (chk : BitVec 16) (det : List Word) :
    (h.latch src c chk det).sec = h.sec := by
  obtain ⟨_, _, _, _, e, _⟩ := h.latch_cases src c chk det
  rw [e]
@[simp] theorem Hub.latch_swc (h : Hub) (src : Nat) (c : FaultClass) (chk : BitVec 16) (det : List Word) :
    (h.latch src c chk det).swc = h.swc := by
  obtain ⟨_, _, _, _, e, _⟩ := h.latch_cases src c chk det
  rw [e]
@[simp] theorem Hub.latch_sill (h : Hub) (src : Nat) (c : FaultClass) (chk : BitVec 16) (det : List Word) :
    (h.latch src c chk det).sill = h.sill := by
  obtain ⟨_, _, _, _, e, _⟩ := h.latch_cases src c chk det
  rw [e]
@[simp] theorem Hub.latch_pegs (h : Hub) (src : Nat) (c : FaultClass) (chk : BitVec 16) (det : List Word) :
    (h.latch src c chk det).pegs = h.pegs := by
  obtain ⟨_, _, _, _, e, _⟩ := h.latch_cases src c chk det
  rw [e]
@[simp] theorem Hub.latch_mts (h : Hub) (src : Nat) (c : FaultClass) (chk : BitVec 16) (det : List Word) :
    (h.latch src c chk det).mts = h.mts := by
  obtain ⟨_, _, _, _, e, _⟩ := h.latch_cases src c chk det
  rw [e]
@[simp] theorem Hub.latch_mem (h : Hub) (src : Nat) (c : FaultClass) (chk : BitVec 16) (det : List Word) :
    (h.latch src c chk det).mem = h.mem := by
  obtain ⟨_, _, _, _, e, _⟩ := h.latch_cases src c chk det
  rw [e]
@[simp] theorem Hub.latch_coll (h : Hub) (src : Nat) (c : FaultClass) (chk : BitVec 16) (det : List Word) :
    (h.latch src c chk det).coll = h.coll := by
  obtain ⟨_, _, _, _, e, _⟩ := h.latch_cases src c chk det
  rw [e]
@[simp] theorem Hub.latch_bays (h : Hub) (src : Nat) (c : FaultClass) (chk : BitVec 16) (det : List Word) :
    (h.latch src c chk det).bays = h.bays := by
  obtain ⟨_, _, _, _, e, _⟩ := h.latch_cases src c chk det
  rw [e]
@[simp] theorem Hub.latch_scr (h : Hub) (src : Nat) (c : FaultClass) (chk : BitVec 16) (det : List Word) :
    (h.latch src c chk det).scr = h.scr := by
  obtain ⟨_, _, _, _, e, _⟩ := h.latch_cases src c chk det
  rw [e]
@[simp] theorem Hub.latch_host (h : Hub) (src : Nat) (c : FaultClass) (chk : BitVec 16) (det : List Word) :
    (h.latch src c chk det).host = h.host := by
  obtain ⟨_, _, _, _, e, _⟩ := h.latch_cases src c chk det
  rw [e]
@[simp] theorem Hub.latch_links (h : Hub) (src : Nat) (c : FaultClass) (chk : BitVec 16) (det : List Word) :
    (h.latch src c chk det).links = h.links := by
  obtain ⟨_, _, _, _, e, _⟩ := h.latch_cases src c chk det
  rw [e]
@[simp] theorem Hub.latch_snd (h : Hub) (src : Nat) (c : FaultClass) (chk : BitVec 16) (det : List Word) :
    (h.latch src c chk det).snd = h.snd := by
  obtain ⟨_, _, _, _, e, _⟩ := h.latch_cases src c chk det
  rw [e]
@[simp] theorem Hub.latch_wear (h : Hub) (src : Nat) (c : FaultClass) (chk : BitVec 16) (det : List Word) :
    (h.latch src c chk det).wear = h.wear := by
  obtain ⟨_, _, _, _, e, _⟩ := h.latch_cases src c chk det
  rw [e]
@[simp] theorem Hub.msix_regs (h : Hub) (f v : Nat) : (h.msix f v).regs = h.regs := by
  unfold Hub.msix; simp only; split <;> rfl
@[simp] theorem Hub.msix_now (h : Hub) (f v : Nat) : (h.msix f v).now = h.now := by
  unfold Hub.msix; simp only; split <;> rfl
@[simp] theorem Hub.msix_draw (h : Hub) (f v : Nat) : (h.msix f v).draw = h.draw := by
  unfold Hub.msix; simp only; split <;> rfl
@[simp] theorem Hub.msix_brd (h : Hub) (f v : Nat) : (h.msix f v).brd = h.brd := by
  unfold Hub.msix; simp only; split <;> rfl
@[simp] theorem Hub.msix_plumb (h : Hub) (f v : Nat) : (h.msix f v).plumb = h.plumb := by
  unfold Hub.msix; simp only; split <;> rfl
@[simp] theorem Hub.msix_sec (h : Hub) (f v : Nat) : (h.msix f v).sec = h.sec := by
  unfold Hub.msix; simp only; split <;> rfl
@[simp] theorem Hub.msix_swc (h : Hub) (f v : Nat) : (h.msix f v).swc = h.swc := by
  unfold Hub.msix; simp only; split <;> rfl
@[simp] theorem Hub.msix_sill (h : Hub) (f v : Nat) : (h.msix f v).sill = h.sill := by
  unfold Hub.msix; simp only; split <;> rfl
@[simp] theorem Hub.msix_pegs (h : Hub) (f v : Nat) : (h.msix f v).pegs = h.pegs := by
  unfold Hub.msix; simp only; split <;> rfl
@[simp] theorem Hub.msix_mts (h : Hub) (f v : Nat) : (h.msix f v).mts = h.mts := by
  unfold Hub.msix; simp only; split <;> rfl
@[simp] theorem Hub.msix_mem (h : Hub) (f v : Nat) : (h.msix f v).mem = h.mem := by
  unfold Hub.msix; simp only; split <;> rfl
@[simp] theorem Hub.msix_coll (h : Hub) (f v : Nat) : (h.msix f v).coll = h.coll := by
  unfold Hub.msix; simp only; split <;> rfl
@[simp] theorem Hub.msix_bays (h : Hub) (f v : Nat) : (h.msix f v).bays = h.bays := by
  unfold Hub.msix; simp only; split <;> rfl
@[simp] theorem Hub.msix_scr (h : Hub) (f v : Nat) : (h.msix f v).scr = h.scr := by
  unfold Hub.msix; simp only; split <;> rfl
@[simp] theorem Hub.msix_links (h : Hub) (f v : Nat) : (h.msix f v).links = h.links := by
  unfold Hub.msix; simp only; split <;> rfl
@[simp] theorem Hub.msix_snd (h : Hub) (f v : Nat) : (h.msix f v).snd = h.snd := by
  unfold Hub.msix; simp only; split <;> rfl
@[simp] theorem Hub.msix_wear (h : Hub) (f v : Nat) : (h.msix f v).wear = h.wear := by
  unfold Hub.msix; simp only; split <;> rfl

theorem foldl_keeps {α β γ : Type} (g : β → γ) (f : β → α → β) (hf : ∀ b a, g (f b a) = g b) (l : List α) :
    ∀ b, g (l.foldl f b) = g b := by
  induction l with
  | nil => intro b; rfl
  | cons a l ih => intro b; simp only [List.foldl_cons, ih, hf]

@[simp] theorem Hub.planeFatal_now (h : Hub) : h.planeFatal.now = h.now := rfl
@[simp] theorem Hub.zeroise_now (h : Hub) : h.zeroise.now = h.now := by
  unfold Hub.zeroise
  simp only
  rw [foldl_keeps Hub.now _ (by intro b a; split <;> rfl), foldl_keeps Hub.now _ (by intro b a; rfl)]
@[simp] theorem Hub.planeFatal_draw (h : Hub) : h.planeFatal.draw = h.draw := rfl
@[simp] theorem Hub.zeroise_draw (h : Hub) : h.zeroise.draw = h.draw := by
  unfold Hub.zeroise
  simp only
  rw [foldl_keeps Hub.draw _ (by intro b a; split <;> rfl), foldl_keeps Hub.draw _ (by intro b a; rfl)]
@[simp] theorem Hub.planeFatal_brd (h : Hub) : h.planeFatal.brd = h.brd := rfl
@[simp] theorem Hub.zeroise_brd (h : Hub) : h.zeroise.brd = h.brd := by
  unfold Hub.zeroise
  simp only
  rw [foldl_keeps Hub.brd _ (by intro b a; split <;> rfl), foldl_keeps Hub.brd _ (by intro b a; rfl)]
@[simp] theorem Hub.planeFatal_swc (h : Hub) : h.planeFatal.swc = h.swc := rfl
@[simp] theorem Hub.zeroise_swc (h : Hub) : h.zeroise.swc = h.swc := by
  unfold Hub.zeroise
  simp only
  rw [foldl_keeps Hub.swc _ (by intro b a; split <;> rfl), foldl_keeps Hub.swc _ (by intro b a; rfl)]
@[simp] theorem Hub.planeFatal_sill (h : Hub) : h.planeFatal.sill = h.sill := rfl
@[simp] theorem Hub.zeroise_sill (h : Hub) : h.zeroise.sill = h.sill := by
  unfold Hub.zeroise
  simp only
  rw [foldl_keeps Hub.sill _ (by intro b a; split <;> rfl), foldl_keeps Hub.sill _ (by intro b a; rfl)]
@[simp] theorem Hub.planeFatal_pegs (h : Hub) : h.planeFatal.pegs = h.pegs := rfl
@[simp] theorem Hub.zeroise_pegs (h : Hub) : h.zeroise.pegs = h.pegs := by
  unfold Hub.zeroise
  simp only
  rw [foldl_keeps Hub.pegs _ (by intro b a; split <;> rfl), foldl_keeps Hub.pegs _ (by intro b a; rfl)]
@[simp] theorem Hub.planeFatal_mts (h : Hub) : h.planeFatal.mts = h.mts := rfl
@[simp] theorem Hub.zeroise_mts (h : Hub) : h.zeroise.mts = h.mts := by
  unfold Hub.zeroise
  simp only
  rw [foldl_keeps Hub.mts _ (by intro b a; split <;> rfl), foldl_keeps Hub.mts _ (by intro b a; rfl)]
@[simp] theorem Hub.planeFatal_mem (h : Hub) : h.planeFatal.mem = h.mem := rfl
@[simp] theorem Hub.zeroise_mem (h : Hub) : h.zeroise.mem = h.mem := by
  unfold Hub.zeroise
  simp only
  rw [foldl_keeps Hub.mem _ (by intro b a; split <;> rfl), foldl_keeps Hub.mem _ (by intro b a; rfl)]
@[simp] theorem Hub.planeFatal_coll (h : Hub) : h.planeFatal.coll = h.coll := rfl
@[simp] theorem Hub.zeroise_coll (h : Hub) : h.zeroise.coll = h.coll := by
  unfold Hub.zeroise
  simp only
  rw [foldl_keeps Hub.coll _ (by intro b a; split <;> rfl), foldl_keeps Hub.coll _ (by intro b a; rfl)]
@[simp] theorem Hub.planeFatal_bays (h : Hub) : h.planeFatal.bays = h.bays := rfl
@[simp] theorem Hub.zeroise_bays (h : Hub) : h.zeroise.bays = h.bays := by
  unfold Hub.zeroise
  simp only
  rw [foldl_keeps Hub.bays _ (by intro b a; split <;> rfl), foldl_keeps Hub.bays _ (by intro b a; rfl)]
@[simp] theorem Hub.planeFatal_scr (h : Hub) : h.planeFatal.scr = h.scr := rfl
@[simp] theorem Hub.zeroise_scr (h : Hub) : h.zeroise.scr = h.scr := by
  unfold Hub.zeroise
  simp only
  rw [foldl_keeps Hub.scr _ (by intro b a; split <;> rfl), foldl_keeps Hub.scr _ (by intro b a; rfl)]
@[simp] theorem Hub.planeFatal_snd (h : Hub) : h.planeFatal.snd = h.snd := rfl
@[simp] theorem Hub.zeroise_snd (h : Hub) : h.zeroise.snd = h.snd := by
  unfold Hub.zeroise
  simp only
  rw [foldl_keeps Hub.snd _ (by intro b a; split <;> rfl), foldl_keeps Hub.snd _ (by intro b a; rfl)]
@[simp] theorem Hub.planeFatal_host (h : Hub) : h.planeFatal.host = h.host := rfl
@[simp] theorem Hub.zeroise_host (h : Hub) : h.zeroise.host = h.host := by
  unfold Hub.zeroise
  simp only
  rw [foldl_keeps Hub.host _ (by intro b a; split <;> rfl), foldl_keeps Hub.host _ (by intro b a; rfl)]
@[simp] theorem Hub.planeFatal_wear (h : Hub) : h.planeFatal.wear = h.wear := rfl
@[simp] theorem Hub.zeroise_wear (h : Hub) : h.zeroise.wear = h.wear := by
  unfold Hub.zeroise
  simp only
  rw [foldl_keeps Hub.wear _ (by intro b a; split <;> rfl), foldl_keeps Hub.wear _ (by intro b a; rfl)]
@[simp] theorem Hub.wearFatal_now (h : Hub) (src : Nat) : (h.wearFatal src).now = h.now := by
  unfold Hub.wearFatal; simp only; split <;> rfl
@[simp] theorem Hub.wearFatal_draw (h : Hub) (src : Nat) : (h.wearFatal src).draw = h.draw := by
  unfold Hub.wearFatal; simp only; split <;> rfl
@[simp] theorem Hub.wearFatal_brd (h : Hub) (src : Nat) : (h.wearFatal src).brd = h.brd := by
  unfold Hub.wearFatal; simp only; split <;> rfl
@[simp] theorem Hub.wearFatal_swc (h : Hub) (src : Nat) : (h.wearFatal src).swc = h.swc := by
  unfold Hub.wearFatal; simp only; split <;> rfl
@[simp] theorem Hub.wearFatal_sill (h : Hub) (src : Nat) : (h.wearFatal src).sill = h.sill := by
  unfold Hub.wearFatal; simp only; split <;> rfl
@[simp] theorem Hub.wearFatal_pegs (h : Hub) (src : Nat) : (h.wearFatal src).pegs = h.pegs := by
  unfold Hub.wearFatal; simp only; split <;> rfl
@[simp] theorem Hub.wearFatal_mts (h : Hub) (src : Nat) : (h.wearFatal src).mts = h.mts := by
  unfold Hub.wearFatal; simp only; split <;> rfl
@[simp] theorem Hub.wearFatal_mem (h : Hub) (src : Nat) : (h.wearFatal src).mem = h.mem := by
  unfold Hub.wearFatal; simp only; split <;> rfl
@[simp] theorem Hub.wearFatal_coll (h : Hub) (src : Nat) : (h.wearFatal src).coll = h.coll := by
  unfold Hub.wearFatal; simp only; split <;> rfl
@[simp] theorem Hub.wearFatal_bays (h : Hub) (src : Nat) : (h.wearFatal src).bays = h.bays := by
  unfold Hub.wearFatal; simp only; split <;> rfl
@[simp] theorem Hub.wearFatal_scr (h : Hub) (src : Nat) : (h.wearFatal src).scr = h.scr := by
  unfold Hub.wearFatal; simp only; split <;> rfl
@[simp] theorem Hub.wearFatal_snd (h : Hub) (src : Nat) : (h.wearFatal src).snd = h.snd := by
  unfold Hub.wearFatal; simp only; split <;> rfl
@[simp] theorem Hub.wearFatal_host (h : Hub) (src : Nat) : (h.wearFatal src).host = h.host := by
  unfold Hub.wearFatal; simp only; split <;> rfl
@[simp] theorem Hub.react_now (h : Hub) (src : Nat) (c : FaultClass) : (h.react src c).now = h.now := by
  unfold Hub.react
  simp only
  split
  · rfl
  · split
    · simp
    · rw [Hub.wearFatal_now]
      split <;> split <;> simp
@[simp] theorem Hub.fault_now (h : Hub) (src : Nat) (c : FaultClass) (chk : BitVec 16) (det : List Word) :
    (h.fault src c chk det).now = h.now := by simp [Hub.fault]
@[simp] theorem Hub.report_now (h : Hub) (src : Nat) (c : FaultClass) (site : Nat) : (h.report src c site).now = h.now := by
  simp [Hub.report]
@[simp] theorem Hub.reportInternal_now (h : Hub) (src site : Nat) : (h.reportInternal src site).now = h.now := by
  simp [Hub.reportInternal]
@[simp] theorem Hub.react_draw (h : Hub) (src : Nat) (c : FaultClass) : (h.react src c).draw = h.draw := by
  unfold Hub.react
  simp only
  split
  · rfl
  · split
    · simp
    · rw [Hub.wearFatal_draw]
      split <;> split <;> simp
@[simp] theorem Hub.fault_draw (h : Hub) (src : Nat) (c : FaultClass) (chk : BitVec 16) (det : List Word) :
    (h.fault src c chk det).draw = h.draw := by simp [Hub.fault]
@[simp] theorem Hub.report_draw (h : Hub) (src : Nat) (c : FaultClass) (site : Nat) : (h.report src c site).draw = h.draw := by
  simp [Hub.report]
@[simp] theorem Hub.reportInternal_draw (h : Hub) (src site : Nat) : (h.reportInternal src site).draw = h.draw := by
  simp [Hub.reportInternal]
@[simp] theorem Hub.react_brd (h : Hub) (src : Nat) (c : FaultClass) : (h.react src c).brd = h.brd := by
  unfold Hub.react
  simp only
  split
  · rfl
  · split
    · simp
    · rw [Hub.wearFatal_brd]
      split <;> split <;> simp
@[simp] theorem Hub.fault_brd (h : Hub) (src : Nat) (c : FaultClass) (chk : BitVec 16) (det : List Word) :
    (h.fault src c chk det).brd = h.brd := by simp [Hub.fault]
@[simp] theorem Hub.report_brd (h : Hub) (src : Nat) (c : FaultClass) (site : Nat) : (h.report src c site).brd = h.brd := by
  simp [Hub.report]
@[simp] theorem Hub.reportInternal_brd (h : Hub) (src site : Nat) : (h.reportInternal src site).brd = h.brd := by
  simp [Hub.reportInternal]
@[simp] theorem Hub.react_swc (h : Hub) (src : Nat) (c : FaultClass) : (h.react src c).swc = h.swc := by
  unfold Hub.react
  simp only
  split
  · rfl
  · split
    · simp
    · rw [Hub.wearFatal_swc]
      split <;> split <;> simp
@[simp] theorem Hub.fault_swc (h : Hub) (src : Nat) (c : FaultClass) (chk : BitVec 16) (det : List Word) :
    (h.fault src c chk det).swc = h.swc := by simp [Hub.fault]
@[simp] theorem Hub.report_swc (h : Hub) (src : Nat) (c : FaultClass) (site : Nat) : (h.report src c site).swc = h.swc := by
  simp [Hub.report]
@[simp] theorem Hub.reportInternal_swc (h : Hub) (src site : Nat) : (h.reportInternal src site).swc = h.swc := by
  simp [Hub.reportInternal]
@[simp] theorem Hub.react_sill (h : Hub) (src : Nat) (c : FaultClass) : (h.react src c).sill = h.sill := by
  unfold Hub.react
  simp only
  split
  · rfl
  · split
    · simp
    · rw [Hub.wearFatal_sill]
      split <;> split <;> simp
@[simp] theorem Hub.fault_sill (h : Hub) (src : Nat) (c : FaultClass) (chk : BitVec 16) (det : List Word) :
    (h.fault src c chk det).sill = h.sill := by simp [Hub.fault]
@[simp] theorem Hub.report_sill (h : Hub) (src : Nat) (c : FaultClass) (site : Nat) : (h.report src c site).sill = h.sill := by
  simp [Hub.report]
@[simp] theorem Hub.reportInternal_sill (h : Hub) (src site : Nat) : (h.reportInternal src site).sill = h.sill := by
  simp [Hub.reportInternal]
@[simp] theorem Hub.react_pegs (h : Hub) (src : Nat) (c : FaultClass) : (h.react src c).pegs = h.pegs := by
  unfold Hub.react
  simp only
  split
  · rfl
  · split
    · simp
    · rw [Hub.wearFatal_pegs]
      split <;> split <;> simp
@[simp] theorem Hub.fault_pegs (h : Hub) (src : Nat) (c : FaultClass) (chk : BitVec 16) (det : List Word) :
    (h.fault src c chk det).pegs = h.pegs := by simp [Hub.fault]
@[simp] theorem Hub.report_pegs (h : Hub) (src : Nat) (c : FaultClass) (site : Nat) : (h.report src c site).pegs = h.pegs := by
  simp [Hub.report]
@[simp] theorem Hub.reportInternal_pegs (h : Hub) (src site : Nat) : (h.reportInternal src site).pegs = h.pegs := by
  simp [Hub.reportInternal]
@[simp] theorem Hub.react_mts (h : Hub) (src : Nat) (c : FaultClass) : (h.react src c).mts = h.mts := by
  unfold Hub.react
  simp only
  split
  · rfl
  · split
    · simp
    · rw [Hub.wearFatal_mts]
      split <;> split <;> simp
@[simp] theorem Hub.fault_mts (h : Hub) (src : Nat) (c : FaultClass) (chk : BitVec 16) (det : List Word) :
    (h.fault src c chk det).mts = h.mts := by simp [Hub.fault]
@[simp] theorem Hub.report_mts (h : Hub) (src : Nat) (c : FaultClass) (site : Nat) : (h.report src c site).mts = h.mts := by
  simp [Hub.report]
@[simp] theorem Hub.reportInternal_mts (h : Hub) (src site : Nat) : (h.reportInternal src site).mts = h.mts := by
  simp [Hub.reportInternal]
@[simp] theorem Hub.react_mem (h : Hub) (src : Nat) (c : FaultClass) : (h.react src c).mem = h.mem := by
  unfold Hub.react
  simp only
  split
  · rfl
  · split
    · simp
    · rw [Hub.wearFatal_mem]
      split <;> split <;> simp
@[simp] theorem Hub.fault_mem (h : Hub) (src : Nat) (c : FaultClass) (chk : BitVec 16) (det : List Word) :
    (h.fault src c chk det).mem = h.mem := by simp [Hub.fault]
@[simp] theorem Hub.report_mem (h : Hub) (src : Nat) (c : FaultClass) (site : Nat) : (h.report src c site).mem = h.mem := by
  simp [Hub.report]
@[simp] theorem Hub.reportInternal_mem (h : Hub) (src site : Nat) : (h.reportInternal src site).mem = h.mem := by
  simp [Hub.reportInternal]
@[simp] theorem Hub.react_coll (h : Hub) (src : Nat) (c : FaultClass) : (h.react src c).coll = h.coll := by
  unfold Hub.react
  simp only
  split
  · rfl
  · split
    · simp
    · rw [Hub.wearFatal_coll]
      split <;> split <;> simp
@[simp] theorem Hub.fault_coll (h : Hub) (src : Nat) (c : FaultClass) (chk : BitVec 16) (det : List Word) :
    (h.fault src c chk det).coll = h.coll := by simp [Hub.fault]
@[simp] theorem Hub.report_coll (h : Hub) (src : Nat) (c : FaultClass) (site : Nat) : (h.report src c site).coll = h.coll := by
  simp [Hub.report]
@[simp] theorem Hub.reportInternal_coll (h : Hub) (src site : Nat) : (h.reportInternal src site).coll = h.coll := by
  simp [Hub.reportInternal]
@[simp] theorem Hub.react_bays (h : Hub) (src : Nat) (c : FaultClass) : (h.react src c).bays = h.bays := by
  unfold Hub.react
  simp only
  split
  · rfl
  · split
    · simp
    · rw [Hub.wearFatal_bays]
      split <;> split <;> simp
@[simp] theorem Hub.fault_bays (h : Hub) (src : Nat) (c : FaultClass) (chk : BitVec 16) (det : List Word) :
    (h.fault src c chk det).bays = h.bays := by simp [Hub.fault]
@[simp] theorem Hub.report_bays (h : Hub) (src : Nat) (c : FaultClass) (site : Nat) : (h.report src c site).bays = h.bays := by
  simp [Hub.report]
@[simp] theorem Hub.reportInternal_bays (h : Hub) (src site : Nat) : (h.reportInternal src site).bays = h.bays := by
  simp [Hub.reportInternal]
@[simp] theorem Hub.react_scr (h : Hub) (src : Nat) (c : FaultClass) : (h.react src c).scr = h.scr := by
  unfold Hub.react
  simp only
  split
  · rfl
  · split
    · simp
    · rw [Hub.wearFatal_scr]
      split <;> split <;> simp
@[simp] theorem Hub.fault_scr (h : Hub) (src : Nat) (c : FaultClass) (chk : BitVec 16) (det : List Word) :
    (h.fault src c chk det).scr = h.scr := by simp [Hub.fault]
@[simp] theorem Hub.report_scr (h : Hub) (src : Nat) (c : FaultClass) (site : Nat) : (h.report src c site).scr = h.scr := by
  simp [Hub.report]
@[simp] theorem Hub.reportInternal_scr (h : Hub) (src site : Nat) : (h.reportInternal src site).scr = h.scr := by
  simp [Hub.reportInternal]
@[simp] theorem Hub.react_snd (h : Hub) (src : Nat) (c : FaultClass) : (h.react src c).snd = h.snd := by
  unfold Hub.react
  simp only
  split
  · rfl
  · split
    · simp
    · rw [Hub.wearFatal_snd]
      split <;> split <;> simp
@[simp] theorem Hub.fault_snd (h : Hub) (src : Nat) (c : FaultClass) (chk : BitVec 16) (det : List Word) :
    (h.fault src c chk det).snd = h.snd := by simp [Hub.fault]
@[simp] theorem Hub.report_snd (h : Hub) (src : Nat) (c : FaultClass) (site : Nat) : (h.report src c site).snd = h.snd := by
  simp [Hub.report]
@[simp] theorem Hub.reportInternal_snd (h : Hub) (src site : Nat) : (h.reportInternal src site).snd = h.snd := by
  simp [Hub.reportInternal]

/-! ### The registers of an event -/

theorem foldl_reg {α : Type} (p : Nat) (f : Hub → α → Hub) (l : List α) (hf : ∀ b a, a ∈ l → (f b a).reg p = b.reg p) :
    ∀ b : Hub, (l.foldl f b).reg p = b.reg p := by
  induction l with
  | nil => intro b; rfl
  | cons a l ih =>
    intro b
    rw [List.foldl_cons, ih (fun b c hc => hf b c (List.mem_cons_of_mem _ hc)), hf b a (List.mem_cons_self ..)]

/-- Zeroising writes the key slots and the port states alone. -/
theorem Hub.zeroise_reg (h : Hub) {o : Nat} (hk : ∀ n, n < 64 → o ≠ rKslot n) (hp : ∀ p, p < 86 → o ≠ rPstat p) :
    h.zeroise.reg o = h.reg o := by
  unfold Hub.zeroise
  simp only
  rw [foldl_reg, foldl_reg]
  · rfl
  · intro b a ha
    exact Hub.reg_setReg_ne b _ (hk a (List.mem_range.1 ha))
  · intro b a ha
    have hne := hp a (List.mem_range.1 ha)
    split
    · rfl
    · rw [Hub.reg_setFld_ne _ 0 16 0 hne, Hub.reg_setFld_ne _ 60 4 lkDown hne]; rfl

/-- The reaction to an event writes FLT_PIN, SND_STAT, the key slots and the port states alone. -/
theorem Hub.react_reg (h : Hub) (src : Nat) (c : FaultClass) {o : Nat} (h1 : o ≠ rFltPin) (h2 : o ≠ rSndStat)
    (hk : ∀ n, n < 64 → o ≠ rKslot n) (hp : ∀ p, p < 86 → o ≠ rPstat p) : (h.react src c).reg o = h.reg o := by
  have m (g : Hub) (f v : Nat) : (g.msix f v).reg o = g.reg o := by
    unfold Hub.reg; rw [Hub.msix_regs]
  have pf (g : Hub) : g.planeFatal.reg o = g.reg o := by
    unfold Hub.planeFatal
    simp only
    rw [Hub.reg_setFld_ne _ 4 1 1 h2, Hub.reg_setFld_ne _ 48 8 0 h2]; rfl
  have wf (g : Hub) (src : Nat) : (g.wearFatal src).reg o = g.reg o := by
    unfold Hub.wearFatal; simp only; split <;> rfl
  unfold Hub.react
  simp only
  split
  · rfl
  · split
    · rw [m, m]; rfl
    · rw [wf]
      have pin (g : Hub) : (if g.bit rFltPin 1 then g.setFld rFltPin 0 1 1 else g).reg o = g.reg o := by
        split
        · exact Hub.reg_setFld_ne g 0 1 1 h1
        · rfl
      split
      · rw [Hub.zeroise_reg _ hk hp, pf, pin, m, m]; rfl
      · rw [pf, pin, m, m]; rfl

/-- An event sets its bit of FLT_STATUS (R372). -/
theorem Hub.fault_status (h : Hub) (src : Nat) (c : FaultClass) (chk : BitVec 16) (det : List Word) (hs : src < 64) :
    (h.fault src c chk det).bit rFltStatus src = true := by
  have hl : (h.latch src c chk det).fld rFltStatus src 1 = 1 := by
    have hw : src + 1 ≤ 64 := by omega
    have h0 := Hub.fld_setFld_self h rFltStatus src 1 1 hw
    unfold Hub.latch
    simp only
    have a1 : rFltStatus ≠ rFltOvf := by decide
    have a2 : rFltStatus ≠ rFltFirst := by decide
    have a3 : rFltStatus ≠ rFltLog := by decide
    have a4 : rFltStatus ≠ rFltDropped := by decide
    have key (g : Hub) (hg : g.fld rFltStatus src 1 = 1) (b : Bool) (w : Word) :
        (if b = true then g.setFld rFltOvf 0 1 1 else g.setReg rFltFirst w).fld rFltStatus src 1 = 1 := by
      split
      · rw [Hub.fld_setFld_ne g 0 1 1 src 1 a1]; exact hg
      · unfold Hub.fld; rw [Hub.reg_setReg_ne g w a2]; exact hg
    have hg := key (h.setFld rFltStatus src 1 1) h0 ((h.setFld rFltStatus src 1 1).bit rFltFirst 63)
      (firstWord (!decide (1024 ≤ h.logUsed) && !h.rateLimited src c) c.code src (h.fld rFltLog 32 32) chk)
    generalize (if (h.setFld rFltStatus src 1 1).bit rFltFirst 63 = true then (h.setFld rFltStatus src 1 1).setFld rFltOvf 0 1 1
      else (h.setFld rFltStatus src 1 1).setReg rFltFirst
        (firstWord (!decide (1024 ≤ h.logUsed) && !h.rateLimited src c) c.code src (h.fld rFltLog 32 32) chk)) = g at hg ⊢
    split
    · rw [Hub.fld_setFld_ne _ 32 32 _ src 1 a3]
      obtain ⟨regs, hi, hj⟩ := g.injectDone_cases (g.injected fltKrf 43)
      rw [hi]
      exact (congrArg (bitsGet · src 1) (hj _ (by decide))).trans hg
    · split
      · rw [Hub.fld_setFld_ne _ _ 16 _ src 1 a4]
        exact hg
      · exact hg
  unfold Hub.fault Hub.bit Hub.fld
  rw [Hub.react_reg _ src c (by decide) (by decide) (by intro n hn; unfold rKslot rFltStatus; omega)
    (by intro p hp; unfold rPstat rFltStatus; omega)]
  simpa [Hub.fld] using hl

theorem Hub.report_status (h : Hub) (src : Nat) (c : FaultClass) (site : Nat) (hs : src < 64) :
    (h.report src c site).bit rFltStatus src = true := Hub.fault_status h src c _ _ hs

/-- A DEVICE_FATAL event stops the hub (R376). -/
theorem Hub.fault_device (h : Hub) (src : Nat) (chk : BitVec 16) (det : List Word) :
    (h.fault src .deviceFatal chk det).plumb.fatal = 2 := by
  have wf (g : Hub) : (g.wearFatal src).plumb = g.plumb := by
    unfold Hub.wearFatal; simp only; split <;> rfl
  have zf (g : Hub) : g.zeroise.plumb.fatal = 2 := by
    unfold Hub.zeroise
    simp only
    rw [foldl_keeps (fun h : Hub => h.plumb.fatal) _ (by intro b a; split <;> rfl),
      foldl_keeps (fun h : Hub => h.plumb.fatal) _ (by intro b a; rfl)]
  unfold Hub.fault Hub.react
  simp only
  rw [if_neg (by decide), if_neg (by decide), wf, if_pos (by decide)]
  exact zf _

end Sys2Proof.Machine
end

