-- ==== Sys2Proof/Laws/Memory.lean ====
section
/-! SUPPORT. What each operation over memory can do: the bytes it stores, the bytes it leaves, and the canonical form it keeps. -/
namespace Sys2Proof.Machine

/-- The byte of memory at an OFFSET as stored; unlisted bytes read zero. -/
theorem Hub.bytes_congr (h g : Hub) (o len : Nat)
    (he : ∀ a, o ≤ a → a < o + len → tget 0 h.mem.cells a = tget 0 g.mem.cells a) : h.bytes o len = g.bytes o len :=
  tgetRun_congr _ _ _ _ _ he

theorem Memory.wf_iff (m : Mem) : Memory.wf m = true ↔ twf 0 m.cells = true ∧ twf 0 m.marks = true := by
  simp [Memory.wf]

/-! ### Reading -/

@[simp] theorem Hub.latchUnc_mem (h : Hub) (o : Nat) (scrub : Bool) : (h.latchUnc o scrub).mem = h.mem := by
  unfold Hub.latchUnc; simp only; split
  · rw [Hub.setFld_mem]
  · rw [Hub.setReg_mem]

/-- A read of a marked word writes a corrected word back, and leaves memory otherwise. -/
theorem Hub.readMark_mem (h : Hub) (scrub : Bool) (w k : Nat) :
    (h.readMark scrub w k).mem = if codeMends k then { h.mem with marks := tset 0 h.mem.marks w 0 } else h.mem := by
  unfold Hub.readMark
  generalize w * 32 = o
  generalize decide (windowOf o = .loft) = loft
  generalize bit01 (decide (lpBase ≤ o)) = tier
  generalize (o - loftBase) / 0x400000 = bay
  simp only
  split
  · rw [Hub.report_mem, Hub.count_mem]
  · rw [Hub.reportInternal_mem]
    split
    · rw [Hub.count_mem]
    · rw [Hub.latchUnc_mem, Hub.count_mem]

theorem Hub.readMark_cells (h : Hub) (scrub : Bool) (w k : Nat) : (h.readMark scrub w k).mem.cells = h.mem.cells := by
  rw [Hub.readMark_mem]; split <;> rfl

theorem Hub.readMark_wf (h : Hub) (scrub : Bool) (w k : Nat) (hw : Memory.wf h.mem = true) :
    Memory.wf (h.readMark scrub w k).mem = true := by
  obtain ⟨h1, h2⟩ := (Memory.wf_iff _).1 hw
  rw [Hub.readMark_mem]
  split
  · exact (Memory.wf_iff _).2 ⟨h1, twf_tset 0 h.mem.marks w 0 h2⟩
  · exact hw

theorem foldl_readMark_cells (ms : List (Nat × Nat)) (scrub : Bool) :
    ∀ h : Hub, (ms.foldl (fun h m => h.readMark scrub m.1 m.2) h).mem.cells = h.mem.cells := by
  induction ms with
  | nil => intro h; rfl
  | cons m ms ih => intro h; rw [List.foldl_cons, ih, Hub.readMark_cells]

theorem foldl_readMark_wf (ms : List (Nat × Nat)) (scrub : Bool) :
    ∀ h : Hub, Memory.wf h.mem = true → Memory.wf (ms.foldl (fun h m => h.readMark scrub m.1 m.2) h).mem = true := by
  induction ms with
  | nil => intro h hw; exact hw
  | cons m ms ih => intro h hw; exact ih _ (Hub.readMark_wf h scrub m.1 m.2 hw)

/-- A read leaves every stored byte. -/
@[simp] theorem Hub.memRead_cells (h : Hub) (o len : Nat) : (h.memRead o len).2.mem.cells = h.mem.cells :=
  foldl_readMark_cells _ _ h

/-- A read keeps the canonical form. -/
theorem Hub.memRead_wf (h : Hub) (o len : Nat) (hw : Memory.wf h.mem = true) : Memory.wf (h.memRead o len).2.mem = true :=
  foldl_readMark_wf _ _ h hw

/-- A read answers the stored bytes, or nothing where a word is uncorrectable (R76, R303). -/
theorem Hub.memRead_spec (h : Hub) (o len : Nat) :
    (h.memRead o len).1 = if (h.marksIn o len).any (fun m => !codeMends m.2) then none else some (h.bytes o len) := rfl

/-! ### Writing -/

@[simp] theorem Hub.injectDone_mem (h : Hub) (k : Nat) : (h.injectDone k).mem = h.mem := by
  unfold Hub.injectDone; split <;> rfl

@[simp] theorem Hub.fillPages_mem (h : Hub) (o len : Nat) : (h.fillPages o len).mem = h.mem := by
  unfold Hub.fillPages
  split
  · exact foldl_keeps Hub.mem _ (by intro b a; rfl) _ _
  · rfl

/-- Words put leave every byte. -/
@[simp] theorem Hub.wordsPut_cells (h : Hub) (o len : Nat) : (h.wordsPut o len).mem.cells = h.mem.cells := by
  unfold Hub.wordsPut; simp

/-- Words put keep the canonical form. -/
theorem Hub.wordsPut_wf (h : Hub) (o len : Nat) (hw : Memory.wf h.mem = true) : Memory.wf (h.wordsPut o len).mem = true := by
  obtain ⟨h1, h2⟩ := (Memory.wf_iff _).1 hw
  unfold Hub.wordsPut
  simp only [Hub.injectDone_mem]
  refine (Memory.wf_iff _).2 ⟨h1, ?_⟩
  simp only
  split
  · exact twf_filter 0 _ _ h2
  · exact twf_tset 0 _ _ _ (twf_filter 0 _ _ h2)

/-- The bytes after a write. -/
theorem Hub.memPut_cells (h : Hub) (o : Nat) (bs : List Byte) : (h.memPut o bs).mem.cells = tsetRun 0 h.mem.cells o bs := by
  unfold Hub.memPut; simp

/-- A write leaves every byte outside the bytes stored. -/
theorem Hub.memPut_out (h : Hub) (o : Nat) (bs : List Byte) (a : Nat) (ha : a < o ∨ o + bs.length ≤ a) :
    tget 0 (h.memPut o bs).mem.cells a = tget 0 h.mem.cells a := by
  rw [Hub.memPut_cells]; exact tget_tsetRun_out 0 bs _ _ _ ha

/-- A write reads back. -/
theorem Hub.memPut_bytes (h : Hub) (o : Nat) (bs : List Byte) : (h.memPut o bs).bytes o bs.length = bs := by
  unfold Hub.bytes; rw [Hub.memPut_cells]; exact tgetRun_tsetRun 0 bs _ _

/-- A write keeps the canonical form. -/
theorem Hub.memPut_wf (h : Hub) (o : Nat) (bs : List Byte) (hw : Memory.wf h.mem = true) : Memory.wf (h.memPut o bs).mem = true := by
  have hp := Hub.wordsPut_wf (h.fillPages o bs.length) o bs.length (by rw [Hub.fillPages_mem]; exact hw)
  obtain ⟨h1, h2⟩ := (Memory.wf_iff _).1 hp
  exact (Memory.wf_iff _).2 ⟨twf_tsetRun 0 bs _ o h1, h2⟩

/-- A write of a range: performed whole, or, where it covers part of an uncorrectable word, not at all (R303). -/
theorem Hub.memWrite_cases (h : Hub) (o : Nat) (bs : List Byte) :
    ((h.memWrite o bs).1 = none ∨ ∃ g : Hub, g.mem.cells = h.mem.cells ∧ (h.memWrite o bs).1 = some (g.memPut o bs)) ∧
      (h.memWrite o bs).2.mem.cells = h.mem.cells := by
  refine ⟨?_, foldl_readMark_cells _ _ h⟩
  unfold Hub.memWrite
  simp only
  split
  · exact Or.inl rfl
  · exact Or.inr ⟨_, foldl_readMark_cells _ _ h, rfl⟩

/-- A write that is performed, or that is not, keeps the canonical form. -/
theorem Hub.memWrite_wf (h : Hub) (o : Nat) (bs : List Byte) (hw : Memory.wf h.mem = true) :
    Memory.wf (h.memWrite o bs).2.mem = true ∧ ∀ g, (h.memWrite o bs).1 = some g → Memory.wf g.mem = true := by
  refine ⟨foldl_readMark_wf _ _ h hw, ?_⟩
  intro g hg
  unfold Hub.memWrite at hg
  simp only at hg
  split at hg
  · cases hg
  · injection hg with hg
    subst hg
    exact Hub.memPut_wf _ _ _ (foldl_readMark_wf _ _ h hw)

/-! ### Clearing -/

/-- Clearing keeps the canonical form. -/
theorem Hub.clearRange_wf (h : Hub) (o len : Nat) (hw : Memory.wf h.mem = true) : Memory.wf (h.clearRange o len).mem = true := by
  obtain ⟨h1, h2⟩ := (Memory.wf_iff _).1 hw
  exact (Memory.wf_iff _).2 ⟨twf_filter 0 _ _ h1, twf_filter 0 _ _ h2⟩

theorem tget_filter_keep {α : Type} (d : α) (p : Nat × α → Bool) (t : Table α) (k : Nat) (hp : ∀ v, p (k, v) = true) :
    tget d (t.filter p) k = tget d t k := by
  induction t with
  | nil => rfl
  | cons e r ih =>
    obtain ⟨a, u⟩ := e
    rw [List.filter_cons]
    by_cases ha : a = k
    · subst a; simp [hp u, tget]
    · split <;> simp [tget, ha, ih]

theorem tget_filter_drop {α : Type} (d : α) (p : Nat × α → Bool) (t : Table α) (k : Nat) (hp : ∀ v, p (k, v) = false) :
    tget d (t.filter p) k = d := by
  induction t with
  | nil => rfl
  | cons e r ih =>
    obtain ⟨a, u⟩ := e
    rw [List.filter_cons]
    split
    · by_cases ha : a = k
      · subst a; simp_all
      · simp [tget, ha, ih]
    · exact ih

/-- A cleared byte reads zero; every other byte is left (R309). -/
theorem Hub.clearRange_byte (h : Hub) (o len a : Nat) :
    tget 0 (h.clearRange o len).mem.cells a = if o ≤ a ∧ a < o + len then 0 else tget 0 h.mem.cells a := by
  unfold Hub.clearRange
  simp only
  split
  · apply tget_filter_drop
    intro v
    simp [*]
  · apply tget_filter_keep
    intro v
    simp only [Bool.not_eq_true', Bool.and_eq_false_iff, decide_eq_false_iff_not]
    tauto

/-! ### The scrubber -/

theorem Hub.scrubWord_mem (h : Hub) (w k : Nat) (there : Bool) :
    (h.scrubWord w k there).mem = h.mem ∨ ∃ w', (h.scrubWord w k there).mem = { h.mem with marks := tset 0 h.mem.marks w' 0 } := by
  unfold Hub.scrubWord
  split
  · rw [Hub.readMark_mem]
    split
    · exact Or.inr ⟨_, rfl⟩
    · exact Or.inl rfl
  · exact Or.inl rfl

theorem Hub.scrubNext_mem (h : Hub) (t next : Nat) (pass : Bool) :
    (h.scrubNext t next pass).mem = { h.mem with scrub := tset 0 h.mem.scrub t next } := by
  unfold Hub.scrubNext
  simp only
  split
  · rw [Hub.count_mem]
  · rfl

/-- The scrubber writes corrected words back, moves on and counts, and stores no byte. -/
theorem Hub.scrub_mem (h : Hub) (lp : Bool) :
    ∃ x, (h.scrub lp).mem = { h.mem with scrub := x } ∨
      ∃ w, (h.scrub lp).mem = { h.mem with marks := tset 0 h.mem.marks w 0, scrub := x } := by
  unfold Hub.scrub
  split
  · have key (g : Hub) (hg : g.mem = h.mem ∨ ∃ w, g.mem = { h.mem with marks := tset 0 h.mem.marks w 0 }) (t n : Nat) (b : Bool) :
        ∃ x, (g.scrubNext t n b).mem = { h.mem with scrub := x } ∨
          ∃ w, (g.scrubNext t n b).mem = { h.mem with marks := tset 0 h.mem.marks w 0, scrub := x } := by
      refine ⟨tset 0 g.mem.scrub t n, ?_⟩
      rw [Hub.scrubNext_mem]
      rcases hg with e | ⟨w, e⟩
      · left; rw [e]
      · right; exact ⟨w, by rw [e]⟩
    exact key _ (h.scrubWord_mem _ _ _) _ _ _
  · exact ⟨h.mem.scrub, Or.inl rfl⟩

theorem Hub.scrub_cells (h : Hub) (lp : Bool) : (h.scrub lp).mem.cells = h.mem.cells := by
  obtain ⟨x, e | ⟨w, e⟩⟩ := h.scrub_mem lp <;> rw [e]

theorem Hub.scrub_wf (h : Hub) (lp : Bool) (hw : Memory.wf h.mem = true) : Memory.wf (h.scrub lp).mem = true := by
  obtain ⟨h1, h2⟩ := (Memory.wf_iff _).1 hw
  obtain ⟨x, e | ⟨w, e⟩⟩ := h.scrub_mem lp <;> rw [e]
  · exact hw
  · exact (Memory.wf_iff _).2 ⟨h1, twf_tset 0 h.mem.marks w 0 h2⟩

/-! ### A full wipe and a loss of supply -/

/-- Memory as reset leaves it. -/
theorem State.reset_wf : Memory.wf State.reset.hub.mem = true := rfl

/-- A domain that goes off takes bytes away, and keeps the canonical form. -/
theorem Hub.dropDead_wf (h : Hub) (hw : Memory.wf h.mem = true) : Memory.wf h.dropDead.mem = true := by
  obtain ⟨h1, h2⟩ := (Memory.wf_iff _).1 hw
  have core (g : Hub) (a b c : Prop) [Decidable a] [Decidable b] [Decidable c] (swc : Swc) (sill : Sill) (pegs : Pegs)
      (mts : List (Nat × Mortise)) (scr : Scr) (snd : Sound) (coll : Coll) (plumb : Plumb) (host : HostUnit) :
      ∀ x y z : Hub, x = (if a then g else { g with swc := swc, sill := sill, pegs := pegs, mts := mts, scr := scr, snd := snd }) →
        y.mem = (if b then x else { x with coll := coll, plumb := plumb }).mem →
        z.mem = (if c then y else { y with host := host }).mem → z.mem = g.mem := by
    intro x y z hx hy hz
    rw [hz]
    split
    · rw [hy]
      split <;> (rw [hx]; split <;> rfl)
    · simp only
      rw [hy]
      split <;> (rw [hx]; split <;> rfl)
  unfold Hub.dropDead
  rw [core _ _ _ _ _ _ _ _ _ _ _ _ _ _ _ _ rfl rfl rfl]
  exact (Memory.wf_iff _).2 ⟨twf_filter 0 _ _ h1, twf_filter 0 _ _ h2⟩

end Sys2Proof.Machine
end

