-- ==== Sys2Proof/Machine/Wire.lean ====
section
/-! DEFINITION. What a lane carries (R398 to R401, R405, R413, R421): PAM4 levels, blocks, the scrambler, test patterns, the code RS(272,256), and the
layouts of a plank's control block and of a training word. The commands carry what decoding these gives. -/
namespace Sys2Proof.Machine

/-! ### Symbols, blocks and the scrambler (R398 to R400) -/

/-- The PAM4 level of a pair of bits, the first the more significant (R398). -/
def grayLevel : Bool → Bool → Int
  | false, false => -3
  | false, true => -1
  | true, true => 1
  | true, false => 3

/-- The levels of a stream of bits. -/
def levelsOf : List Bool → List Int
  | a :: b :: l => grayLevel a b :: levelsOf l
  | _ => []

/-- The header of block `k` of the stream as it goes out, bit 1 first (R399): 0b10 for the first of a group of 85. -/
def blockHeader (k : Nat) : List Bool := if k % 85 = 0 then [true, false] else [false, true]

/-- A header is valid (R399). -/
def headerOk (a b : Bool) : Bool := a != b

/-- The generator x^31 + x^28 + 1 of R400 advanced by one bit, and its output (DEDUCED, log entry 38: the bit that is fed back). -/
def scrambleStep (g : BitVec 31) : BitVec 31 × Bool :=
  let b := xor (g.getLsbD 30) (g.getLsbD 27)
  ((g <<< 1) ||| BitVec.ofNat 31 (bit01 b), b)

/-- Payload bits scrambled, or descrambled, from a state of the generator. -/
def scrambleRun (g : BitVec 31) : List Bool → List Bool
  | [] => []
  | x :: l => xor x (scrambleStep g).2 :: scrambleRun (scrambleStep g).1 l

/-- The payload of a group on lane `i` of its port, scrambled or descrambled (R400). -/
def scramble (i : Nat) (bits : List Bool) : List Bool := scrambleRun (BitVec.ofNat 31 (0x7FFFFFF8 ||| i)) bits

/-- The blocks of a scrambled payload, the first of them block `k` of the stream (R399). -/
def blocksOf : Nat → Nat → List Bool → List Bool
  | 0, _, _ => []
  | n + 1, k, bits => blockHeader k ++ bits.take 256 ++ blocksOf n (k + 1) (bits.drop 256)

/-! ### Test patterns (R421) -/

/-- The two terms of a pattern's polynomial, by POLY of LNK_PRBS; 3 acts as 2 (R421, Table 15.9). -/
def prbsTerms (poly : Nat) : Nat × Nat := if poly = 0 then (7, 6) else if poly = 1 then (15, 14) else (31, 28)

/-- The next bit of a pattern from the bits before it, the newest first. -/
def prbsBit (poly : Nat) (past : List Bool) : Bool :=
  xor (past.getD ((prbsTerms poly).1 - 1) false) (past.getD ((prbsTerms poly).2 - 1) false)

/-- The next `n` bits of the generator of a lane. -/
def prbsRun (poly : Nat) (past : List Bool) : Nat → List Bool
  | 0 => []
  | n + 1 => prbsBit poly past :: prbsRun poly (prbsBit poly past :: past) n

/-- The bit errors that a checker counts once the 64 bits `past` have synchronised it: it goes on by its own pattern (DEDUCED, log entry
38). -/
def prbsErrors (poly : Nat) (past : List Bool) : List Bool → Nat
  | [] => 0
  | x :: l => bit01 (x != prbsBit poly past) + prbsErrors poly (prbsBit poly past :: past) l

/-- The bits between two inverted ones, by INJ_RATE of LNK_PRBS: none for 0, and 1 to 9 act as 10 (Table 15.9). -/
def prbsPeriod (rate : Nat) : Option Nat := if rate = 0 then none else some (2 ^ max 10 rate)

/-! ### The code of a lane (R401) -/

/-- Multiplication by α in GF(2^10) with x^10 + x^3 + 1. -/
def gf10X (a : BitVec 10) : BitVec 10 := if a.getLsbD 9 then (a <<< 1) ^^^ 0x009#10 else a <<< 1

/-- Product in GF(2^10), by the bits of the second factor from bit `n - 1` down. -/
def gf10MulN : Nat → BitVec 10 → BitVec 10 → BitVec 10
  | 0, _, _ => 0
  | n + 1, a, b => if b.getLsbD 0 then gf10X (gf10MulN n a (b >>> 1)) ^^^ a else gf10X (gf10MulN n a (b >>> 1))

/-- Product in GF(2^10). -/
def gf10Mul (a b : BitVec 10) : BitVec 10 := gf10MulN 10 a b

/-- The power α^k. -/
def gf10Pow : Nat → BitVec 10
  | 0 => 1
  | k + 1 => gf10X (gf10Pow k)

/-- A polynomial, highest power first, times x - a. -/
def gf10Times (p : List (BitVec 10)) (a : BitVec 10) : List (BitVec 10) :=
  List.zipWith (· ^^^ ·) (p ++ [0]) (0 :: p.map (gf10Mul a))

/-- The generator of R401, highest power first. -/
def lineGenerator : List (BitVec 10) := (List.range 16).foldl (fun p i => gf10Times p (gf10Pow i)) [1]

/-- One message symbol into the division by the generator: the sixteen parity symbols so far. -/
def lineStep (r : List (BitVec 10)) (s : BitVec 10) : List (BitVec 10) :=
  let f := s ^^^ r.getD 0 0
  List.zipWith (· ^^^ ·) (r.drop 1 ++ [0]) ((lineGenerator.drop 1).map (gf10Mul f))

/-- The message symbols of a plank: symbol j is bits 10j to 10j + 9 of its little-endian integer. -/
def plankSymbols (bytes : List Byte) : List (BitVec 10) :=
  (List.range 256).map fun j => BitVec.ofNat 10 (leNat (fit 320 bytes) >>> (10 * j))

/-- The codeword of a plank: its message symbols and the sixteen parity symbols (DEDUCED, log entry 38: symbol 0 is the highest
power). -/
def codeword (bytes : List Byte) : List (BitVec 10) :=
  plankSymbols bytes ++ (plankSymbols bytes).foldl lineStep (List.replicate 16 0)

/-- The syndrome of a received codeword at α^i. -/
def lineSyndrome (c : List (BitVec 10)) (i : Nat) : BitVec 10 := c.foldl (fun s x => gf10Mul s (gf10Pow i) ^^^ x) 0

/-- The bits of a codeword as they are sent: the symbols in order, bit 0 of each first. -/
def codewordBits (c : List (BitVec 10)) : List Bool := c.flatMap fun s => (List.range 10).map s.getLsbD

/-- The 85 blocks of a group on lane `i`, which carry eight codewords (R399 to R401). -/
def groupBits (i : Nat) (planks : List (List Byte)) : List Bool :=
  blocksOf 85 0 (scramble i ((planks.take 8).flatMap fun b => codewordBits (codeword b)))

/-! ### The control block of a plank (R405, Table 15.1) -/

/-- The fields of a control block. -/
structure Control where
  kind    : BitVec 4
  rpl     : Bool := false
  ack     : BitVec 12 := 0
  pseq    : BitVec 12 := 0
  start   : BitVec 9 := 0
  stop    : BitVec 9 := 8
  crVc    : BitVec 4 := 0xF
  crCells : BitVec 7 := 0
  deriving DecidableEq, Repr, Inhabited

/-- A control block as its word, RSV zero. -/
def Control.word (c : Control) : Word :=
  c.kind ++ BitVec.ofBool c.rpl ++ c.ack ++ c.pseq ++ c.start ++ c.stop ++ c.crVc ++ c.crCells ++ 0#6

/-- The control block that a word is. -/
def Control.ofWord (w : Word) : Control where
  kind    := w.extractLsb' 60 4
  rpl     := w.getLsbD 59
  ack     := w.extractLsb' 47 12
  pseq    := w.extractLsb' 35 12
  start   := w.extractLsb' 26 9
  stop    := w.extractLsb' 17 9
  crVc    := w.extractLsb' 13 4
  crCells := w.extractLsb' 6 7

/-- TYPE of a plank body; a reserved body stands for every code above FILL. -/
def PlankBody.kind : PlankBody → BitVec 4
  | .data _ => 0
  | .init _ => 1
  | .doze _ _ => 3
  | .fill => 4
  | .reserved => 5

/-- A received plank's control block, but for START and END, which say where the packets lie. -/
def Plank.control (k : Plank) : Control :=
  { kind := k.body.kind, rpl := k.rpl, ack := k.ack, pseq := k.pseq, crVc := k.crVc, crCells := k.crCells }

/-- Bytes 8 to 319 of a plank that is no DATA plank (R410, R419, R420). -/
def PlankBody.bytes : PlankBody → List Byte
  | .init cs => fit 312 ((cs.take 10).map (BitVec.ofNat 8))
  | .doze deep deepAck => fit 312 [BitVec.ofNat 8 (bit01 deep + 2 * bit01 deepAck)]
  | _ => zeros 312

/-- A plank that carries no stream bytes, as its 320 bytes (R405). -/
def Plank.bare (k : Plank) : List Byte := leBytes 8 k.control.word.toNat ++ k.body.bytes

/-! ### Training words (R413, Table 15.3) -/

/-- The 32 bytes of a training word, RSV zero. -/
def TrainingWord.bytes (w : TrainingWord) : List Byte :=
  leBytes 2 w.magic.toNat ++ [0#1 ++ w.widths ++ BitVec.ofBool w.ready ++ w.lane, 0#4 ++ w.preset, w.coefReq, w.coefStat] ++
    leBytes 2 w.fom.toNat ++ zeros 24

/-- The training word that 32 bytes are. -/
def TrainingWord.ofBytes (b : List Byte) : TrainingWord where
  magic    := BitVec.ofNat 16 (leNat (b.take 2))
  lane     := (b.getD 2 0).extractLsb' 0 3
  ready    := (b.getD 2 0).getLsbD 3
  widths   := (b.getD 2 0).extractLsb' 4 3
  preset   := (b.getD 3 0).extractLsb' 0 4
  coefReq  := b.getD 4 0
  coefStat := b.getD 5 0
  fom      := BitVec.ofNat 10 (leNat (slice b 6 2))

end Sys2Proof.Machine
end

