-- ==== Sys2Proof/Laws/Wire.lean ====
section
/-! SUPPORT. What the layouts of the wire lose: nothing of a control block or of a training word, and descrambling gives back what was
scrambled. -/
namespace Sys2Proof.Machine

theorem Control.ofWord_word (c : Control) : Control.ofWord c.word = c := by
  obtain ⟨kind, rpl, ack, pseq, start, stop, crVc, crCells⟩ := c
  simp only [Control.ofWord, Control.word, Control.mk.injEq]
  refine ⟨?_, ?_, ?_, ?_, ?_, ?_, ?_, ?_⟩
  case refine_2 => simp only [BitVec.getLsbD_append]; simp
  all_goals
    apply BitVec.eq_of_getLsbD_eq
    intro i hi
    simp only [BitVec.getLsbD_extractLsb', hi, decide_true, Bool.true_and]
    simp (disch := omega) only [BitVec.getLsbD_append, if_pos, if_neg]
    try (congr 1; omega)

theorem scrambleRun_scrambleRun (g : BitVec 31) (l : List Bool) : scrambleRun g (scrambleRun g l) = l := by
  induction l generalizing g with
  | nil => rfl
  | cons x l ih => simp [scrambleRun, ih]

theorem scramble_scramble (i : Nat) (l : List Bool) : scramble i (scramble i l) = l := scrambleRun_scrambleRun _ l

/-- A synchronised checker counts no error in its generator's own bits. -/
theorem prbsErrors_prbsRun (poly n : Nat) (past : List Bool) : prbsErrors poly past (prbsRun poly past n) = 0 := by
  induction n generalizing past with
  | zero => rfl
  | succ n ih => simp [prbsRun, prbsErrors, ih, bit01]

/-- Two bytes of a number below 2^16, read back. -/
theorem leNat_leBytes_two (n : Nat) (h : n < 65536) : leNat (leBytes 2 n) = n := by
  simp only [leBytes, leNat, BitVec.toNat_ofNat]; omega

theorem TrainingWord.ofBytes_bytes (w : TrainingWord) : TrainingWord.ofBytes w.bytes = w := by
  obtain ⟨magic, lane, ready, widths, preset, coefReq, coefStat, fom⟩ := w
  have hm := leNat_leBytes_two magic.toNat magic.isLt
  have hf := leNat_leBytes_two fom.toNat (by have := fom.isLt; omega)
  simp only [TrainingWord.ofBytes, TrainingWord.bytes, TrainingWord.mk.injEq, slice, leBytes, List.cons_append, List.nil_append,
    List.take_succ_cons, List.take_zero, List.drop_succ_cons, List.drop_zero, List.getD_cons_succ, List.getD_cons_zero] at hm hf ⊢
  refine ⟨by rw [hm]; simp, ?_, ?_, ?_, ?_, trivial, trivial, by rw [hf]; simp⟩
  case refine_2 => simp only [BitVec.getLsbD_append]; simp
  all_goals
    apply BitVec.eq_of_getLsbD_eq
    intro i hi
    simp only [BitVec.getLsbD_extractLsb', hi, decide_true, Bool.true_and]
    simp (disch := omega) only [BitVec.getLsbD_append, if_pos, if_neg]
    try (congr 1; omega)

end Sys2Proof.Machine
end

