-- ==== Sys2Proof/WellFormed.lean ====
section
/-! DEFINITION. Which commands the environment can send: the conditions that the operand types do not carry. -/
namespace Sys2Proof

/-- A command is well formed when it names an engine that has queues (R219), a host access has the width its window takes
(R316, R318, R333), and a PCIe read asks for at most 4 KiB. -/
def Instr.wf : Instr → Bool
  | .bayQcfgEnable _ e _ _ => decide (e.val ≠ 2)
  | .bayQcfgDisable _ e _ _ => decide (e.val ≠ 2)
  | .descriptorStart _ e _ => decide (e.val ≠ 2)
  | .descWaitTimeout _ e _ => decide (e.val ≠ 2)
  | .descriptorComplete _ e _ => decide (e.val ≠ 2)
  | .prefetchWalk _ e _ => decide (e.val ≠ 2)
  | .bar2Write _ _ d => decide (1 ≤ d.length) && decide (d.length ≤ 4096)
  | .bar2Read _ _ n => decide (1 ≤ n) && decide (n ≤ 4096)
  | .mortiseStageWrite _ _ o d => decide (1 ≤ d.length) && decide (o + d.length ≤ 16)
  | _ => true

end Sys2Proof
end

