-- ==== Sys2Proof/Tests/Slice0.lean ====
section
/-! SUPPORT. Tests: well-formedness, effects of commands against the spec's own numbers, and for each obligation a concrete
state and operands that meet the hypotheses of its clauses. A clause whose hypothesis rests on a free value or on an opaque
function of the cryptography cannot be evaluated; its theorem here shows the other hypotheses. -/
namespace Sys2Proof.Tests
open Sys2Proof Sys2Proof.Machine

set_option Elab.async false

/-! ### Recertification (Table 13.16) -/

theorem test_recertified : recertified 25 600 0 10 0 = some 1 ∧ recertified 25 600 1 10 0 = some 2 ∧
    recertified 9 599 8 5000 0 = some 3 ∧ recertified 30 700 0 0 1 = none := by decide

/-! ### What a lane carries (chapter 15): every syndrome of two message symbols with their parity is zero (R401), an INIT of channel 3
(Table 15.1) -/

theorem test_line_code : (List.range 16).map (lineSyndrome ([5, 6] ++ [5, 6].foldl lineStep (List.replicate 16 0))) =
    List.replicate 16 0 := by decide +kernel

theorem test_control_word : ({ kind := 1, ack := 2, pseq := 3 } : Control).word = 0x100100180011E000#64 := by decide +kernel

/-! ### Well-formedness -/

theorem test_wf_engine : (Instr.bayQcfgEnable 0 2 0 { value := 0 }).wf = false := by decide
theorem test_wf_engine_disable : (Instr.bayQcfgDisable 0 2 0 { value := 0 }).wf = false := by decide
theorem test_wf_engine_start : (Instr.descriptorStart 0 2 0).wf = false := by decide
theorem test_wf_engine_wait : (Instr.descWaitTimeout 0 2 0).wf = false := by decide
theorem test_wf_engine_complete : (Instr.descriptorComplete 0 2 0).wf = false := by decide
theorem test_wf_engine_prefetch : (Instr.prefetchWalk 0 2 0).wf = false := by decide
theorem test_wf_bar2_empty : (Instr.bar2Write 0 0 []).wf = false := by decide
theorem test_wf_bar2_long : (Instr.bar2Write 0 0 (List.replicate 4097 0)).wf = false := by decide +kernel
theorem test_wf_bar2_read_none : (Instr.bar2Read 0 0 0).wf = false := by decide
theorem test_wf_bar2_read_long : (Instr.bar2Read 0 0 4097).wf = false := by decide
theorem test_wf_stage_empty : (Instr.mortiseStageWrite 0 0 0 []).wf = false := by decide
theorem test_wf_stage_beyond : (Instr.mortiseStageWrite 0 0 12 [0, 0, 0, 0, 0]).wf = false := by decide
theorem test_wf_good : (Instr.descriptorStart 0 3 0).wf = true ∧ (Instr.bar2Read 0 0 4096).wf = true ∧
  (Instr.mortiseStageWrite 0 0 8 [0, 0, 0, 0, 0, 0, 0, 0]).wf = true := by decide

/-! ### Helpers -/

/-- A hub with supplies and every domain and clock on, READY. -/
def base : Hub :=
  (({ brd := { supplies := true, aonReset := false, resetN := true }, now := 10000000000,
      regs := [(rPwrDom, 0x000FFFFF000FFFFF#64), (rClkBay, BitVec.allOnes 64), (rClkBlk, 0x3FFFF#64), (rMemTop, 0x0000100000100000#64)] } :
    Hub).setFld rPwrBoot 60 4 phReady)
/-- The hub at another phase of start-up. -/
def inPhase (n : Nat) : Hub := base.setFld rPwrBoot 60 4 n
/-- A state with a hub. -/
def st (h : Hub) : State := { hub := h, vault := {}, pending := [] }
/-- The hub with its board side changed. -/
def onBrd (h : Hub) (f : Board → Board) : Hub := { h with brd := f h.brd }
/-- A port in a state of training, at full width. -/
def portAt (h : Hub) (p lk : Nat) : Hub := ((h.setFld (rPstat p) 60 4 lk).setFld (rPstat p) 58 2 3).setFld (rPstat p) 8 8 0xFF
/-- The hub with a port's record changed. -/
def onPort (h : Hub) (p : Nat) (f : Port → Port) : Hub := h.setPort p (f (h.port p))
/-- The hub with the first two joist ports up and 8 credits in every channel. -/
def linked : Hub := onPort (portAt base 0 lkActive) 0 fun q => { q with credits := [8, 8, 8, 8, 8, 8, 8, 8, 8, 8] }

/-! ### Start-up -/

theorem witness_settle : (onBrd (inPhase 3) fun b => { b with strapAt := 0 }).booting 3 = true ∧
    0 + 2 ^ base.brd.straps.settle.toNat * 1000000 ≤ (inPhase 3).now ∧
    mapSpares (([] : List (Fin 64)).map (·.val)) = some [] := by decide +kernel
theorem witness_start : ({ sealed := 1 } : Vault).sealed ≠ ({ sealed := 1 } : Vault).trans ∧
    ({} : Vault).sealed = ({} : Vault).trans ∧ ({} : Vault).tokenCode ≠ 1 ∧ ({} : Vault).state = 0 ∧
    ({ state := 5 } : Vault).tokenCode ≠ 1 ∧ ({ state := 5 } : Vault).state = 5 := by decide +kernel
theorem witness_power_good : (onBrd (inPhase 7) fun b => { b with todo := [4, 5] }).switching 4 = true ∧
    ¬ ((inPhase 7).phase = 7 ∧ ([4, 5] : List Nat).drop 1 = []) ∧
    (onBrd base fun b => { b with todo := [4] }).switching 4 = true ∧ base.brd.stepAt + 2000000 ≤ base.now := by decide +kernel
theorem witness_boot_memory : (inPhase 9).booting 9 = true ∧ (inPhase 9).domainOn 10 = true ∧ (inPhase 10).booting 10 = true ∧
    (inPhase 10).brd.step = 0 ∧ (inPhase 10).brd.wipeTwice = false ∧ imgFlag (inPhase 10).brd.image 2 = false ∧
    (onBrd (inPhase 10) fun b => { b with step := 1 }).brd.wipeFail = none ∧ (inPhase 11).booting 11 = true ∧
    (inPhase 11).brd.stepAt + 200000000 ≤ (inPhase 11).now := by decide +kernel
theorem witness_ready : (inPhase 12).booting 12 = true ∧ (inPhase 12).brd.stepAt + 1000000 ≤ (inPhase 12).now := by decide +kernel
theorem witness_supplies : State.reset.hub.brd.supplies = false ∧
    (let h := onBrd ({ now := 2000000 } : Hub) fun b => { b with supplies := true };
      h.brd.supplies = true ∧ h.brd.aonReset = true ∧ h.brd.supplyAt + 2000000 ≤ h.now) ∧
    base.brd.aonReset = false ∧ base.brd.resetN = true ∧ base.brd.upd = none ∧ base.brd.rcv = none := by decide +kernel
theorem witness_strap_edge : (let h := onBrd base fun b => { b with resetN := false, slot := 2 };
    h.brd.aonReset = false ∧ h.brd.resetN = false ∧ ({ settle := 0, bank := false, plane := 0, slot := 2 } : Straps).slot = h.brd.slot ∧
    ({ settle := 0, bank := false, plane := 0, slot := 1 } : Straps).slot ≠ h.brd.slot) := by decide +kernel

/-- A hub in RECOVERY whose first PF decodes memory. -/
def recovering : Hub := ((inPhase phRecovery).setFld rLcyState 61 3 2).setFunc 0 { mem := true }

theorem witness_recovery : recovering.rcvPort 0 = true ∧ recovering.bit rRcvCtl 63 = false ∧ recovering.lcy ≠ 5 ∧
    recovering.rcvWritable 0 = true ∧ recovering.rcvWritable 3 = false ∧ (recovering.setFld rLcyState 61 3 5).lcy = 5 ∧
    (recovering.setFld rLcyState 61 3 5).rcvPort 0 = true ∧ (recovering.setFld rRcvCtl 54 2 2).fld rRcvCtl 54 2 = 2 ∧
    recovering.fld rRcvCtl 54 2 = 0 ∧ base.domainOn 11 = true ∧ (base.setReg rPwrDom 0).domainOn 11 = false := by decide +kernel

/-! ### Power, clocks, pins -/

theorem witness_domains : base.ready = true ∧ bitAt (base.reg rPwrDom) 10 = true ∧ bitAt (0 : Word) 10 = false ∧
    ((base.setFld (rCtxCfg 255) 63 1 1).setFld (rCtxRoot 255) 0 52 lpBase).mayOff 10 = false ∧ (inPhase 11).ready = false := by decide +kernel
theorem witness_clocks : (∀ b, b < 64 → base.bayClockable b = true) ∧
    (∀ b, b < 64 → (base.bayTenant b || base.baySystem b) = false) ∧ bitAt (base.reg rClkBay) 63 = true ∧
    (base.setFld (rQcfgBay 63 3 3) 62 2 3).baySystem 63 = true ∧ bitAt (base.reg rClkBlk) 15 = true ∧
    (∀ i, i < 18 → base.blkClockable i = true) ∧ (∀ i, i < 16 → base.sawLoad i = 0) ∧
    ({ base with coll := { base.coll with slots := [(0, { state := .running, saws := [15] })] } } : Hub).sawLoad 15 ≠ 0 := by decide +kernel
theorem witness_duty : base.wrightRuns = true ∧ base.brd.dutyPower ≤ 64 ∧ base.brd.dutyTherm ≤ 64 ∧
    dutyFits 100 10 base.powerLimit 8 = true ∧ dutyFits 0 0 0 8 = true := by decide +kernel
theorem witness_rails : base.domainOn 2 = true ∧ base.brd.avsAt ≤ base.now ∧
    (onBrd base fun b => { b with avsMiss := 2 }).brd.avsMiss = 2 ∧ base.brd.supplies = true := by decide +kernel
theorem witness_pins : base.smbOn = true ∧ (base.setFld rFltFirst 63 1 1).bit rFltFirst 63 = true ∧
    (onBrd base fun b => { b with resetN := false }).brd.resetN = false ∧ (true || false || false) = true := by decide +kernel

/-! ### Registers and the plumb -/

theorem witness_writes : (∀ o ∈ settingRegs, base.regLive o = true) ∧ regInfo 0x5 = none ∧ base.inRecovery = false ∧
    funcMayWrite 3 rLifetime = false ∧ base.hostOn (31 / 16) = true ∧
    (let h := (base.setFld (rHstFunc 31) 63 1 1).setFunc 31 { mem := true }; h.funcOn 31 = true ∧ (h.func 31).mem = true) := by decide +kernel
theorem witness_counters : regInfo rAgeDrop = regCtr ∧ base.regLive rAgeDrop = true ∧ regInfo (rApwMiss 31) = regCtr ∧
    base.regLive (rApwMiss 31) = true ∧ rAgeDrop % 8 = 0 := by decide +kernel
theorem witness_faults : base.brd.aonReset = false ∧ base.bit rFltFirst 63 = false ∧ base.logUsed < 1024 ∧
    base.rateLimited 3 .corrected = false ∧ (base.setFld rFltLog 32 32 1024).logUsed = 1024 ∧
    ({ base with plumb := { lastCorr := [(3, base.now + 1)] } } : Hub).rateLimited 3 .corrected = true ∧
    (base.setFld rFltPin 1 1 1).bit rFltPin 1 = true := by decide +kernel
theorem witness_plumb_registers : ({ base with plumb := { pulse := some 1 } } : Hub).plumb.pulse = some 1 ∧ 1 ≤ base.now ∧
    bitAt (0x8000000000000000#64) 63 = true ∧ (5 + 2 ^ 32 - 5) % 2 ^ 32 ≤ base.logUsed ∧ base.ready = true ∧
    (inPhase 11).ready = false := by decide +kernel
theorem witness_wear : base.wrightRuns = true ∧ ({ base with wear := { hours := 720 } } : Hub).wear.sumHour + 720 ≤ 720 ∧
    base.wear.hours < base.wear.sumHour + 720 ∧ (inPhase 11).ready = false := by decide +kernel

/-! ### The switch core -/

/-- A hub with the system's key slots loaded and the ACTIVE bank 0. -/
def sys : Hub := ((base.setFld (rKslot 32) 62 2 ksWrite).setFld (rKslot 33) 62 2 ksRead).setFld rScarf 1 2 bankActive
/-- A partition that is ACTIVE, owns joist 0, pegs 0 to 63, mortises 0 to 3, bay 0 and VF 1, and may send to node 0. -/
def parted : Hub :=
  let ws : List Word := [0, 1, 0, 2, 1, 0, 0x0000040000400000#64, 0, 0x8000010000000000#64, 0, 0, 0, 0, 0, 0, 0, 1]
  ({ sys with sec := { sys.sec with parts := [(0, ws)] } } : Hub).setReg (rPartStat 0) (BitVec.ofNat 64 (ptActive * 2 ^ 61))
/-- A system packet from node 5 to the hub's own node. -/
def sysPkt (opc : BitVec 4) (md : BitVec 4) : Packet := { opc := opc, md := md, kslot := 32, src := 5, tag := 9 }
/-- A held packet. -/
def held (ing : Ingress) (vc : Nat) (p : Packet) : Held := { pid := 7, ing := ing, vc := vc, pkt := p }
/-- A hub with one packet in its receive buffers. -/
def received (h : Hub) (x : Held) : Hub := { h with swc := { h.swc with rx := [x] } }
/-- A hub with one packet in a queue. -/
def queued (h : Hub) (out : Nat) (x : Held) : Hub := { h with swc := { h.swc with queues := [(qkey out x.pkt.cls.toNat, [x])] } }

theorem witness_verdicts : (sysPkt opcRd 0).opc ≠ opcMgt ∧ ({ sys with plumb := { fatal := 1 } } : Hub).alive = false ∧
    Ingress.port 0 ≠ .inner ∧ sys.alive = true ∧ (inPhase 12).ready = false ∧ ({ sys with snd := { expelled := true } } : Hub).snd.expelled = true ∧
    (sys.setFld (rAbsent 15) 63 1 1).absent 1023 = true ∧ sys.ownsJoist 0 71 = false ∧ (sysPkt opcRd 0).isSystem = true ∧
    ({} : Packet).isSystem = false ∧ parted.mayRafter 0 7 = false ∧ parted.inDset 0 1023 = false ∧ parted.ownsJoist 0 0 = true ∧
    parted.inDset 0 0 = true ∧ sys.partState 15 = ptFree := by decide +kernel
theorem witness_ingress :
    (let x := held .inner 0 { sysPkt opcRd 0 with aux40 := 8 }
     let h := received sys x
     h.rxHead .inner 0 = some x ∧ x.route = none ∧ h.verdict x = .nak nakNoRoute ∧
     ({ h with swc := { h.swc with routes0 := [(0, 0x80000000#32)] } } : Hub).verdict x = .go .target ∧
     (h.setFld rScarf 1 2 bankFreeCode).verdict x ≠ .wait ∧ ({ h with plumb := { fatal := 1 } } : Hub).verdict x = .silent ∧
     (received (inPhase 12) x).verdict x = .ageDrop ∧
     ({ h with plumb := { fatal := 1 } } : Hub).verdict (held (.port 0) 0 x.pkt) = .discard) := by decide +kernel
theorem witness_admit :
    (let x : Held := { held (.port 1) 2 { sysPkt opcRsp 1 with cls := 1 } with route := some (.queue 3) }
     let h := received sys x
     h.rxHead (.port 1) 2 = some x ∧ x.pkt.cls ≠ 0 ∧
     (h.swc.rx.find? fun y => decide (y.route = some (.queue 3)) && decide (y.pkt.cls = x.pkt.cls)) = some x) ∧
    admits 0 0 10 5 100 1 = true ∧
    (let x : Held := { held (.port 1) 0 (sysPkt opcRd 0) with route := some .target }
     (received sys x).rxHead (.port 1) 0 = some x ∧ x.pkt.opc = opcRd ∧ inboxCells sys.sill.reqs x.vc + x.pkt.cells ≤ 8) ∧
    (let x : Held := { held (.port 85) 8 { sysPkt opcMgt 3 with cls := 4 } with route := some .target }
     (received sys x).rxHead (.port 85) 8 = some x ∧ x.pkt.opc = opcMgt) := by decide +kernel
theorem witness_transmit :
    (let x := held .inner 0 (sysPkt opcRd 0)
     let h := queued { linked with sec := sys.sec } 0 x
     h.qlist 0 0 = [x] ∧ h.alive = true ∧ h.portUp 0 = true ∧ h.sec.gone.contains 32 = false ∧ x.upset = none ∧ x.group = [] ∧
     h.canSend 0 (outgoing 0 x) = true ∧ (onPort h 0 fun q => { q with credits := [] }).canSend 0 (outgoing 0 x) = false ∧
     ({ h with sec := { gone := [32] } } : Hub).sec.gone.contains x.pkt.kslot.toNat = true ∧ x.pkt.cls = 0) := by decide +kernel
theorem witness_multicast :
    (let x := held .inner 6 { sysPkt opcColr 0 with cls := 3, mc := true, aux64 := 1 }
     let h := queued { linked with sec := sys.sec } 86 x
     h.qlist 86 3 = [x] ∧ h.alive = true ∧ h.sec.gone.contains x.pkt.kslot.toNat = false ∧ x.upset = none ∧
     (h.copies false x).1 = [0] ∧ x.pkt.mask.testBit 78 = false ∧
     (let plan := h.resvPlan x (h.copies false x).1 (h.copies false x).2.1
      (h.takeResv x (h.resvOf 86 3) plan).length = plan.length ∧
      ((onPort h 0 fun q => { q with credits := [] }).takeResv x [] plan).length < plan.length)) := by decide +kernel
theorem witness_ages :
    (let x := held .inner 0 (sysPkt opcRd 0)
     (received sys x).rxHead .inner 0 = some x ∧ x.at_ + sys.lifetime < sys.now ∧ (queued sys 87 x).qlist 87 0 = [x] ∧
     sys.now ≤ ({ x with at_ := sys.now } : Held).at_ + sys.lifetime ∧ x.pkt.cls = 0 ∧ x.group = [] ∧ sys.swc.overflow ≤ sys.now) ∧
    (tget {} ({ sys.swc with rates := [(0, { busy := true })] } : Swc).rates 0).busy = true ∧
    (tget {} sys.swc.rates 0).since + 10000 ≤ sys.now ∧ (tget {} sys.swc.hot 71).since + sys.hotWindow ≤ sys.now ∧
    sys.now < (tget {} ({ sys.swc with hot := [(71, { since := 10000000000 })] } : Swc).hot 71).since + sys.hotWindow ∧
    sys.hotThresh < 1000000 := by decide +kernel

/-! ### The sill -/

/-- A hub whose sill holds a request. -/
def asked (h : Hub) (p : Packet) : Hub := { h with sill := { h.sill with reqs := [held .inner 0 p] } }
/-- The offset of peg 7's VALUE, of mortise 1, and of nothing. -/
def pegLoc : BitVec 52 := 0x10100000700#52
def mtsLoc : BitVec 52 := 0x10200000100#52
def noLoc : BitVec 52 := 0x10300000000#52

theorem witness_front : (asked sys (sysPkt opcRd 0)).oldestReq 5 0 = some (held .inner 0 (sysPkt opcRd 0)) ∧
    sys.frontCheck (sysPkt opcRd 0) = none ∧ sys.frontCheck { sysPkt opcWr 0 with payload := [1] } = some nakCheck ∧
    sys.frontCheck { sysPkt opcRd 0 with kslot := 63 } = some nakKey ∧ sys.frontCheck (sysPkt opcAt 5) = none ∧ sys.self = 0 := by decide +kernel
theorem witness_reads :
    (let p : Packet := { sysPkt opcRd 0 with aux40 := 1024, loc := 0xC00#52 }
     crosses p = false ∧ memWindow (faOff p.loc.toNat) = true ∧ p.pgm = 0 ∧ sys.memThere (faOff p.loc.toNat) p.rlen = true ∧
     crosses { p with loc := 0xC01#52 } = true) ∧
    (let p : Packet := { sysPkt opcRd 0 with aux40 := 8, loc := pegLoc }
     windowOf (faOff p.loc.toNat) = .peg ∧ sys.pegCheck p true p.rlen = none ∧ crosses p = false) ∧
    (let p : Packet := { sysPkt opcRd 0 with aux40 := 8, loc := noLoc }
     windowOf (faOff p.loc.toNat) = .none ∧ crosses p = false) ∧
    (sysPkt opcRd 1).pgm = 0 ∧ sys.flushLost 5 0 = false := by decide +kernel
theorem witness_stores :
    (let p : Packet := ({ sysPkt opcWra 0 with loc := 0xFFF#52, payload := [0xAB] } : Packet).sealChk
     sys.frontCheck p = none ∧ crosses p = false ∧ memWindow 0xFFF = true ∧ sys.memThere 0xFFF p.len = true ∧
     (sys.memWrite 0xFFF p.payload).1.isSome = true ∧ sys.ownsPeg { p with pgm := 2, peg := 4095 } 4095 = true ∧
     bitAt (sys.peg 4095).trigCtl 2 = false ∧ p.opc = (if true then opcWra else opcWr)) ∧
    (let p : Packet := { sysPkt opcWr 0 with loc := pegLoc + 8, payload := leBytes 8 1 }
     windowOf (faOff p.loc.toNat) = .peg ∧ sys.pegCheck p true p.len = none ∧ crosses p = false ∧ pegWordOff (faOff p.loc.toNat) = 8 ∧
     pegWordOff (faOff pegLoc.toNat) = 0 ∧ pegWordOff (faOff (pegLoc + 16).toNat) = 0x10 ∧ bitAt (sys.peg 7).trigCtl 2 = false) ∧
    (let p : Packet := { sysPkt opcWr 0 with loc := mtsLoc, payload := leBytes 16 1 }
     let h := (sys.setFld (rMtsCfg 1) 63 1 1).setFld (rMtsCfg 1) 62 1 1
     windowOf (faOff p.loc.toNat) = .mortise ∧ h.noticeCheck p 1 = none ∧ p.len = 16 ∧ faOff p.loc.toNat % 256 = 0 ∧
     (faOff p.loc.toNat - 0x10200000000) / 256 = 1) ∧
    (sys.store { sysPkt opcWr 0 with loc := noLoc, payload := [1] }).1 = some nakNoTarget := by decide +kernel
theorem witness_atomics :
    (let p : Packet := { sysPkt opcAt 7 with aux40 := 3, loc := 0x3FFFFF8#52 }
     p.md.toNat = 7 ∧ p.atWidth = 8 ∧ faOff p.loc.toNat % 8 = 0 ∧ sys.memThere (faOff p.loc.toNat) 8 = true ∧ p.fetch = true ∧
     (sys.marksIn (faOff p.loc.toNat) 8).any (fun m => !codeMends m.2) = false ∧ ({ p with loc := 4 } : Packet).loc.toNat % 8 ≠ 0) ∧
    (let p : Packet := { sysPkt opcAt 0 with aux40 := 1, loc := pegLoc }
     windowOf (faOff p.loc.toNat) = .peg ∧ sys.pegCheck p (decide (p.atWidth = 8) && decide (pegWordOff (faOff p.loc.toNat) < 8)) p.atWidth = none) :=
  by decide +kernel
theorem witness_sends :
    (let p : Packet := ({ sysPkt opcSend 0 with aux40 := 0x01000001, aux64 := 0x0000000400000000#64, payload := [1, 2, 3, 4] } : Packet).sealChk
     sys.frontCheck p = none ∧ p.pgm = 0 ∧ bitsGet p.aux64 32 32 = 4 ∧ tget [] sys.sill.posted (p.aux40.toNat % 256) = [] ∧
     tget [] [(1, [(0x1000, 4)])] (p.aux40.toNat % 256) = [(0x1000, 4)] ∧ 4 ≤ p.len ∧
     (([{ src := 5, msn := 1, rq := 1, addr := 0x1000, room := 4, got := [] }] : List Inbound).find? fun m =>
       decide (m.src = p.src) && decide (m.msn = (p.aux40.toNat >>> 24) % 65536) && decide (m.rq = p.aux40.toNat % 256)).isSome = true) := by
  decide +kernel
theorem witness_host :
    (let h := ((sys.setFld (rHstFunc 1) 63 1 1).setFld (rHstFunc 1) 0 10 77).setFunc 1 { mem := true, master := true }
     h.funcOf 77 = some 1 ∧ h.funcAvail 1 = true ∧ (77 : Node) ≠ h.self ∧ (h.setFunc 1 {}).funcAvail 1 = false) ∧
    ([(3, held .inner 0 { sysPkt opcRd 0 with dst := 77 })].find? fun x => decide (x.1 = 3)).isSome = true := by decide +kernel

/-- A request of bay 0's thread 0 that is in flight to node 6. -/
def flight : Outstanding :=
  { node := 0, tag := 9, agent := .thread 0 0, pkt := { opc := opcRd, dst := 6, aux40 := 8 }, deadline := 5, epoch := false, cont := .thread }
/-- The response of node 6. -/
def answer : Packet := ({ opc := opcRsp, src := 6, tag := 9, payload := leBytes 8 1 } : Packet).sealChk
/-- A hub with requests in flight. -/
def flying (l : List Outstanding) : Hub := { sys with sill := { out := l } }

theorem witness_responses : (flying [flight]).matching answer = some flight ∧ flight.ofGroup = false ∧ answers flight.pkt answer = true ∧
    answer.chkOk = true ∧ answers flight.pkt { answer with md := 1 } = false ∧ ({ answer with chk := 0 } : Packet).chkOk = false ∧
    ({ answer with opc := opcNak } : Packet).tag.toNat < 0xF00 ∧ (flying []).matching answer = none ∧
    (flying []).matching { answer with opc := opcNak, tag := 0xF00 } = none ∧
    (flying [{ flight with cont := .combined [{}, {}] }]).matching answer = some { flight with cont := .combined [{}, {}] } ∧
    (flying [flight]).expired 0 9 = some flight ∧ ({ flight with cont := .combined [] } : Outstanding).ofGroup = true := by decide +kernel
theorem witness_fences :
    (let f : Fence := { agent := .thread 3 1, dst := none, deadline := 5, epoch := none, next := .thread }
     let h : Hub := { sys with sill := { fences := [f] } }
     h.fenceReady f = true ∧ (h.sill.fences.find? fun y => decide (y.agent = f.agent)) = some f ∧ f.deadline ≤ h.now ∧
     ({ h with sill := { h.sill with out := [{ flight with agent := .thread 3 1 }] } } : Hub).fenceReady f = false) ∧
    (let h := sys.setThread 3 1 { state := .run, wait := .fence (.instr 4 true) }
     (h.thread 3 1).wait = .fence (.instr 4 true) ∧ (h.thread 3 1).stop = false) ∧
    (let w : PegWait := { agent := .thread 63 15, peg := 1, thresh := 5, deadline := some 10 }
     let h : Hub := { sys.setThread 63 15 { state := .run, wait := .peg 31 } with pegs := { waits := [w] } }
     w ∈ h.pegs.waits ∧ (h.thread 63 15).wait = .peg 31 ∧ 10 ≤ h.now) := by decide +kernel

/-! ### Threads -/

/-- A word: opcode, RD, RA, RB and FN (Table 9.5), guarded by p0. -/
def word (opc rd ra rb fn : Nat) : Nat := opc * 2 ^ 26 + rd * 2 ^ 17 + ra * 2 ^ 12 + rb * 2 ^ 7 + fn
/-- A hub whose bay 63 runs thread 15, of the system, at PC 5 with a word fetched and given registers. -/
def threaded (w : Nat) (regs : Table Word) : Hub :=
  (sys.setThread 63 15 { state := .run, pc := 5, regs := regs, ahead := [(5, some (BitVec.ofNat 64 w))] }).setFld (rTctl 63 15) 61 1 1
/-- The conditions under which a word of a row executes. -/
def executes (w : Nat) (r : AugerRow) (regs : Table Word) : Bool :=
  let h := threaded w regs
  h.mayIssue 63 15 && decide ((h.fetchWord 63 (h.thread 63 15)).1 = some w) && !(h.thread 63 15).stop && augerLegal w &&
    augerEnabled (h.thread 63 15) w && decide (augerRow w = r)

theorem witness_integer : executes (word 0x01 31 1 2 0x00) .alu [] = true ∧ executes (word 0x01 0 1 2 0x14) .alu [] = true ∧
    executes (word 0x02 1 1 31 0x7F) .addi [] = true ∧ executes (word 0x03 1 1 0 0) .andi [] = true ∧
    executes (word 0x04 1 1 0 0) .ori [] = true ∧ executes (word 0x05 1 1 0 0) .xori [] = true ∧
    executes (word 0x06 1 1 1 63) .shi [] = true ∧ executes (0x07 * 2 ^ 26 + 3 * 2 ^ 24 + 31 * 2 ^ 19 + 65535) .movz [] = true ∧
    executes (0x08 * 2 ^ 26 + 31 * 2 ^ 19 + 65535) .movk [] = true := by decide +kernel
theorem witness_compares : executes (0x09 * 2 ^ 26 + 7 * 2 ^ 19 + 5) .cmp [] = true ∧ executes (0x0A * 2 ^ 26 + 3 * 2 ^ 17 + 4095) .cmpi [] = true ∧
    executes (0x0B * 2 ^ 26 + 7 * 2 ^ 19 + 4 * 2 ^ 10) .plog [] = true ∧ augerRow (0x09 * 2 ^ 26 + 6) = .cmp ∧
    augerRow (0x0B * 2 ^ 26 + 5 * 2 ^ 10) = .plog := by decide +kernel
theorem witness_loft : executes (word 0x10 1 2 0 0) .lb [(2, 0x3FFFFF#64)] = true ∧ executes (word 0x16 1 2 0 0) .ld [(2, 0x3FFFF8#64)] = true ∧
    executes (word 0x1B 1 2 0 0) .sd [(2, 0x3FFFF8#64)] = true ∧
    ((threaded 0 []).memWrite (loftOff 63 0x3FFFF8) (leBytes 8 1)).1.isSome = true ∧
    ((threaded 0 []).marksIn (loftOff 63 0x3FFFF8) 8).any (fun m => !codeMends m.2) = false ∧
    ((({ threaded 0 [] with mem := { marks := [((loftOff 63 0x3FFFF8) / 32, 7)] } } : Hub).marksIn (loftOff 63 0x3FFFF8) 8).any
      fun m => !codeMends m.2) = true := by decide +kernel
theorem witness_branches : executes (0x20 * 2 ^ 26 + (2 ^ 22 - 5)) .br [] = true ∧ (0 : Int) ≤ 5 + (BitVec.ofNat 22 (2 ^ 22 - 5)).toInt ∧
    (5 : Int) + (BitVec.ofNat 22 (2 ^ 22 - 6)).toInt < 0 ∧ executes (0x21 * 2 ^ 26 + 1) .call [] = true ∧
    executes (word 0x22 31 1 0 0) .jmpr [(1, 0x3FFFFC#64)] = true ∧ augerRow (word 0x22 0 0 1 0) = .jmpr := by decide +kernel
theorem witness_system : executes (word 0x3C 0 0 0 0x00) .nop [] = true ∧ executes (word 0x3C 0 1 0 0x03) .trap [] = true ∧
    executes (word 0x3C 0 0 0 0x04) .eret [] = true ∧ executes (word 0x3C 1 0 8 0x08) .mfs [] = true ∧ executes (word 0x3C 1 0 4 0x08) .mfs [] = true ∧
    executes (word 0x3C 0 1 2 0x09) .mts [] = true ∧ executes (word 0x3C 0 1 0 0x09) .mts [] = true ∧
    executes (word 0x3C 1 2 3 0x0A) .tstart [(2, 7)] = true ∧ executes (word 0x3C 0 0 0 0x01) .halt [] = true ∧
    (threaded 0 []).kernelSlot 63 7 = none ∧ (threaded 0 []).mem.marks = [] ∧ ((threaded 0 []).thread 63 7).state ≠ .run := by decide +kernel
theorem witness_remote : (threaded 0 []).threadSys 63 15 = true ∧ (threaded 0 []).atLimit (.thread 63 15) = false ∧
    (threaded 0 []).drawTag (threaded 0 []).self = some 1 ∧ adSpace (0x8000040000000000#64) = 2 ∧
    bitsGet (0x8000040000000000#64) 52 10 = 0 ∧ (threaded 0 []).inLoft 63 (bitsGet (0x8000040000000000#64) 0 52) = false ∧
    executes (word 0x28 1 2 0 0x0B) .rld [] = true ∧ executes (word 0x29 0 2 3 0x07) .rst [] = true ∧ executes (word 0x29 0 2 3 0x03) .rst [] = true ∧
    executes (word 0x2A 1 2 3 0x3F) .rat [] = true ∧ executes (word 0x34 2 3 0 1) .mput [] = true ∧ executes (word 0x2D 0 2 0 1) .cinvLine [] = true ∧
    executes (word 0x2D 0 0 0 0) .cinvTag [] = true ∧ executes (word 0x2C 1 0 0 0) .fenceLoft [] = true ∧
    executes (word 0x2C 1 2 0 0x11) .fenceNode [] = true ∧ executes (word 0x2C 1 0 0 0x12) .fenceAll [] = true := by decide +kernel
theorem witness_pegs : executes (word 0x30 0 1 2 1) .padv [(1, 4095)] = true ∧ executes (word 0x31 1 2 3 0) .pwait [] = true ∧
    executes (word 0x32 1 2 0 0) .prd [] = true ∧ executes (word 0x35 2 1 0 7) .mget [] = true ∧ executes (word 0x38 1 2 3 1) .ecmd [] = true ∧
    (threaded 0 []).agentOwnsPeg (.thread 63 15) 4095 = true ∧ (parted.setThread 0 0 {}).agentOwnsPeg (.thread 0 0) 4095 = false ∧
    reached 5 5 = true ∧ reached 4 5 = false ∧
    ((threaded 0 []).setFld (rMtsCfg 255) 62 1 1).threadOwnsMortise 63 15 255 = true ∧ (parted.setFld (rMtsCfg 9) 58 4 15).threadOwnsMortise 0 0 9 = false ∧
    (((threaded 0 []).setFld (rQcfgBay 63 3 3) 62 2 3).bit (rQcfgBay 63 3 3) 62 = true) ∧
    (∀ d ∈ [0, 4095], (threaded 0 []).pegPart d = none) := by decide +kernel
theorem witness_guards : augerEnabled ((threaded (word 0x02 1 1 0 0 + 2 ^ 22) []).thread 63 15) (word 0x02 1 1 0 0 + 2 ^ 22) = false ∧
    augerLegal (word 0x02 1 1 0 0 + 2 ^ 22) = true ∧ augerLegal (word 0x01 0 0 0 0x7F) = false ∧ augerRow (word 0x01 0 0 0 0x7F) = .alu ∧
    augerLegal (word 0x3F 0 0 0 0) = false ∧ augerRow (word 0x3F 0 0 0 0) = .reserved ∧
    (sys.setThread 63 15 { state := .run, pc := 2 ^ 20 }).mayIssue 63 15 = true := by decide +kernel

/-! ### Links, joists, route scarfs -/

/-- A hub whose wright holds an MGT packet that came on a port. -/
def mgtOn (h : Hub) (p : Fin 86) (x : Packet) : Hub := { h with sill := { h.sill with mgt := [held (.port p) 8 x] } }
/-- An MGT packet on a link. -/
def mgtPkt (md : BitVec 4) (bs : List Byte) : Packet := { opc := opcMgt, cls := 4, dst := 0x3FF, md := md, payload := bs }

theorem witness_mgt : tokenOk ([1, 1] ++ zeros 54) = true ∧ tokenOk ([2, 1] ++ zeros 54) = false ∧
    (mgtPkt 2 (zeros 16)).len = 16 ∧ linked.linkUp 0 = true ∧ BitVec.ofNat 10 (leNat (slice (zeros 16) 8 8)) = linked.joistNode 0 ∧
    ((onPort linked 0 fun q => { q with peer := some 0 }).port 0).peer = some (linked.joistNode 0) := by decide +kernel
theorem witness_ping : (mgtOn linked 0 (mgtPkt 3 (zeros 8))).sill.mgt = [held (.port 0) 8 (mgtPkt 3 (zeros 8))] ∧ (linked.port 0).waiting = [] ∧
    linked.canSend 0 ((mgtPkt 3 (zeros 8)).pongOf linked.self 0x3FF) = true ∧
    (onPort linked 0 fun q => { q with credits := [] }).canSend 0 ((mgtPkt 3 (zeros 8)).pongOf linked.self 0x3FF) = false ∧
    (portAt base 85 lkHello).lstate 85 = lkHello ∧ ((portAt base 85 lkHello).port 85).stateAt + 5000000 ≤ base.now ∧
    leNat (slice ([1, 0, 1, 0, 0, 0, 0, 0] : List Byte) 0 1) = 1 := by decide +kernel
theorem witness_ports : (portAt base 85 lkDeep).lstate 85 ≠ lkOff ∧ (portAt base 85 lkDeep).lstate 85 ≠ lkDown ∧ base.lstate 85 = lkOff ∧
    (let h : Hub := { linked with swc := { linked.swc with detours := [(0, some { pair := 2, phase := .down })] } }
     h.detourOf 0 = some { pair := 2, phase := .down } ∧ h.portUp 0 = true ∧
     (h.packetsOn (72 + 2 * 2) ++ h.packetsOn (73 + 2 * 2)).any (h.isDetoured 0) = false ∧ 0 + h.lifetime ≤ h.now) ∧
    ({ base with swc := { returning := [77] } } : Hub).returnClear 77 = true := by decide +kernel
theorem witness_flip : sys.regLive rScarfCmd = true ∧ sys.bankState (!sys.epoch) ≠ bankLoaded ∧
    (let h := (sys.setFld rScarf 3 2 bankLoaded).setFld (rAbsent 0) 0 1 0
     h.bankState (!h.epoch) = bankLoaded ∧ ({ h with snd := { h.snd with absP := [0, 1, 2, 3] } } : Hub).peersLoaded = true ∧
     h.peersLoaded = false) := by decide +kernel
theorem witness_scarf : sys.bankState (!sys.epoch) = bankFreeCode ∧ sys.regLive (rRtEntry 1023) = true ∧
    (let h := sys.setFld rScarf 3 2 bankDraining
     h.draining = some true ∧ h.drainCount true = 0 ∧
     ({ h with snd := { h.snd with absP := [0, 1, 2, 3] } } : Hub).peersDrained = true ∧ h.peersDrained = false) ∧
    sys.regLive rLifetime = true ∧ sys.regLive rSmpCtl = true ∧ bitAt (0x8000000000000000#64) 63 = true ∧ sys.bit rSmpCtl 63 = false ∧
    sys.regLive rSmpIdx = true ∧ sys.ready = true ∧ (inPhase 12).ready = false := by decide +kernel

/-! ### Collectives -/

/-- A slot that holds a collective of two members. -/
def collSlot : Slot := { state := .joining, gen := 3, desc := { n := 2, members := [0, 5], sawpits := 1, tmo := 1000 }, saws := [0], k := 1 }
/-- A hub whose slot 511 holds it. -/
def collHub (y : Slot) : Hub := sys.setSlot 511 y
/-- A locator (Table 2.3): CID, GEN, MEMB, CHUNK, PKT. -/
def locator (cid gen memb chunk pkt : Nat) : BitVec 52 :=
  BitVec.ofNat 52 (cid * 2 ^ 43 + gen * 2 ^ 35 + memb * 2 ^ 27 + chunk * 2 ^ 6 + pkt)
/-- A COLC packet for it. -/
def colc (md : BitVec 4) (gen : Nat) (bs : List Byte) : Packet :=
  ({ opc := opcColc, cls := 2, md := md, loc := locator 511 gen 1 0 0, payload := bs } : Packet).sealChk

theorem witness_coll : collSlot.state = .joining ∧ collSlot.n = 2 ∧ (sys.slot 0).state = .free ∧
    (({ sys with coll := { slots := [(5, { state := .done })] } } : Hub).slot 5).state = .done ∧ 0 + 4 * sys.lifetime ≤ sys.now ∧
    (collHub { collSlot with timer := some 5 }).slot 511 = { collSlot with timer := some 5 } ∧
    ((collHub { collSlot with timer := some 5 }).slot 511).holds = true ∧ 5 ≤ sys.now ∧
    (let w : Waiting := { id := 1, opener := .wright 0, desc := { n := 1, sawpits := 1 }, at_ := 0, until_ := some 7 }
     ([w].find? fun y => decide (y.id = 1)) = some w) ∧
    sys.regLive (rSegDir 255) = true ∧ sys.bit (rSegDir 255) 62 = false ∧ (sys.setFld (rSegDir 255) 62 1 1).bit (rSegDir 255) 62 = true ∧
    sys.regLive rSawSeed = true := by decide +kernel
theorem witness_member : (let m : Member := { id := 4, of_ := .queue 63 3, node := 0, hub := 0, cid := 511, gen := 3, tmo := 1, memb := 0, cap := 0,
                                              count := 0 }
    let h : Hub := { (sys.setQueue 63 3 3 { phase := .held }) with coll := { members := [m] } }
    h.member 4 = some m ∧ m.deadline ≤ h.now ∧ (h.queue 63 3 3).phase = .held ∧
    h.membersOf { (colc 0 3 []) with opc := opcColr } = [m] ∧ h.membersOf { (colc 0 4 []) with opc := opcColr } = [] ∧ sys.alive = true) := by decide +kernel
theorem witness_colc : (colc 2 3 (zeros 16)).cid = 511 ∧ (colc 2 3 (zeros 16)).gen = 3 ∧ (colc 2 3 (zeros 16)).memb = 1 ∧
    (colc 2 3 (zeros 16)).chkOk = true ∧ (collHub collSlot).slot 511 = collSlot ∧ collSlot.gen ≠ (colc 2 4 []).gen ∧
    ({ colc 2 3 (zeros 16) with chk := 1 } : Packet).chkOk = false ∧ collSlot.belongs (colc 2 3 (zeros 16)) = true ∧
    collSlot.belongs { colc 2 3 (zeros 16) with part := 9 } = false ∧ (colc 2 3 (zeros 16)).len = 16 ∧ (colc 2 3 (zeros 16)).chunkIx = 0 ∧
    (colc 2 3 (zeros 16)).pktIx = 0 ∧ tget 0 collSlot.counts 1 = 0 ∧
    ((colc 3 3 (zeros 16)).md = 3 ∧ ({ collSlot with state := .running } : Slot).state = .running ∧ tget none collSlot.confirms 1 = none) := by
  decide +kernel
/-- The slot RUNNING with one element of each member. -/
def runSlot : Slot := { collSlot with state := .running, desc := { collSlot.desc with kind := kAllreduce, inF := 7 }, counts := [(0, 2), (1, 2)], len := 1 }

theorem witness_take : runSlot.judge { colc 0 3 (zeros (dataLen 7 1 0)) with aux40 := 0x7000000000#40 } = .take ∧
    runSlot.judge { colc 0 3 (zeros 1) with aux40 := 0x7000000000#40 } = .protocol ∧
    collSlot.worst = none ∧ ({ collSlot with corrupt := some 0 } : Slot).worst ≠ none ∧ collSlot.desc.raise = none := by decide +kernel

/-- A RAISE at slot 511 whose chunk 0 waits for its kernel, with every array absent. -/
def raiseDesc : RaiseDesc := { kernel := 1, ubays := [3], hdr := [BitVec.allOnes 64], shdr := [BitVec.allOnes 64] }
def raiseSlot : Slot :=
  { collSlot with state := .running, desc := { collSlot.desc with kind := kRaise, raise := some raiseDesc },
                  chunks := [(0, { sums := some [(0, [0])], item := some 1 })] }

theorem witness_kernel : (let h := collHub raiseSlot
      (h.slot 511).desc.raise = some raiseDesc ∧ ((h.slot 511).chunk 0).sums = some [(0, [0])] ∧ (h.slot 511).holds = true ∧
      raiseDesc.kernel = 1 ∧ (h.slot 511).chunkAt 0 = 0 ∧ ((h.slot 511).chunk 0).item.isSome = true ∧ ((h.slot 511).chunk 0).weights = none ∧
      (h.slot 511).oldestItem raiseDesc ((h.slot 511).chunk 0) 0 = true ∧ h.alive = true ∧
      (h.kernelInputs (h.slot 511) raiseDesc ((h.slot 511).chunk 0) 0 1).1.isSome = true ∧ h.soundMem ∧ h.statesThere raiseDesc 0 1) ∧
    (let y : Slot := { raiseSlot with chunks := [(0, { sums := some [(0, [0])], item := some 1, weights := some [] })] }
     (y.chunk 0).weights = some [] ∧ (y.chunk 0).sent = false ∧ y.taint < 2 ^ 32 ∧ raiseDesc.kernel ≠ 3) := by
  unfold Hub.soundMem Hub.statesThere Hub.arrayThere
  decide +kernel

/-! ### Bays -/

/-- A hub whose bay 63 has DE queue 3 enabled, with PROD peg 1 and CONS peg 2 and a ring of 16 descriptors. -/
def queueHub (prod : Word) (x : EQueue) : Hub :=
  let h := (((sys.setFld (rQcfgBay 63 3 3) 62 2 3).setFld (rQcfgBay 63 3 3) 24 12 1).setFld (rQcfgBay 63 3 3) 36 12 2).setFld (rQcfgBay 63 3 3) 20 4 4
  { h.setQueue 63 3 3 x with pegs := { words := [(1, { value := prod })] } }

theorem witness_qcfg : sys.bayOn 63 = true ∧ sys.regLive (rQcfgBay 63 3 3) = true ∧ sys.bit (rQcfgBay 63 3 3) 63 = false ∧
    bitAt (0xC000000000000000#64) 63 = true ∧
    sys.qcfgError 63 ((queueHub 0 {}).reg (rQcfgBay 63 3 3)) = 0 ∧ parted.qcfgError 0 (0x8000001000001000#64) ≠ 0 ∧
    (queueHub 0 {}).bit (rQcfgBay 63 3 3) 63 = true ∧ ((queueHub 0 { phase := .waiting }).queue 63 3 3).phase = .waiting := by decide +kernel
theorem witness_desc : (let h := queueHub 17 {};
      2 ^ h.fld (rQcfgBay 63 3 3) 20 4 < ((h.peg (h.fld (rQcfgBay 63 3 3) 24 12)).value - (h.queue 63 3 3).count).toNat ∧
      h.bit (rQcfgBay 63 3 3) 63 = true ∧ h.bit (rQstat 63 3 3) 63 = false ∧ (h.queue 63 3 3).phase = .none) ∧
    (let h := queueHub 16 {};
      ((h.peg 1).value - (h.queue 63 3 3).count).toNat ≤ 16 ∧ reached (h.peg 1).value (0 + 1) = true ∧
      ((h.acquire (.queue 63 3 3)).memRead (loftOff 63 0) 128).1 = some (zeros 128) ∧ reached (0 : Word) (0 + 1) = false) := by decide +kernel
theorem witness_retire : (queueHub 0 { phase := .done }).quiet (.queue 63 3 3) = true ∧ bitsGet (({} : EQueue).w 0) 28 2 = 0 ∧
    bitAt (({} : EQueue).w 0) 42 = false ∧ (queueHub 0 {}).pegs.waits = [] ∧ bitAt ((queueHub 0 {}).peg 2).trigCtl 2 = false ∧
    (let w : PegWait := { agent := .queue 63 3 3, peg := 1, thresh := 5, deadline := some 10 }
     ([w].find? fun w => decide (w.agent = .queue 63 3 3)) = some w ∧ 10 ≤ sys.now) := by decide +kernel
/-- A hub whose head descriptor at queue 3 of an engine of bay 63 is ready to run, from its words. -/
def ready (e : Nat) (ws : List Word) : Hub := sys.setQueue 63 e 3 { phase := .running, desc := fit 128 (wordsBytes ws) }
/-- The head descriptor there. -/
def head (e : Nat) (ws : List Word) : EQueue := (ready e ws).queue 63 e 3
/-- MMUL of K8 by K8 to K32, one K-block, ZERO and STORE. -/
def mmulWords : List Word := [1 <<< 56, 0, 0, 0, 0x0#64, 0x1000#64, 0x2000#64, 0x3000#64, 0x4000#64, 0x8000#64, 0x2000000008#64, 0x2000000008#64,
  0x10000000008#64, 0x17F240030#64, 0, 0]
/-- A VE operation on two elements of X at 0 and Y at 0x1000, all I32, to D at 0x2000. -/
def veWords (op : Nat) : List Word := [BitVec.ofNat 64 (op * 2 ^ 56), 0, 0, 0, 0, 0, 0x1000#64, 0, 0, 0, 0x2000#64, 0, 0x2777700#64, 0, 0, 0]
/-- A COPY or FILL of 16 bytes from 0x10 to 0x3FFFF0. -/
def deWords (op : Nat) : List Word := [BitVec.ofNat 64 (op * 2 ^ 56), 0, 0, 0, 0x10#64, 0x3FFFF0#64, 16#64, 0, 0x0807060504030201#64]
/-- A TSTREAM of two tiles of two rows of 8 bytes. -/
def streamWords : List Word := [3 <<< 56, 0, 0, 0, 0, 0x3FFF00#64, 0x0001000000000008#64, 0x0000000800000008#64, 0x0000000200000002#64, 0x20#64, 0, 0x20#64, 0]

/-- The conditions of a descriptor that starts, as one decidable proposition. -/
theorem witness_starts_mmul : (ready 0 mmulWords).startsOn 63 0 3 1 0 ∧ allLoft (mmulIns (head 0 mmulWords) ++ mmulOuts (head 0 mmulWords)) := by
  unfold Hub.startsOn Hub.engineDue Hub.soundMem allLoft
  decide +kernel
theorem witness_starts_ve : (∀ op ∈ [1, 2, 3, 4, 5, 6, 7, 8, 9, 10], (ready 1 (veWords op)).startsOn 63 1 3 op 0 ∧
    allLoft (veIns (head 1 (veWords op)) ++ veOuts (head 1 (veWords op)))) ∧ 0x2000 % 65536 + arrBytes (veDf (head 1 (veWords 2))) 2 ≤ 65536 := by
  unfold Hub.startsOn Hub.engineDue Hub.soundMem allLoft
  decide +kernel
theorem witness_starts_de : (ready 3 (deWords 1)).startsOn 63 3 3 1 0 ∧ (ready 3 (deWords 2)).startsOn 63 3 3 2 0 ∧
    (ready 3 streamWords).startsOn 63 3 3 3 0 ∧ (ready 3 (deWords 9)).startsOn 63 3 3 9 0 ∧
    loftApart 0x10#64 0x3FFFF0#64 16 16 ∧ memberRsvOk (leWords 8 (zeros 64)) = true := by
  unfold Hub.startsOn Hub.engineDue Hub.soundMem loftApart
  decide +kernel
theorem witness_engine : (ready 3 (deWords 8)).engineDue 63 3 3 8 0 ∧ (ready 1 (veWords 10)).nextTurn 63 1 = some 3 ∧
    (ready 0 mmulWords).mustFence (.queue 63 0 3) = false ∧
    (flying [{ flight with agent := .queue 63 0 3 }]).mustFence (.queue 63 0 3) = true := by
  unfold Hub.engineDue
  decide +kernel
/-- What a step leaves at some bytes of bay 63's loft. -/
def loftAfter (o : Host.Outcome State Fault Refusal) (w : Word) (len : Nat) : List Byte := match o with
  | .next t => t.hub.loftBytes 63 w len
  | _ => []
/-- FILL's pattern by destination address modulo 8 (Table 8.11): the destination starts at a multiple of 16. -/
theorem test_fill : loftAfter (exec (.deFill 63 3 0) (st (ready 3 (deWords 2)))) 0x3FFFF0#64 16 =
    [1, 2, 3, 4, 5, 6, 7, 8, 1, 2, 3, 4, 5, 6, 7, 8] := by decide +kernel
/-- ADD of I32 elements saturates (R152, R232): 5 + 7, and the greatest integer + 1. -/
theorem test_add : loftAfter (exec (.veAdd 63 3 0) (st ((ready 1 (veWords 2)).memPut (loftOff 63 0) (leBytes 4 5 ++ leBytes 4 0x7FFFFFFF) |>.memPut
    (loftOff 63 0x1000) (leBytes 4 7 ++ leBytes 4 1)))) 0x2000#64 8 = leBytes 4 12 ++ leBytes 4 0x7FFFFFFF := by decide +kernel
theorem witness_bay : sys.regLive (rBayMode 63) = true ∧ sys.bayOn 63 = true ∧ sys.ready = true ∧ (inPhase 12).ready = false ∧
    (inPhase 12).regLive (rBayMode 63) = true ∧ sys.regLive (rTctl 63 15) = true ∧ sys.kernelSlot 63 15 = none ∧
    (sys.thread 63 15).state ≠ .run ∧ bitAt (0x8000000000000000#64) 63 = true ∧
    ((sys.setThread 63 15 { state := .run, wait := .fence .halt }).thread 63 15).wait = .fence .halt := by decide +kernel

/-! ### The Scribe and memory -/

theorem witness_ctx : sys.regLive (rCtxCfg 255) = true ∧ sys.bit (rCtxCfg 255) 63 = false ∧
    ((sys.setFld (rCtxCfg 0) 63 1 1).ctxRefused 255 (BitVec.ofNat 64 (2 ^ 63 + 5 * 2 ^ 48)) = true) ∧
    sys.ctxRefused 255 (BitVec.ofNat 64 (2 ^ 63)) = false ∧ sys.bit rScrInv 63 = false ∧ sys.regLive rScrInv = true ∧
    bitAt (BitVec.ofNat 64 (2 ^ 61)) 61 = true ∧ (sys.setFld rScrInv 63 1 1).bit rScrInv 63 = true ∧ sys.invOver = true ∧
    ({ sys with scr := { busyQ := [(1023, 0, 0)] }, bays := { queues := [(1023, { phase := .running })] } } : Hub).invOver = false := by decide +kernel
theorem witness_walk : sys.freeWalker = some 0 ∧
    (let m : Miss := { bay := 63, who := .thread 15, ctx := 0, va := 0, need := 1 }
     let x : Walk := { misses := [m], level := 1, table := 0, rights := 7 }
     let h := ({ sys with scr := { walks := [(15, some x)] } } : Hub).setThread 63 15 { state := .run, wait := .walk }
     tget none h.scr.walks 15 = some x ∧ (h.thread 63 15).wait = .walk ∧ h.sharedWalk { m with need := 2 } = some (15, x) ∧
     sys.sharedWalk m = none ∧ m.who ≠ .ahead 0 0 ∧
     h.walkLevel 0 0 1 1 7 (List.replicate 16 0) = .fault xlNotValid 1) ∧
    sys.bit (rBflt 63) 63 = false ∧ (sys.setFld (rBflt 63) 63 1 1).bit (rBflt 63) 63 = true := by decide +kernel
theorem witness_prefetch : (let h := (parted.setFld rScrMode 0 1 1).setQueue 0 3 3 { phase := .running, desc := [0, 0, 0, 0, 0, 0, 0, 1], ran := true }
    h.alive = true ∧ h.bayOn 0 = true ∧ (h.queue 0 3 3).ran = true ∧ h.streamMode 0 = true ∧ (h.queue 0 3 3).opc = 1 ∧ h.scr.misses = [] ∧ h.freeWalker = some 0 ∧
    (16 * 0 + 12 + 3, (h.queue 0 3 3).count) ∉ h.scr.noAhead) := by decide +kernel
theorem witness_scrub : (sys.setFld rMemScrub 63 1 1).bit rMemScrub 63 = true ∧ tget 0 sys.mem.scrub 1 < sys.lpExtent / 32 ∧
    codeMends (tget 0 sys.mem.marks (lpBase / 32)) = true ∧
    sys.lpExtent / 32 ≤ tget 0 ({ sys.mem with scrub := [(1, 15999999999)] } : Mem).scrub 1 ∧ (sys.setFld rMemScrub 63 1 0).bit rMemScrub 63 = false := by decide +kernel

/-! ### Hosts -/

/-- A hub whose VF 31 is enabled, with its first window open on the hub's own memory and ring 15 bound. -/
def hosted : Hub :=
  let h := ((sys.setFld (rHstFunc 31) 63 1 1).setFld (rHstFunc 31) 0 10 77).setFunc 31 { mem := true, master := true, msixOn := true, pending := 2 ^ 31 }
  (h.setReg (rApw 31 0) (BitVec.ofNat 64 (2 ^ 63))).setRing 31 15 { bound := true, base := faOf 77 0, log2n := 12, opmask := 0xFFFF, db := 1 }

theorem witness_config : (onBrd base fun b => { b with pcieAt := [true, true] }).configOn 1 = true ∧ 9 ≤ base.phase ∧
    (onBrd (inPhase 8) fun b => { b with pcieAt := [true, true] }).configOn 1 = true ∧ (inPhase 8).phase < 9 ∧
    base.configOn 1 = false := by decide +kernel
theorem witness_bars : hosted.bar2On 31 = true ∧ hosted.bar4On 31 = true ∧ bitAt (hosted.aperture 31 0).2 63 = true ∧
    bitAt (hosted.aperture 31 0xFC0000000).2 63 = false ∧ (hosted.ring 31 15).bound = true ∧
    (hosted.setFld (rMtsCfg 255) 31 5 31).fld (rMtsCfg 255) 31 5 = 31 ∧ isPf 31 = false ∧ isPf 16 = true ∧
    ((hosted.setFld (rMtsCfg 255) 31 5 31).setFld (rMtsCfg 255) 63 1 1).commitOutcome 31 255 = 0 ∧ hosted.commitOutcome 31 255 = 2 ∧
    (hosted.func 31).pending.testBit 31 = true ∧ (hosted.func 31).master = true ∧ (hosted.func 31).msixOn = true ∧
    (hosted.func 31).maskAll = false ∧ hosted.waitsTag (.aperture 31) = false ∧ ({ value := 1 } : Access).isOne = true ∧
    ({ value := 2 } : Access).isOne = false ∧
    (let h := ({ (hosted.setFld (rMtsCfg 255) 57 1 1).setFld (rMtsCfg 255) 52 5 31 with mts := [(255, { full := true, notice := zeros 16 })] } : Hub)
     h.bit (rMtsCfg 255) 57 = true ∧ h.fld (rMtsCfg 255) 52 5 = 31 ∧ (h.mortise 255).full = true) := by decide +kernel
/-- A ring entry: opcode 3, its status word in the function's own node. -/
def entry3 : List Byte := leBytes 8 3 ++ leBytes 8 (faOf 77 64) ++ zeros 48
/-- An operation of ring 15 of VF 31. -/
def op1 : Op := { id := 1, func := 31, ring := some 15, opc := 3, sw := faOf 77 64, seq := 0, args := [0, 4096, 4096, 0] }
/-- The hub with operations in flight. -/
def inFlight (l : List Op) : Hub := { hosted with host := { hosted.host with ops := l } }

theorem witness_rings : hosted.mayFetch 31 15 = true ∧ hosted.ringTurn 31 15 = true ∧ (hosted.ring 31 15).held = none ∧
    bitsGet ((leWords 8 (fit 64 entry3)).getD 0 0) 0 8 = 3 ∧ hosted.swPlace 31 (faOf 77 64) = true ∧
    hosted.swPlace 31 (faOf 77 65) = false ∧ entryRsvOk (leWords 8 entry3) = true ∧ hosted.funcPart 31 = none ∧
    hosted.op hosted.host.nextOp = none ∧ (inFlight [op1]).mayStart op1 3 = true ∧ (inFlight [op1]).op 1 = some op1 ∧
    (inFlight [{ op1 with opc := 4 }]).mayStart { op1 with opc := 4 } 4 = true ∧
    (inFlight [{ op1 with opc := 2 }]).mayStart { op1 with opc := 2 } 2 = true ∧ (inFlight [op1]).swHost op1 = true ∧
    ((inFlight [{ op1 with state := opRunning, dirty := true }]).refreshOf 1).op 1 = some { op1 with state := opRunning, dirty := true } := by
  decide +kernel
/-- A COLL_OPEN that ring 15 holds while its descriptor is read, and the read answered. -/
def holding (got : Option (List Byte ⊕ (Nat × Nat))) : Hub :=
  let h := hosted.setRing 31 15 { hosted.ring 31 15 with held := some (leWords 8 (leBytes 8 1 ++ zeros 56)) }
  { h with sill := { h.sill with works := [{ key := .ring 511, got := [{ fa := 0, len := 64, got := got }] }] } }
theorem witness_held : ((holding none).ring 31 15).held = some (leWords 8 (leBytes 8 1 ++ zeros 56)) ∧
    ((holding none).faRead { agent := .ring 31, key := .ring 511 } 0 64).1 = .wait ∧
    ((holding (some (.inr (2, 5)))).faRead { agent := .ring 31, key := .ring 511 } 0 64).1 = .bad { status := 2, node := 5 } ∧
    ((holding (some (.inl (zeros 64)))).faRead { agent := .ring 31, key := .ring 511 } 0 64).1 = .ok (zeros 64) := by decide +kernel
/-- The operation RUNNING, of one unit of 16 bytes, and the hub that has read them. -/
def op2 : Op := { op1 with args := [0, 4096, 16, 0], phase := 1, state := opRunning, total := 16 }
def hasBytes (o : Op) (len : Nat) (d : List Byte) : Hub :=
  { inFlight [o] with sill := { works := [{ key := .op 1, got := [{ fa := 0, len := len, got := some (.inl d) }] }] } }
theorem witness_transfer : (inFlight [{ op1 with args := [0, 4096, 16, 0] }]).mayStart { op1 with args := [0, 4096, 16, 0] } 3 = true ∧
    (inFlight [op1]).canAsk 1 31 ∧ (hasBytes op2 16 (zeros 16)).hasRead 1 0 16 (zeros 16) ∧ (hasBytes op2 16 []).op 1 = some op2 ∧
    (hasBytes op2 16 []).waitsTag (.ring 31) = false ∧ bitAt (op2.args.getD 3 0) 63 = false ∧
    (let o : Op := { op1 with opc := 2, args := [0] }
     (hasBytes o 64 (zeros 64)).mayStart o 2 = true ∧ (hasBytes o 64 (zeros 64)).hasRead 1 0 64 (zeros 64)) ∧
    ringBlockOk (leWords 8 (zeros 24 ++ (leBytes 8 (2 ^ 63) ++ leBytes 8 (2 ^ 63) ++ leBytes 8 (2 ^ 63) ++ leBytes 8 (2 ^ 63)) ++ zeros 8)) = true ∧
    (inFlight [{ op1 with opc := 1 }]).slotOfOp 1 = none ∧ op1.state ≠ opDone := by
  unfold Hub.canAsk Hub.hasRead
  decide +kernel
/-- The hub with a command taken from VF 31 and not started. -/
def commanded (code : Nat) (words : List Word) : Hub :=
  { inFlight [{ op1 with ring := none, opc := code }] with
    host := { (inFlight [{ op1 with ring := none, opc := code }]).host with cmd := [{ func := 31, code := code, key := 0, words := words, op := 1 }] } }
/-- Its command. -/
def cmd (code : Nat) (words : List Word) : Cmd := { func := 31, code := code, key := 0, words := words, op := 1 }

/-- A command is due (R337), as a Bool. -/
def due (h : Hub) (f code : Nat) (c : Cmd) : Bool :=
  h.alive && decide (h.cmdOf f = some c) && decide (c.code = code) && (match h.op c.op with
    | some o => decide (o.phase = 0)
    | none => false)

theorem witness_due (h : Hub) (f code : Nat) (c : Cmd) (hd : due h f code c = true) : h.cmdDue f code c := by
  unfold due at hd
  cases ho : h.op c.op with
  | none => simp [ho] at hd
  | some o =>
    simp only [ho, Bool.and_eq_true, decide_eq_true_eq] at hd
    exact ⟨hd.1.1.1, hd.1.1.2, hd.1.2, o, ho, hd.2⟩
theorem witness_bind : due (commanded 1 [BitVec.ofNat 64 (faOf 77 0 + 12 * 2 ^ 56), 0]) 31 1 (cmd 1 [BitVec.ofNat 64 (faOf 77 0 + 12 * 2 ^ 56), 0]) = true ∧
    (cmd 1 [0, 0]).len = 16 ∧ (hosted.ring 31 0).bound = false ∧ faNode (faOf 77 0) = hosted.funcNode 31 ∧
    due (commanded 2 [15]) 31 2 (cmd 2 [15]) = true ∧ (cmd 2 [15]).len = 8 ∧ due (commanded 3 [0, 0]) 31 3 (cmd 3 [0, 0]) = true ∧
    (commanded 2 [0]).inFlight 31 0 = 0 := by decide +kernel
theorem witness_take_command : (let h : Hub := { hosted with mts := [(255, { full := true, notice := leBytes 8 (faOf 77 0) ++ leBytes 8 200 })] }
    h.alive = true ∧ (h.mortise (224 + 31)).full = true ∧ h.cmdOf 31 = none ∧
    bitsGet (leWord ((h.mortise 255).notice.drop 8)) 0 13 = 200 ∧ (h.mtsTake 255).blockCheck 31 200 (zeros 200) ≠ stOk ∧
    faNode (bitsGet (leWord (h.mortise 255).notice) 0 52) = (h.mtsTake 255).funcNode 31 ∧ (h.mtsTake 255).funcAvail 31 = true) := by decide +kernel

/-! ### Tenancy -/

/-- A partition record that the hub can take: partition 1, VF 31, peg 64 on, mortise 5, a region of 2 MiB, one destination. -/
def goodRec : List Word :=
  [1, 0, 0, 0x80000000#64, 0, 0, 0x0000010500010040#64, 0, 0x8000010000000000#64, 0, 0, 0, 0, 0, 0, 0, 1] ++ List.replicate 15 0
/-- A hub that takes partitions, with VF 31 enabled and a partition in some state at number 1. -/
def taking (stp : Nat) : Hub :=
  ((hosted.setFld rLcyState 61 3 2).setFld rMemTop 0 23 0x100000).setReg (rPartStat 1) (BitVec.ofNat 64 (stp * 2 ^ 61))
/-- The hub with a command of PF 0 taken and not started. -/
def ordered (h : Hub) (code : Nat) (words : List Word) : Hub :=
  { h with host := { h.host with ops := [{ op1 with func := 0, ring := none, opc := code }], cmd := [{ cmd code words with func := 0 }] } }

theorem witness_part_add : (ordered (taking ptFree) 0x10 goodRec).addCheck 0 256 goodRec = stOk ∧
    (ordered (taking ptFree) 0x10 goodRec).addCheck 0 248 goodRec = stBadDesc ∧
    (ordered (taking ptActive) 0x10 goodRec).addCheck 0 256 goodRec = stBeyond ∧
    due (ordered (taking ptFree) 0x10 goodRec) 0 0x10 { cmd 0x10 goodRec with func := 0 } = true ∧ recPart goodRec = 1 ∧
    (recRegions goodRec).length = 1 := by decide +kernel
theorem witness_part_remove : (cmd 0x11 [1]).len = 8 ∧ due (ordered (taking ptActive) 0x11 [1]) 0 0x11 { cmd 0x11 [1] with func := 0 } = true ∧
    (taking ptActive).notOwn 0 1 = false ∧ (taking ptActive).notOwn 31 1 = true ∧ (taking ptQuiesce).partState 1 = ptQuiesce ∧
    (taking ptActive).partState 1 ≠ ptQuiesce ∧ (taking ptActive).partState 1 ≠ ptWiping ∧ (taking ptActive).partState 1 ≠ ptFree ∧
    (let h : Hub := { taking ptQuiesce with sec := { removals := [(15, some { func := 0, deadline := 5 })] } }
     tget none h.sec.removals 15 = some { func := 0, deadline := 5 } ∧ h.inflight (2 * 15) + h.inflight (2 * 15 + 1) = 0 ∧ 5 ≤ h.now) := by
  decide +kernel
theorem witness_wipe_done : (let h : Hub := { ordered (taking ptWiping) 0x11 [1] with
      sec := { removals := [(1, some { func := 0, deadline := 5, wiping := true })] } }
    tget none h.sec.removals 1 = some { func := 0, deadline := 5, wiping := true } ∧
    (h.partFree 1).cmdOf 0 = some { cmd 0x11 [1] with func := 0 }) := by decide +kernel
theorem witness_tenant_gone : (let x : Held := { pid := 0, ing := .inner, vc := 0, at_ := 0, pkt := { cls := 2, kslot := 3, opc := opcColr } }
    let h : Hub := { queued (portAt base 85 lkActive) 85 x with sec := { gone := [2, 3] } }
    h.qlist 85 2 = [x] ∧ h.alive = true ∧ h.portUp 85 = true ∧ x.pkt.kslot.toNat ∈ h.sec.gone ∧ x.pkt.src = h.self ∧
    (h.slot x.pkt.cid).gen = x.pkt.gen) := by decide +kernel
theorem witness_rekey : bitsGet ((cmd 0x12 [1]).w 0) 8 2 = 0 ∧ (cmd 0x12 [1]).len = 8 ∧
    due (ordered (taking ptActive) 0x12 [1]) 0 0x12 { cmd 0x12 [1] with func := 0 } = true ∧
    bitsGet ((cmd 0x12 [0x101]).w 0) 8 2 = 1 ∧ (cmd 0x12 (0x101 :: List.replicate 13 0)).len = 112 ∧
    bitsGet ((cmd 0x12 [0x201]).w 0) 8 2 = 2 ∧ (cmd 0x12 [0x201, 0, 0, 0, 0]).len = 40 ∧ bitsGet ((cmd 0x12 [0x301]).w 0) 8 2 = 3 ∧
    tget [] (taking ptActive).sec.release 1 = [] ∧
    (let h : Hub := { taking ptActive with sec := { parts := [(1, goodRec)] } }
     h.partRange 1 0 32 = true ∧ h.partRange 1 0x200000 32 = false) ∧
    (let h : Hub := { ordered (taking ptRekey) 0x12 [1] with sec := { rekeys := [(1, some 0)] } }
     tget none h.sec.rekeys 1 = some 0 ∧ h.partState 1 = ptRekey ∧ h.inflight 3 = 0 ∧ (h.cmdOf 0).isSome = true ∧ h.pagesUnder 1 true = []) ∧
    (let h : Hub := { taking ptRekey with sec := { parts := [(1, goodRec)], pages := [(0, 2)] } }
     (h.pagesUnder 1 true).min? = some 0) := by decide +kernel
theorem witness_wipe_region : (cmd 0x13 [1]).len = 8 ∧
    (let h : Hub := { taking ptActive with sec := { parts := [(1, goodRec)] } }
     bitAt (h.partWord 1 8) 63 = true ∧ bitAt (h.partWord 1 15) 63 = false) ∧
    (([(0, 1, 7)] : List (Nat × Nat × Nat)).find? fun y => decide (y.1 = 0)) = some (0, 1, 7) := by decide +kernel
theorem witness_attest : (cmd 0x14 (List.replicate 7 0)).len = 56 ∧ faNode 0 = hosted.funcNode 0 ∧ (cmd 0x20 [0, 242]).len = 16 ∧
    hosted.brd.upd = none ∧ updateOk {} true 242 (zeros 242) = true ∧ updateOk {} true 241 (zeros 241) = false := by decide +kernel
theorem witness_override : (cmd 0x30 [1]).len = 8 ∧ bitsGet ((cmd 0x30 [1 + 3 * 16]).w 0) 4 3 / 4 = 0 ∧
    bitsGet ((cmd 0x30 [1 + 4 * 16]).w 0) 4 3 / 4 = 1 ∧ bitsGet ((cmd 0x30 [6 + 127 * 2 ^ 18]).w 0) 18 7 = 127 ∧
    bitsGet ((cmd 0x30 [5 + 85 * 2 ^ 18]).w 0) 18 7 = 85 ∧ bitsGet ((cmd 0x30 [3 + 1023 * 2 ^ 8]).w 0) 8 10 = 1023 ∧
    due (ordered hosted 0x30 [7]) 0 0x30 { cmd 0x30 [7] with func := 0 } = true ∧ hosted.tray = 0 ∧ hosted.snd.ovrCmd = none := by decide +kernel

/-! ### Lanes and links -/

/-- A hub whose port 85 is in a state, with its lanes' records set. -/
def lanes (lk : Nat) (f : Lane) : Hub := (List.range 8).foldl (fun h i => h.setLane (laneOf 85 i) f) (portAt base 85 lk)
/-- The hub with a bit of every LNK_LSTAT of port 85 set. -/
def lstat (h : Hub) (k : Nat) : Hub := (List.range 8).foldl (fun h i => h.setFld (rLstat (laneOf 85 i)) k 1 1) h

theorem witness_training : (lanes lkDetect {}).lstate 85 = lkDetect ∧ (∀ i ∈ halfLanes true, (0xF0#8).getLsbD i = true) ∧
    (lanes lkCdr {}).lstate 85 = lkCdr ∧ (lanes lkBlock { signalAt := some 1 }).lstate 85 = lkBlock ∧ lanePort 687 = 85 ∧
    ((lanes lkBlock { signalAt := some 1 }).lane 687).signalAt.isSome = true ∧ (lanes lkBlock { signalAt := some 1 }).locked 687 = false ∧
    ((lanes lkBlock { signalAt := some 1 }).lane 687).huntAt + 500000 ≤ base.now ∧
    (∀ i ∈ List.range 8, (lstat (lanes lkBlock { signalAt := some 1 }) 63).locked (laneOf 85 i) = true) ∧
    (∀ i ∈ List.range 8, (lstat (lanes lkAlign {}) 62).grouped (laneOf 85 i) = true) := by
  decide +kernel
theorem witness_lane_loss : (lstat (lanes lkActive {}) 63).rxDoze 85 = false ∧ (lstat (lanes lkActive {}) 63).locked 687 = true ∧
    (lstat (lanes lkActive {}) 62).grouped 687 = true ∧ (lanes lkActive {}).linkUp 85 = true ∧ (lanes lkActive {}).laneActive 687 = true ∧
    (lanes lkActive {}).bit (rLstat 687) 60 = false ∧ (lanes lkActive {}).fld (rPstat 85) 58 2 = 3 ∧
    (lanes lkActive {}).halfFailed 85 false = false ∧ ((lanes lkActive {}).port 85).narrow = .none := by decide +kernel
theorem witness_narrow : (lanes lkActive {}).linkUp 85 = true ∧ (lstat (lanes lkActive {}) 60).halfFailed 85 true = true ∧
    ((lanes lkActive {}).setFld (rPstat 85) 58 2 2).usedHalf 85 = true ∧
    ((onPort (lanes lkActive {}) 85 fun q => { q with narrow := .requested }).port 85).half = false ∧
    ((onPort (lanes lkActive {}) 85 fun q => { q with narrow := .requested }).port 85).hello.sideA = false ∧
    ({ offer := zeros 56, peerOffer := leBytes 56 1 } : Hello).sideA = true ∧
    ((onPort (lanes lkActive {}) 85 fun q => { q with narrow := .responding }).port 85).narrow = .responding ∧
    ((lanes lkActive {}).port 85).narrowAt + 10000 ≤ base.now ∧ ((lanes lkActive {}).port 85).deferred ≠ some true := by decide +kernel
theorem witness_training_word : lkCdr ≤ (lanes lkAdapt {}).lstate 85 ∧ (lanes lkAdapt {}).lstate 85 ≤ lkAdapt ∧
    (lanes lkAdapt {}).runsReverse 85 = false ∧ ((lanes lkAdapt {}).setLane 687 { number := some 0 }).runsReverse 85 = false ∧
    (((lanes lkAdapt {}).setLane 687 { number := some 0 }).setLane 680 { number := some 7 }).runsReverse 85 = true := by decide +kernel
theorem witness_adapt : (let h := (lstat (lanes lkAdapt { ready := true }) 63).setFld (rPctl 85) 62 1 1
    let g := onPort h 85 fun q => { q with offers := 7 }
    g.chooseWidth 85 = 3 ∧ g.lstate 85 = lkAdapt ∧ (∀ i ∈ List.range 8, (g.lane (laneOf 85 i)).ready = true) ∧
    (g.setFld (rLstat 687) 63 1 0).chooseWidth 85 = 1 ∧ (g.setFld (rLstat 680) 63 1 0).chooseWidth 85 = 2 ∧ h.chooseWidth 85 = 0) ∧
    trainTimeout ((lanes lkInit {}).lstate 85) = some 100000 := by decide +kernel
theorem witness_down : (lanes lkDown {}).lstate 85 = lkDown ∧ ((lanes lkDown {}).port 85).stateAt + 100000000 ≤ base.now ∧
    ((lanes lkDown {}).setFld (rPctl 85) 63 1 1).mayTrain 85 = true ∧ (lanes lkActive {}).adapted 85 = true ∧ base.regLive (rPctl 85) = true ∧
    base.lstate 85 = lkOff ∧ (lanes lkActive {}).lstate 85 ≠ lkOff ∧ bitAt (BitVec.ofNat 64 (2 ^ 63 + 2 ^ 58)) 58 = true ∧
    (base.setReg (rPctl 85) (({ value := BitVec.ofNat 64 (2 ^ 63) } : Access).merge (rwMask (rPctl 85)) (base.reg (rPctl 85)))).mayTrain 85 = true := by
  decide +kernel
theorem witness_prbs : base.regLive (rPrbs 687) = true ∧ base.prbsOpen 687 = true ∧ (lanes lkActive {}).prbsOpen 687 = false ∧
    (let h := (((base.setFld (rPrbs 687) 62 2 3).setFld (rPrbs 687) 51 1 1).setFld (rPrbs 687) 58 2 1)
     h.bit (rPrbs 687) 63 = true ∧ h.bit (rPrbs 687) 62 = true ∧ h.bit (rPrbs 687) 51 = true ∧ h.fld (rPrbs 687) 58 2 = 1) ∧
    (base.setFld (rPrbs 687) 62 1 1).bit (rPrbs 687) 51 = false ∧ base.regLive (rMod 7) = true := by decide +kernel
theorem witness_rekey_link : (lanes lkActive {}).linkUp 85 = true ∧ ((lanes lkActive {}).port 85).hello.rekey = false ∧
    (onPort base 85 fun q => { q with sealing := true, rxCount := 2 ^ 41 }).port 85 = { sealing := true, rxCount := 2 ^ 41 } := by decide +kernel

/-! ### Sounding and planks -/

theorem witness_sounding : base.domainOn 2 = true ∧ 85 ∉ base.snd.silent ∧ tget none base.snd.tokens 85 = none ∧ 1000000 ≤ base.now ∧
    (base.setReg rPwrDom 0).domainOn 2 = false ∧ base.snd.order = none ∧ base.linkUp 85 = false := by decide +kernel
theorem witness_planks : (lanes lkActive {}).mission 85 = true ∧ (lanes lkActive {}).laneActive (laneOf 85 7) = true ∧ base.mission 85 = false ∧
    (PlankBody.doze true false).sequenced = true ∧ (4095 : BitVec 12).toNat ≠ (base.port 85).expect ∧
    (([{ pseq := 3 }, { pseq := 4 }] : List SentPlank).findIdx? fun k => decide (k.pseq = 4)) = some 1 ∧
    (let h := onPort (lanes lkActive {}) 85 fun q => { q with wantReplay := true, unacked := [{ pseq := 3 }], replays := 8 }
     (h.port 85).wantReplay = true ∧ (h.port 85).unacked ≠ [] ∧ (h.port 85).resentAt + (h.port 85).rtt ≤ h.now ∧
     (h.port 85).progressAt + 4000 ≤ h.now ∧ 8 ≤ (h.port 85).replays) := by decide +kernel
theorem witness_doze : ((lanes lkActive {}).setFld (rPctl 85) 59 1 1).mayDoze 85 = true ∧ ((lanes lkActive {}).setFld (rPctl 85) 59 1 0).mayDoze 85 = false ∧
    (onPort (lanes lkActive {}) 85 fun q => { q with owed := [8, 0, 0, 0, 0, 0, 0, 0, 0, 0] }).wakeEvent 85 = true ∧
    ((lanes lkActive {}).setFld (rPctl 85) 60 2 2).pstate 85 = 2 ∧ (lanes lkActive {}).hasPackets 85 = false ∧
    ((lanes lkActive {}).port 85).deepReq = none ∧ 0 + 10000 ≤ base.now ∧ (lanes lkDeep {}).lstate 85 = lkDeep := by decide +kernel

/-! ### Numbers of the spec's own worked examples -/

/-- Chapter 1: an LPDDR5X byte of the plane 5 hub. -/
theorem test_fabric_address : faOf 0x04D (lpBase + 0x12345000) = 0x1344012345000 := by decide
/-- The request of chapter 2's example: node 0x012 stores 512 bytes with a peg update. -/
def storePkt : Packet :=
  { part := 3, kslot := 6, src := 0x012, dst := 0x04D, opc := 0x2, tag := 0x155, loc := 0x1344002000400, peg := 0x02A, pgm := 1,
    payload := zeros 512 }
theorem test_header_words : storePkt.q0 = 0x0031800484D02155#64 ∧ storePkt.q1 = 0x4001344002000400#64 ∧
    storePkt.q2 = 0x0002A40000000000#64 ∧ { storePkt with rep := true }.q0 = 0x0031900484D02155#64 := by decide +kernel
theorem test_packet_size : storePkt.size = 552 ∧ storePkt.cells = 3 ∧ storePkt.header.take 8 = [0x55, 0x21, 0xD0, 0x84, 0x04, 0x80, 0x31, 0x00] := by
  decide +kernel
/-- Chapter 5: a B16 block to K8, and the sum of two members to K8. -/
theorem test_to_block : toBlock fB16 8 [0x40D0, 0xBF50, 0x4052, 0x3C00, 0x7F80] { gen := 1 } =
    (0x7B, [104, -13, 52, 0, 127], { gen := 1, taint := 1 }) := by decide +kernel
theorem test_quantise : quantise fK8 0x7B 0x7D [104, -13, 52, 0, 127] { gen := 1 } = ([26, -3, 13, 0, 32], { gen := 1 }) := by decide +kernel
theorem test_requant : requant 0x7D 8 [136, -6, 13, 0, 32] { gen := 1 } = (0x7E, [68, -3, 6, 0, 16], { gen := 1 }) := by decide +kernel
/-- Table 9.12: the rows and fields of the program's words. -/
theorem test_program_rows : [0x1D080002, 0x0804000D, 0xE0061100, 0xC40C5200, 0x28086000, 0x82400007, 0x58107000, 0xC0009500, 0xF0000001,
      0xF0006003].map augerRow = [.movz, .addi, .ecmd, .pwait, .cmpi, .br, .ld, .padv, .halt, .trap] := by decide +kernel
theorem test_program_fields : iHw 0x1D080002 = 1 ∧ iRdW 0x1D080002 = 1 ∧ iRd 0xE0061100 = 3 ∧ iRa 0xE0061100 = 1 ∧ iRb 0xE0061100 = 2 ∧
    iPd 0x28086000 = 1 ∧ iOff 0x82400007 = 7 ∧ iImm 0x0804000D = 13 := by decide +kernel
/-- Chapter 10: the indices of VA 0x7F00_0001_0000. -/
theorem test_level_indices : [4, 3, 2, 1].map (levelIndex 0x7F0000010000) = [254, 0, 0, 16] := by decide
/-- Chapter 11: one offset in the two tiers. -/
theorem test_interleave : hbmChannel 0x1234567890 = 5 ∧ hbmDev 0x1234567890 = 0x2468AC90 ∧ lpChannel 0x1234567890 = 30 ∧
    lpDataDev 0x1234567890 = 0xA3D70990 ∧ lpCheckDev 0x1234567890 = 0xA3D70E70 := by decide +kernel

/-- The hypothesis of FlowHashIsTheRule: any seed stands in its register. -/
theorem witness_hash : bitsGet ((base.setReg rHashSeed 0x9ABCDEF0#64).reg rHashSeed) 0 32 = (0x9ABCDEF0#32).toNat := by decide +kernel

end Sys2Proof.Tests
end

/-! SUPPORT. The switch core's flow hash: the model packs and multiplies natural numbers, R119 bit vectors of fixed widths. -/
namespace Sys2Proof.Machine

/-- The memory-semantic requests (R69) are the four lowest opcodes. -/
theorem opc_le_three_iff (o : BitVec 4) : o.toNat ≤ 3 ↔ o = opcRd ∨ o = opcWr ∨ o = opcWra ∨ o = opcAt := by
  decide +revert

/-- Source, destination and flow side by side are the 28 bits that R119 hashes. -/
theorem toNat_append_src_dst_flow (src dst : Node) (flow : BitVec 8) :
    (src ++ dst ++ flow).toNat = src.toNat * 2 ^ 18 ||| dst.toNat * 2 ^ 8 ||| flow.toNat := by
  rw [BitVec.toNat_append, BitVec.toNat_append, Nat.shiftLeft_or_distrib, ← Nat.shiftLeft_add, Nat.shiftLeft_eq, Nat.shiftLeft_eq]

/-- On operands of R119's widths the model's hash is bit-vector arithmetic: the product's reduction modulo 2^32 and the
last byte taken are the widths 32 and 8. -/
theorem flowHash_toNat (seed : BitVec 32) (src dst : Node) (flow : BitVec 8) :
    flowHash seed.toNat src.toNat dst.toNat flow.toNat =
      (let x : BitVec 32 := (src ++ dst ++ flow).setWidth 32 ^^^ seed
       let x := x * 0x9E3779B1#32
       (x ^^^ (x >>> 16)).setWidth 8).toNat := by
  have packed : ((src ++ dst ++ flow).setWidth 32).toNat = src.toNat * 2 ^ 18 ||| dst.toNat * 2 ^ 8 ||| flow.toNat := by
    rw [BitVec.toNat_setWidth_of_le (by decide), toNat_append_src_dst_flow]
  have multiplier : (0x9E3779B1#32).toNat = 0x9E3779B1 := rfl
  rw [flowHash, BitVec.toNat_setWidth, BitVec.toNat_xor, BitVec.toNat_ushiftRight, BitVec.toNat_mul, multiplier, BitVec.toNat_xor,
    packed]

/-- Settles O23: the opcodes whose FLOW the model counts as zero are R69's four requests, and on bit-vector operands its
hash is R119's. -/
theorem flowHashIsTheRule : Obligations.FlowHashIsTheRule := by
  intro h p seed hseed flow
  have hflow : (if p.opc.toNat ≤ 3 then 0 else p.flow.toNat) = flow.toNat := by
    simp only [flow, opc_le_three_iff, apply_ite BitVec.toNat, BitVec.ofNat_eq_ofNat, BitVec.toNat_ofNat, Nat.zero_mod]
  rw [Hub.hashOf, Hub.fld, hseed, hflow, flowHash_toNat]

end Sys2Proof.Machine

/-! SUPPORT. One instruction of a thread (R245 to R248, R273, R274): what its fetch may heal, and how it ends or raises. -/
namespace Sys2Proof.Machine

/-! ### What a fetch may heal -/

/-- From `h` to `g` nothing changed but marked words, and the registers and the plumb that record their correction; the
registers of the threads stay. -/
def Hub.healed (h g : Hub) : Prop :=
  (∃ marks regs plumb, g = { h with regs := regs, plumb := plumb, mem := { h.mem with marks := marks } }) ∧
  ∀ b t, t < 16 → g.reg (rTctl b t) = h.reg (rTctl b t)

theorem Hub.healed.refl (h : Hub) : h.healed h := ⟨⟨_, _, _, rfl⟩, fun _ _ _ => rfl⟩

theorem Hub.healed.trans {h g k : Hub} (hg : h.healed g) (gk : g.healed k) : h.healed k := by
  obtain ⟨⟨_, _, _, rfl⟩, hreg⟩ := hg
  obtain ⟨⟨_, _, _, rfl⟩, kreg⟩ := gk
  exact ⟨⟨_, _, _, rfl⟩, fun b t ht => (kreg b t ht).trans (hreg b t ht)⟩

theorem Hub.healed.cells {h g : Hub} (hg : h.healed g) : g.mem.cells = h.mem.cells := by
  obtain ⟨⟨_, _, _, rfl⟩, -⟩ := hg; rfl

theorem Hub.healed.kernelSlot {h g : Hub} (hg : h.healed g) (b t : Nat) : g.kernelSlot b t = h.kernelSlot b t := by
  obtain ⟨⟨_, _, _, rfl⟩, -⟩ := hg; rfl

theorem rTctl_notMem_latchRegs (b t : Nat) : rTctl b t ∉ latchRegs := by
  simp only [latchRegs, List.mem_cons, List.not_mem_nil, or_false, rTctl, rFltStatus, rFltFirst, rFltOvf, rFltLog, rFltDropped,
    rFltInj]
  omega

theorem rTctl_ne_rLoftCorr {t : Nat} (b c : Nat) (_ht : t < 16) : rTctl b t ≠ rLoftCorr c := by
  unfold rTctl rLoftCorr; omega

theorem rTctl_ne_rMemCorr (b t : Nat) (lp : Bool) : rTctl b t ≠ rMemCorr (bit01 lp) := by
  cases lp <;> simp only [rTctl, rMemCorr, bit01, Bool.false_eq_true, if_false, if_true] <;> omega

/-- A marked word that the decoder mends is healed (R302). -/
theorem Hub.readMark_healed (h : Hub) (scrub : Bool) (w : Nat) {k : Nat} (hk : codeMends k = true) :
    h.healed (h.readMark scrub w k) := by
  unfold Hub.readMark
  simp only [hk, if_true, Hub.report, Hub.fault, Hub.react]
  generalize hc : (if decide (windowOf (w * 32) = Window.loft) = true then rLoftCorr ((w * 32 - loftBase) / 0x400000)
    else rMemCorr (bit01 (decide (lpBase ≤ w * 32)))) = c
  have hne : ∀ b t, t < 16 → rTctl b t ≠ c := by
    intro b t ht
    rw [← hc]
    split
    · exact rTctl_ne_rLoftCorr b _ ht
    · exact rTctl_ne_rMemCorr b t _
  obtain ⟨_, _, _, _, hlatch, hregs⟩ := ({ h with mem := { h.mem with marks := tset 0 h.mem.marks w 0 } }.count c).latch_cases
    (memBit (w * 32)) .corrected (Config.checker 1) [Config.detail 1 0, Config.detail 1 1, Config.detail 1 2, Config.detail 1 3]
  rw [hlatch]
  exact ⟨⟨_, _, _, rfl⟩, fun b t ht =>
    (hregs _ (rTctl_notMem_latchRegs b t)).trans (Hub.reg_countBy_ne _ 1 (hne b t ht))⟩

theorem foldl_readMark_healed (ms : List (Nat × Nat)) (scrub : Bool) :
    ∀ h : Hub, (∀ m ∈ ms, codeMends m.2 = true) → h.healed (ms.foldl (fun h m => h.readMark scrub m.1 m.2) h) := by
  induction ms with
  | nil => exact fun h _ => .refl h
  | cons m ms ih =>
    intro h hm
    exact (h.readMark_healed scrub m.1 (hm m List.mem_cons_self)).trans (ih _ fun n hn => hm n (List.mem_cons_of_mem m hn))

/-- A read that answers heals what it mends, and changes nothing where no word is marked. -/
theorem Hub.memRead_healed {h g : Hub} {o len : Nat} {bs : List Byte} (hr : h.memRead o len = (some bs, g)) :
    h.healed g ∧ (h.mem.marks = [] → g = h) := by
  have hsome : (h.memRead o len).1 = some bs := by rw [hr]
  have hg : (h.marksIn o len).foldl (fun h m => h.readMark false m.1 m.2) h = g := congrArg Prod.snd hr
  rw [Hub.memRead_spec] at hsome
  split at hsome
  · cases hsome
  next hany =>
    refine ⟨hg ▸ foldl_readMark_healed _ _ h ?_, fun hm => ?_⟩
    · simpa only [List.any_eq_true, not_exists, not_and, Bool.not_eq_true', Bool.not_eq_false] using hany
    · rw [← hg, Hub.marksIn, hm]; rfl

/-- A fetch that finds its word heals what it mends, and changes nothing where no word is marked (R245, R246). -/
theorem Hub.fetchWord_healed {h : Hub} {b w : Nat} {x : Thread} (hf : (h.fetchWord b x).1 = some w) :
    h.healed (h.fetchWord b x).2 ∧ (h.mem.marks = [] → (h.fetchWord b x).2 = h) := by
  unfold Hub.fetchWord at hf ⊢
  simp only at hf ⊢
  split
  · exact ⟨.refl h, fun _ => rfl⟩
  next hfind => rw [hfind] at hf; cases hf
  next hfind =>
    rw [hfind] at hf
    split
    next hread => simp only [hread] at hf; cases hf
    next hread => exact Hub.memRead_healed hread

/-! ### A thread set -/

@[simp] theorem Hub.thread_setThread_self (h : Hub) (b t : Nat) (x : Thread) : (h.setThread b t x).thread b t = x :=
  tget_tset_self _ _ _ _

theorem Hub.tget_setThread_ne (h : Hub) {b t k : Nat} (x : Thread) (hk : k ≠ 16 * b + t) :
    tget {} (h.setThread b t x).bays.threads k = tget {} h.bays.threads k := tget_tset_ne _ _ _ hk

@[simp] theorem Thread.setG_ahead (x : Thread) (a : List (Nat × Option Word)) (i : Nat) (v : Word) :
    ({ x with ahead := a } : Thread).setG i v = { x.setG i v with ahead := a } := by
  unfold Thread.setG; split <;> rfl
@[simp] theorem Thread.setG_stop (x : Thread) (i : Nat) (v : Word) : (x.setG i v).stop = x.stop := by
  unfold Thread.setG; split <;> rfl
@[simp] theorem Thread.setP_ahead (x : Thread) (a : List (Nat × Option Word)) (i : Nat) (v : Bool) :
    ({ x with ahead := a } : Thread).setP i v = { x.setP i v with ahead := a } := by
  unfold Thread.setP; split <;> rfl
@[simp] theorem Thread.setP_pc (x : Thread) (i : Nat) (v : Bool) : (x.setP i v).pc = x.pc := by
  unfold Thread.setP; split <;> rfl
@[simp] theorem Thread.setP_stop (x : Thread) (i : Nat) (v : Bool) : (x.setP i v).stop = x.stop := by
  unfold Thread.setP; split <;> rfl

/-! ### One instruction -/

theorem Hub.fetches.not_stopped {h : Hub} {b t w : Nat} (hf : h.fetches b t w) : (h.thread b t).stop = false := by
  obtain ⟨-, -, -, hstop⟩ := hf
  exact hstop

theorem Hub.fetches.pc_lt {h : Hub} {b t w : Nat} (hf : h.fetches b t w) : (h.thread b t).pc < 2 ^ 20 := by
  obtain ⟨-, hpc, -, -⟩ := hf
  exact hpc

theorem Hub.fetches.state_run {h : Hub} {b t w : Nat} (hf : h.fetches b t w) : (h.thread b t).state = .run := by
  obtain ⟨hissue, -, -, -⟩ := hf
  simp only [Hub.mayIssue, Bool.and_eq_true, decide_eq_true_eq] at hissue
  obtain ⟨⟨-, hrun⟩, -⟩ := hissue
  exact hrun

/-- An instruction whose word is fetched: an illegal word raises ILLEGAL, a word that is not enabled is skipped, another has
its effect (R247, R248), on a hub that the fetch has healed. -/
theorem Hub.auger_of_fetches {h : Hub} {b t w : Nat} (hf : h.fetches b t w) (act : Nat → Thread → Hub → Hub) :
    ∃ (g : Hub) (a : List (Nat × Option Word)), h.healed g ∧ (h.mem.marks = [] → g = h) ∧
      h.auger b t (augerRow w) act =
        let x : Thread := { h.thread b t with ahead := a }
        let k := g.setThread b t x
        if augerLegal w = false then k.exception b t exIllegal (BitVec.ofNat 64 w)
        else if augerEnabled (h.thread b t) w = false then k.goOn b t x
        else act w x k := by
  obtain ⟨hissue, hpc, hword, -⟩ := hf
  obtain ⟨hheal, hsame⟩ := Hub.fetchWord_healed hword
  have hpair : h.fetchWord b (h.thread b t) = (some w, (h.fetchWord b (h.thread b t)).2) := Prod.ext hword rfl
  refine ⟨_, (h.fetchWord b (h.thread b t)).2.aheadOf b (h.thread b t).pc w (h.thread b t).ahead, hheal, hsame, ?_⟩
  unfold Hub.auger
  simp only [hissue, Bool.not_true, Bool.false_eq_true, if_false, Nat.not_le.2 hpc]
  rw [hpair]
  simp only [ne_eq, not_true_eq_false, if_false, Bool.not_eq_eq_eq_not, Bool.not_true]
  rfl

/-- A thread that goes on without a STOP to take is ready at its new address. -/
theorem Hub.goTo_of_not_stop (h : Hub) (b t pc : Nat) {x : Thread} (hs : x.stop = false) :
    h.goTo b t pc x =
      h.setThread b t { x with pc := pc, wait := .ready, ahead := x.ahead.filter fun a => !decide (a.1 = x.pc) } := by
  unfold Hub.goTo Hub.boundary
  simp only [Hub.thread_setThread_self, hs, Bool.false_eq_true, and_false, if_false]

/-- A healed hub in which one thread was set differs from the first as a command that ends does. -/
theorem Hub.healed.onlyThread {h g : Hub} (hg : h.healed g) (hsame : h.mem.marks = [] → g = h) (b t : Nat) (x y : Thread) :
    h.onlyThread ((g.setThread b t x).setThread b t y) b t ∧ ((g.setThread b t x).setThread b t y).bays.caches = h.bays.caches := by
  obtain ⟨⟨_, _, _, rfl⟩, -⟩ := hg
  refine ⟨⟨fun k hk => ?_, rfl, rfl, rfl, rfl, rfl, rfl, rfl, rfl, rfl, rfl, rfl, fun hm => ?_⟩, rfl⟩
  · rw [Hub.tget_setThread_ne _ _ hk, Hub.tget_setThread_ne _ _ hk]
  · exact ⟨(congrArg Hub.regs (hsame hm) :), (congrArg Hub.plumb (hsame hm) :)⟩

/-- A command that lets the thread of a healed hub go on ends with it. -/
theorem State.endsWith_of_goTo {s : State} {c : Instr} {b t pc : Nat} {g : Hub} {x y : Thread} {a : List (Nat × Option Word)}
    (hg : s.hub.healed g) (hsame : s.hub.mem.marks = [] → g = s.hub) (hs : y.stop = false)
    (hx : exec c s = .next { s with hub := (g.setThread b t x).goTo b t pc { y with ahead := a } }) :
    s.endsWith c b t { y with pc := pc } := by
  rw [Hub.goTo_of_not_stop _ b t pc (x := { y with ahead := a }) hs] at hx
  obtain ⟨honly, hcaches⟩ := hg.onlyThread hsame b t x _
  exact ⟨_, _, hx, Hub.thread_setThread_self _ b t _, honly, hcaches, rfl⟩

/-- A legal and enabled word whose effect goes on to an address ends so (R248). -/
theorem State.endsWith_of_act {s : State} {c : Instr} {b t w pc : Nat} {act : Nat → Thread → Hub → Hub} {y : Thread}
    (hf : s.hub.fetches b t w) (hl : augerLegal w = true) (he : augerEnabled (s.hub.thread b t) w = true)
    (hx : exec c s = .next { s with hub := s.hub.auger b t (augerRow w) act }) (hs : y.stop = false)
    (hact : ∀ a g, act w { s.hub.thread b t with ahead := a } g = g.goTo b t pc { y with ahead := a }) :
    s.endsWith c b t { y with pc := pc } := by
  obtain ⟨g, a, hg, hsame, hauger⟩ := Hub.auger_of_fetches hf act
  rw [hauger] at hx
  simp only [hl, he, Bool.true_eq_false, if_false, hact] at hx
  exact State.endsWith_of_goTo hg hsame hs hx

/-- A legal word that is not enabled only moves the PC (R248). -/
theorem State.endsWith_of_not_enabled {s : State} {c : Instr} {b t w : Nat} {act : Nat → Thread → Hub → Hub}
    (hf : s.hub.fetches b t w) (hl : augerLegal w = true) (he : augerEnabled (s.hub.thread b t) w = false)
    (hx : exec c s = .next { s with hub := s.hub.auger b t (augerRow w) act }) :
    s.endsWith c b t { s.hub.thread b t with pc := (s.hub.thread b t).pc + 1 } := by
  obtain ⟨g, a, hg, hsame, hauger⟩ := Hub.auger_of_fetches hf act
  rw [hauger] at hx
  simp only [hl, he, Bool.true_eq_false, if_false, if_true] at hx
  exact State.endsWith_of_goTo hg hsame hf.not_stopped hx

/-! ### Leaving RUN -/

/-- Memory and a thread are as they were. -/
def Hub.keepsThread (h g : Hub) (b t : Nat) : Prop := g.mem = h.mem ∧ g.thread b t = h.thread b t

theorem Hub.keepsThread.trans {h g k : Hub} {b t : Nat} (hg : h.keepsThread g b t) (gk : g.keepsThread k b t) :
    h.keepsThread k b t := ⟨gk.1.trans hg.1, gk.2.trans hg.2⟩

/-- An update that leaves memory and the threads keeps each thread. -/
theorem Hub.keepsThread_of_eq {h g : Hub} (b t : Nat) (hm : g.mem = h.mem) (hb : g.bays = h.bays) : h.keepsThread g b t :=
  ⟨hm, by unfold Hub.thread; rw [hb]⟩

/-- A change of entries in place that leaves the entry of a key leaves what a read of the key finds. -/
theorem tget_map_of_fixed {α : Type} (d : α) (f : Nat × α → Nat × α) (hkey : ∀ e, (f e).1 = e.1) (k : Nat) :
    ∀ r : Table α, f (k, tget d r k) = (k, tget d r k) → tget d (r.map f) k = tget d r k
  | [], _ => rfl
  | (j, v) :: r, hfix => by
    have hj : f (j, v) = (j, (f (j, v)).2) := Prod.ext (hkey _) rfl
    rw [List.map_cons, hj]
    simp only [tget] at hfix ⊢
    split
    next h =>
      subst h
      simp only [if_true] at hfix
      rw [hfix]
    next h =>
      simp only [h, if_false] at hfix
      exact tget_map_of_fixed d f hkey k r hfix

/-- An invalidation changes the waits of loads alone, so it keeps a ready thread (R93, R94). -/
theorem Hub.invalidate_keepsThread {h : Hub} {b t : Nat} (hw : (h.thread b t).wait = .ready) (b' : Nat) (pick : Nat → Nat → Bool) :
    h.keepsThread (h.invalidate b' pick) b t := by
  refine ⟨rfl, ?_⟩
  unfold Hub.thread at hw ⊢
  refine tget_map_of_fixed _ _ (fun e => ?_) _ _ ?_
  · simp only
    split
    · split
      · split <;> rfl
      · rfl
    · rfl
  · simp only [hw, ite_self]

theorem Hub.acquire_keepsThread {h : Hub} {b t : Nat} (hw : (h.thread b t).wait = .ready) (a : Agent) :
    h.keepsThread (h.acquire a) b t := by
  unfold Hub.acquire
  split
  · exact Hub.invalidate_keepsThread hw _ _
  · exact ⟨rfl, rfl⟩

/-- A wait that is resumed changes a thread that waits on a peg, never a ready one (R86). -/
theorem Hub.wakeWait_keepsThread {h : Hub} {b t : Nat} (hw : (h.thread b t).wait = .ready) (w : PegWait) :
    h.keepsThread (h.wakeWait w) b t := by
  unfold Hub.wakeWait
  simp only
  have hacq := Hub.acquire_keepsThread
    (h := { h with pegs := { h.pegs with waits := h.pegs.waits.filter fun x => !decide (x = w) } }) (b := b) (t := t) hw w.agent
  generalize ({ h with pegs := { h.pegs with waits := h.pegs.waits.filter fun x => !decide (x = w) } } : Hub).acquire w.agent = g at hacq
  obtain ⟨hmem, hthread⟩ := hacq
  change g.mem = h.mem at hmem
  change g.thread b t = h.thread b t at hthread
  have hw' : (g.thread b t).wait = .ready := by rw [hthread, hw]
  split
  next b' t' _ =>
    split
    next rd hpeg =>
      refine ⟨hmem, Eq.trans ?_ hthread⟩
      refine Hub.tget_setThread_ne g _ fun hk => ?_
      unfold Hub.thread at hw' hpeg
      rw [hk, hpeg] at hw'
      cases hw'
    · exact ⟨hmem, hthread⟩
  · exact ⟨hmem, hthread⟩
  · exact ⟨hmem, hthread⟩

theorem foldl_wakeWait_keepsThread {b t : Nat} (ws : List PegWait) :
    ∀ h : Hub, (h.thread b t).wait = .ready → h.keepsThread (ws.foldl Hub.wakeWait h) b t := by
  induction ws with
  | nil => exact fun h _ => ⟨rfl, rfl⟩
  | cons w ws ih =>
    intro h hw
    have hk := Hub.wakeWait_keepsThread hw w
    exact hk.trans (ih _ (by rw [hk.2, hw]))

theorem Hub.issueD_keepsThread (h : Hub) (a : Agent) (p : Packet) (c : Cont) (b t : Nat) : h.keepsThread (h.issueD a p c) b t := by
  unfold Hub.issueD
  split
  · exact ⟨rfl, rfl⟩
  · split
    next g hg =>
      unfold Hub.issue at hg
      split at hg
      · cases hg
      · cases hg; exact ⟨rfl, rfl⟩
    · exact ⟨rfl, rfl⟩

theorem Hub.trigFailed_keepsThread (h : Hub) (n b t : Nat) : h.keepsThread (h.trigFailed n) b t :=
  Hub.keepsThread_of_eq b t (by simp only [Hub.trigFailed, Hub.setReg_mem, Hub.count_mem])
    (by simp only [Hub.trigFailed, Hub.setReg_bays, Hub.count_bays])

/-- An event on a peg, with the triggers that it sets off, keeps a ready thread (R86, R90). -/
theorem Hub.pegEvent_keepsThread {b t : Nat} (fuel : Nat) :
    ∀ (h : Hub) (n : Nat), (h.thread b t).wait = .ready → h.keepsThread (h.pegEvent fuel n) b t := by
  induction fuel with
  | zero => exact fun h _ _ => ⟨rfl, rfl⟩
  | succ fuel ih =>
    intro h n hw
    have hwake : h.keepsThread (h.wakePeg n) b t := foldl_wakeWait_keepsThread _ h hw
    unfold Hub.pegEvent
    simp only
    generalize h.wakePeg n = g at hwake
    have hwg : (g.thread b t).wait = .ready := by rw [hwake.2, hw]
    refine hwake.trans ?_
    split
    · generalize hk : g.setPeg n { g.peg n with trigCtl := bitsPut (g.peg n).trigCtl 2 1 0 } = k
      have hgk : g.keepsThread k b t := by rw [← hk]; exact ⟨rfl, rfl⟩
      refine hgk.trans ?_
      split
      · exact Hub.issueD_keepsThread ..
      · split
        · split
          · have hset (m : Nat) (p : Peg) : k.keepsThread (k.setPeg m p) b t := ⟨rfl, rfl⟩
            exact (hset _ _).trans (ih _ _ (by rw [(hset _ _).2, hgk.2, hwg]))
          · exact Hub.trigFailed_keepsThread ..
        · exact ⟨rfl, rfl⟩
    · exact ⟨rfl, rfl⟩

theorem Hub.advancePeg_keepsThread {h : Hub} {b t : Nat} (hw : (h.thread b t).wait = .ready) (n : Nat) (k : Word) :
    h.keepsThread (h.advancePeg n k) b t :=
  Hub.pegEvent_keepsThread 4097 (h.setPeg n { h.peg n with value := (h.peg n).value + k }) n hw

/-- A thread that leaves RUN keeps its registers, and memory stays, whatever the advance of XPEG sets off (R274). -/
theorem Hub.leaveRun_spec (h : Hub) (b t : Nat) (st : TState) :
    (h.leaveRun b t st).mem = h.mem ∧
    (h.leaveRun b t st).thread b t = { h.thread b t with state := st, wait := .ready, stop := false, ahead := [] } := by
  unfold Hub.leaveRun
  simp only
  generalize hx : ({ h.thread b t with state := st, wait := .ready, stop := false, ahead := [] } : Thread) = x
  have hset : (h.setThread b t x).thread b t = x := Hub.thread_setThread_self h b t x
  split
  · have hk := Hub.advancePeg_keepsThread (h := h.setThread b t x) (b := b) (t := t) (by rw [hset, ← hx])
      ((h.setThread b t x).fld (rTctl b t) 48 12) 1
    exact ⟨hk.1, hk.2.trans hset⟩
  · exact ⟨rfl, hset⟩

/-! ### Exceptions -/

/-- A thread with its exception recorded (R274). -/
def Thread.recorded (x : Thread) (cause : Nat) (info : Word) : Thread :=
  { x with epc := x.pc % 2 ^ 20, cause := cause, info := info, wait := .ready }

/-- An exception of a thread that is no kernel thread: the handler runs, or, without one or in handler mode already, the
thread faults (R274). -/
theorem Hub.exception_of_no_kernel {h : Hub} {b t : Nat} (hk : h.kernelSlot b t = none) (cause : Nat) (info : Word) :
    h.exception b t cause info =
      let x := (h.thread b t).recorded cause info
      let g := h.setThread b t x
      if h.fld (rTctl b t) 20 20 ≠ 0 ∧ (h.thread b t).hmode = false then
        g.goTo b t (h.fld (rTctl b t) 20 20) { x with hmode := true }
      else g.leaveRun b t .faulted := by
  have hk' (x : Thread) : (h.setThread b t x).kernelSlot b t = none := hk
  unfold Hub.exception
  simp only [hk', Bool.not_eq_true]
  rfl

/-- A command that raises an exception of the thread of a healed hub raises it. -/
theorem State.raises_of_exception {s : State} {c : Instr} {b t w cause : Nat} {info : Word} {g : Hub}
    {a : List (Nat × Option Word)} (hf : s.hub.fetches b t w) (ht : t < 16) (hg : s.hub.healed g)
    (hx : exec c s = .next { s with
      hub := (g.setThread b t { s.hub.thread b t with ahead := a }).exception b t cause info }) :
    s.raises c b t cause info := by
  intro hkernel
  have hkernel' (x : Thread) : (g.setThread b t x).kernelSlot b t = none := (hg.kernelSlot b t).trans hkernel
  have hvec (x : Thread) : (g.setThread b t x).fld (rTctl b t) 20 20 = s.hub.fld (rTctl b t) 20 20 :=
    congrArg (bitsGet · 20 20) (hg.2 b t ht)
  rw [Hub.exception_of_no_kernel (hkernel' _)] at hx
  simp only [hvec, Hub.thread_setThread_self] at hx
  refine ⟨_, hx, ?_⟩
  split
  next hh =>
    rw [Hub.goTo_of_not_stop _ _ _ _ (by exact hf.not_stopped), Hub.thread_setThread_self]
    exact ⟨rfl, rfl, rfl, rfl, hg.cells, hf.state_run, rfl, rfl⟩
  next hh =>
    obtain ⟨hmem, hthread⟩ := Hub.leaveRun_spec _ b t .faulted
    rw [hthread, Hub.thread_setThread_self]
    exact ⟨rfl, rfl, rfl, rfl, (congrArg Mem.cells hmem).trans hg.cells, rfl⟩

/-- An illegal word raises ILLEGAL with the word in INFO, whatever its guard (R247). -/
theorem State.raises_of_illegal {s : State} {c : Instr} {b t w : Nat} {act : Nat → Thread → Hub → Hub}
    (hf : s.hub.fetches b t w) (ht : t < 16) (hl : augerLegal w = false)
    (hx : exec c s = .next { s with hub := s.hub.auger b t (augerRow w) act }) :
    s.raises c b t exIllegal (BitVec.ofNat 64 w) := by
  obtain ⟨g, a, hg, -, hauger⟩ := Hub.auger_of_fetches hf act
  rw [hauger] at hx
  simp only [hl, if_true] at hx
  exact State.raises_of_exception hf ht hg hx

/-- A legal and enabled word whose effect is an exception raises it (R273). -/
theorem State.raises_of_act {s : State} {c : Instr} {b t w cause : Nat} {info : Word} {act : Nat → Thread → Hub → Hub}
    (hf : s.hub.fetches b t w) (ht : t < 16) (hl : augerLegal w = true) (he : augerEnabled (s.hub.thread b t) w = true)
    (hx : exec c s = .next { s with hub := s.hub.auger b t (augerRow w) act })
    (hact : ∀ a g, act w { s.hub.thread b t with ahead := a } g = g.exception b t cause info) :
    s.raises c b t cause info := by
  obtain ⟨g, a, hg, -, hauger⟩ := Hub.auger_of_fetches hf act
  rw [hauger] at hx
  simp only [hl, he, Bool.true_eq_false, if_false, hact] at hx
  exact State.raises_of_exception hf ht hg hx

end Sys2Proof.Machine

/-! SUPPORT. Compares, predicate logic and branches (R253, R255): the fields of a word as bit vectors, and what each function of
the model computes. -/
namespace Sys2Proof.Machine

/-! ### Immediates and offsets -/

/-- The model's signed value of `n` bits is the bit vector's. -/
theorem signed_eq_toInt {n : Nat} (hn : 0 < n) (v : Nat) : signed n v = (BitVec.ofNat n v).toInt := by
  obtain ⟨m, rfl⟩ : ∃ m, n = m + 1 := ⟨n - 1, by omega⟩
  rw [signed, BitVec.toInt_eq_toNat_cond, BitVec.toNat_ofNat, Nat.add_sub_cancel, Nat.pow_succ]
  have hiff : 2 * (v % (2 ^ m * 2)) < 2 ^ m * 2 ↔ v % (2 ^ m * 2) < 2 ^ m := by omega
  simp only [hiff]

theorem iImm_eq_signExtend (w : Nat) : iImm w = (BitVec.ofNat 12 w).signExtend 64 := by
  rw [iImm, signed_eq_toInt (by decide), BitVec.signExtend]

theorem iOff_eq_toInt (w : Nat) : iOff w = (BitVec.ofNat 22 w).toInt := signed_eq_toInt (by decide) w

/-! ### Legal words -/

section Legal
variable {w : Nat}

theorem augerLegal_cmp (hr : augerRow w = .cmp) :
    augerLegal w = (decide (w / 2 ^ 17 % 4 = 0) && decide (w / 2 ^ 3 % 16 = 0) && decide (w % 8 < 6)) := by
  rw [augerLegal, hr]

theorem augerLegal_plog (hr : augerRow w = .plog) :
    augerLegal w = (decide (w / 2 ^ 10 % 8 < 5) && decide (w % 2 ^ 10 = 0)) := by
  rw [augerLegal, hr]

theorem augerLegal_jmpr (hr : augerRow w = .jmpr) : augerLegal w = (decide (iFn w = 0) && decide (iRb w = 0)) := by
  rw [augerLegal, hr]

/-- The rows without reserved encodings. -/
theorem augerLegal_of_row (hr : augerRow w = .cmpi ∨ augerRow w = .br ∨ augerRow w = .call) : augerLegal w = true := by
  rcases hr with hr | hr | hr <;> rw [augerLegal, hr]

end Legal

/-! ### Compares and predicate logic (R253) -/

@[simp] theorem cmpHolds_eq (a g : Word) : cmpHolds 0 a g = decide (a = g) := rfl
@[simp] theorem cmpHolds_ne (a g : Word) : cmpHolds 1 a g = decide (a ≠ g) := rfl
@[simp] theorem cmpHolds_lt (a g : Word) : cmpHolds 2 a g = decide (a.toInt < g.toInt) := rfl
@[simp] theorem cmpHolds_ge (a g : Word) : cmpHolds 3 a g = decide (g.toInt ≤ a.toInt) :=
  decide_not.symm.trans (decide_eq_decide.2 Int.not_lt)
@[simp] theorem cmpHolds_ltu (a g : Word) : cmpHolds 4 a g = decide (a.toNat < g.toNat) := rfl
@[simp] theorem cmpHolds_geu (a g : Word) : cmpHolds 5 a g = decide (g.toNat ≤ a.toNat) :=
  decide_not.symm.trans (decide_eq_decide.2 Nat.not_lt)

section Commands
variable {s : State} {b : Fin 64} {t : Fin 16} {w : Nat}

/-- A word whose effect writes a predicate and goes on ends with the thread so. -/
theorem State.endsWith_of_setP {c : Instr} {i : Nat} {v : Bool} {act : Nat → Thread → Hub → Hub}
    (hf : s.hub.fetches b.val t.val w) (hl : augerLegal w = true) (he : augerEnabled (s.hub.thread b.val t.val) w = true)
    (hx : exec c s = .next { s with hub := s.hub.auger b.val t.val (augerRow w) act })
    (hact : ∀ a g, act w { s.hub.thread b.val t.val with ahead := a } g =
      g.goOn b.val t.val (({ s.hub.thread b.val t.val with ahead := a } : Thread).setP i v)) :
    s.endsWith c b.val t.val { (s.hub.thread b.val t.val).setP i v with pc := (s.hub.thread b.val t.val).pc + 1 } := by
  refine State.endsWith_of_act hf hl he hx ((Thread.setP_stop ..).trans hf.not_stopped) fun a g => ?_
  rw [hact, Hub.goOn, Thread.setP_pc, Thread.setP_ahead]

theorem cmp_endsWith (hf : s.hub.fetches b.val t.val w) (hr : augerRow w = .cmp) (hl : augerLegal w = true)
    (he : augerEnabled (s.hub.thread b.val t.val) w = true) :
    let x := s.hub.thread b.val t.val
    s.endsWith (.cmp b t) b.val t.val
      { x.setP (iPd w) (cmpHolds (w % 8) (x.g (iRa w)) (x.g (iRb w))) with pc := x.pc + 1 } :=
  State.endsWith_of_setP hf hl he (by rw [hr]; rfl) fun _ _ => rfl

/-- CMPI has four conditions: 3 is that of Table 9.8 numbered 4. -/
theorem cmpi_endsWith (hf : s.hub.fetches b.val t.val w) (hr : augerRow w = .cmpi)
    (he : augerEnabled (s.hub.thread b.val t.val) w = true) :
    let x := s.hub.thread b.val t.val
    let cc := w / 2 ^ 17 % 4
    s.endsWith (.cmpi b t) b.val t.val
      { x.setP (iPd w) (cmpHolds (if cc = 3 then 4 else cc) (x.g (iRa w)) ((BitVec.ofNat 12 w).signExtend 64)) with
        pc := x.pc + 1 } :=
  State.endsWith_of_setP hf (augerLegal_of_row (.inl hr)) he (by rw [hr]; rfl) fun _ _ => by rw [← iImm_eq_signExtend]; rfl

theorem plog_endsWith (hf : s.hub.fetches b.val t.val w) (hr : augerRow w = .plog) (hl : augerLegal w = true)
    (he : augerEnabled (s.hub.thread b.val t.val) w = true) :
    let x := s.hub.thread b.val t.val
    s.endsWith (.plog b t) b.val t.val
      { x.setP (iPd w) (plogResult (w / 2 ^ 10 % 8) (x.p (w / 2 ^ 16 % 8)) (x.p (w / 2 ^ 13 % 8))) with pc := x.pc + 1 } :=
  State.endsWith_of_setP hf hl he (by rw [hr]; rfl) fun _ _ => rfl

theorem cmp_raises_illegal (hf : s.hub.fetches b.val t.val w) (hr : augerRow w = .cmp) (hl : augerLegal w = false) :
    s.raises (.cmp b t) b.val t.val exIllegal (BitVec.ofNat 64 w) :=
  State.raises_of_illegal hf t.isLt hl (by rw [hr]; rfl)

theorem plog_raises_illegal (hf : s.hub.fetches b.val t.val w) (hr : augerRow w = .plog) (hl : augerLegal w = false) :
    s.raises (.plog b t) b.val t.val exIllegal (BitVec.ofNat 64 w) :=
  State.raises_of_illegal hf t.isLt hl (by rw [hr]; rfl)

/-! ### Branches (R255) -/

/-- A branch from within the loft never wraps above: a target that is not negative is taken as it is. -/
theorem branchTo_of_nonneg {pc w : Nat} (hpc : pc < 2 ^ 20) (h : 0 ≤ (pc : Int) + (BitVec.ofNat 22 w).toInt) :
    branchTo pc (iOff w) = ((pc : Int) + (BitVec.ofNat 22 w).toInt).toNat := by
  have hoff : (BitVec.ofNat 22 w).toInt < 2 ^ 21 := BitVec.toInt_lt
  rw [branchTo, ofInt, iOff_eq_toInt, Int.emod_eq_of_lt h (by omega)]

/-- A branch to below word 0 leads beyond the loft (log entry 25). -/
theorem le_branchTo_of_neg {pc w : Nat} (h : (pc : Int) + (BitVec.ofNat 22 w).toInt < 0) : 2 ^ 20 ≤ branchTo pc (iOff w) := by
  have hoff : -2 ^ 21 ≤ (BitVec.ofNat 22 w).toInt := BitVec.le_toInt _
  rw [branchTo, ofInt, iOff_eq_toInt]
  omega

theorem br_endsWith (hf : s.hub.fetches b.val t.val w) (hr : augerRow w = .br)
    (he : augerEnabled (s.hub.thread b.val t.val) w = true) :
    let x := s.hub.thread b.val t.val
    s.endsWith (.br b t) b.val t.val { x with pc := branchTo x.pc (iOff w) } :=
  State.endsWith_of_act hf (augerLegal_of_row (.inr (.inl hr))) he (by rw [hr]; rfl) hf.not_stopped fun _ _ => rfl

theorem call_endsWith (hf : s.hub.fetches b.val t.val w) (hr : augerRow w = .call)
    (he : augerEnabled (s.hub.thread b.val t.val) w = true) :
    let x := s.hub.thread b.val t.val
    s.endsWith (.call b t) b.val t.val
      { x.setG 31 (BitVec.ofNat 64 (4 * (x.pc + 1))) with pc := branchTo x.pc (iOff w) } :=
  State.endsWith_of_act hf (augerLegal_of_row (.inr (.inr hr))) he (by rw [hr]; rfl)
    ((Thread.setG_stop ..).trans hf.not_stopped) fun _ _ => by rw [← Thread.setG_ahead]

/-- A JMPR target that is no word of the loft, as its bit fields and as its value. -/
theorem jmprTarget_bad_iff (a : Word) : (bitsGet a 0 2 ≠ 0 ∨ bitsGet a 22 42 ≠ 0) ↔ (a.toNat % 4 ≠ 0 ∨ 2 ^ 22 ≤ a.toNat) := by
  simp only [bitsGet, Nat.shiftRight_eq_div_pow]
  omega

theorem jmprTarget_eq {a : Word} (h : a.toNat < 2 ^ 22) : bitsGet a 2 20 = a.toNat / 4 := by
  simp only [bitsGet, Nat.shiftRight_eq_div_pow]
  omega

theorem jmpr_endsWith (hf : s.hub.fetches b.val t.val w) (hr : augerRow w = .jmpr) (hl : augerLegal w = true)
    (he : augerEnabled (s.hub.thread b.val t.val) w = true) :
    let x := s.hub.thread b.val t.val
    let a := x.g (iRa w)
    a.toNat % 4 = 0 → a.toNat < 2 ^ 22 →
      s.endsWith (.jmpr b t) b.val t.val { x.setG (iRd w) (BitVec.ofNat 64 (4 * (x.pc + 1))) with pc := a.toNat / 4 } := by
  intro x a h4 h22
  have hgood : ¬ (bitsGet a 0 2 ≠ 0 ∨ bitsGet a 22 42 ≠ 0) := by rw [jmprTarget_bad_iff]; omega
  refine State.endsWith_of_act hf hl he (by rw [hr]; rfl) ((Thread.setG_stop ..).trans hf.not_stopped) fun _ _ => ?_
  rw [← jmprTarget_eq h22, ← Thread.setG_ahead]
  exact if_neg hgood

theorem jmpr_raises_fetch (hf : s.hub.fetches b.val t.val w) (hr : augerRow w = .jmpr) (hl : augerLegal w = true)
    (he : augerEnabled (s.hub.thread b.val t.val) w = true) :
    let a := (s.hub.thread b.val t.val).g (iRa w)
    (a.toNat % 4 ≠ 0 ∨ 2 ^ 22 ≤ a.toNat) → s.raises (.jmpr b t) b.val t.val exFetch a := by
  intro a hbad
  exact State.raises_of_act hf t.isLt hl he (by rw [hr]; rfl) fun _ _ => if_pos ((jmprTarget_bad_iff a).2 hbad)

theorem jmpr_raises_illegal (hf : s.hub.fetches b.val t.val w) (hr : augerRow w = .jmpr) (hl : augerLegal w = false) :
    s.raises (.jmpr b t) b.val t.val exIllegal (BitVec.ofNat 64 w) :=
  State.raises_of_illegal hf t.isLt hl (by rw [hr]; rfl)

/-- What a command ends with is its next state's thread. -/
theorem State.endsWith.exists_pc {c : Instr} {b t : Nat} {y : Thread} (h : s.endsWith c b t y) :
    ∃ u : State, exec c s = .next u ∧ (u.hub.thread b t).pc = y.pc := by
  obtain ⟨u, a, hx, hthread, -⟩ := h
  exact ⟨u, hx, by rw [hthread]⟩

end Commands

/-- Settles O40: a legal CMP, CMPI or PLOG writes its predicate, of the value that Table 9.8 or OP gives; a reserved condition,
operation or bit makes the word illegal. -/
theorem comparesWritePredicates : Obligations.ComparesWritePredicates := by
  intro s b t w hf x a g imm ends
  refine ⟨fun hr hl he => ?_, fun hr he => ?_, fun hr hl he => ?_, fun hr hcc => ?_, fun hr hrsv => ?_, fun hr hop => ?_⟩
  · have hends : ends (.cmp b t) (iPd w) (cmpHolds (w % 8) a g) := cmp_endsWith hf hr hl he
    refine ⟨fun hcc => ?_, fun hcc => ?_, fun hcc => ?_, fun hcc => ?_, fun hcc => ?_, fun hcc => ?_⟩ <;> rw [hcc] at hends
    · exact cmpHolds_eq a g ▸ hends
    · exact cmpHolds_ne a g ▸ hends
    · exact cmpHolds_lt a g ▸ hends
    · exact cmpHolds_ge a g ▸ hends
    · exact cmpHolds_ltu a g ▸ hends
    · exact cmpHolds_geu a g ▸ hends
  · have hends : ends (.cmpi b t) (iPd w) (cmpHolds (if w / 2 ^ 17 % 4 = 3 then 4 else w / 2 ^ 17 % 4) a imm) :=
      cmpi_endsWith hf hr he
    refine ⟨fun hcc => ?_, fun hcc => ?_, fun hcc => ?_, fun hcc => ?_⟩ <;> rw [hcc] at hends
    · exact cmpHolds_eq a imm ▸ hends
    · exact cmpHolds_ne a imm ▸ hends
    · exact cmpHolds_lt a imm ▸ hends
    · exact cmpHolds_ltu a imm ▸ hends
  · have hends := plog_endsWith hf hr hl he
    refine ⟨fun hop => ?_, fun hop => ?_, fun hop => ?_, fun hop => ?_, fun hop => ?_⟩ <;> rw [hop] at hends <;> exact hends
  · exact cmp_raises_illegal hf hr (by rw [augerLegal_cmp hr, decide_eq_false (Nat.not_lt.2 hcc), Bool.and_false])
  · exact cmp_raises_illegal hf hr (by rw [augerLegal_cmp hr, decide_eq_false hrsv, Bool.false_and, Bool.false_and])
  · exact plog_raises_illegal hf hr (by rw [augerLegal_plog hr, decide_eq_false (Nat.not_lt.2 hop), Bool.false_and])

/-- Settles O42: a branch goes to its target, which below word 0 lies beyond the loft (log entry 25); JMPR goes to a word of the
loft or raises FETCH. -/
theorem branchesMoveThePc : Obligations.BranchesMoveThePc := by
  intro s b t w hf x off a
  refine ⟨fun hr he h0 => ?_, fun hr he h0 => ?_, fun hr he hneg => ?_, fun hr hl he => ?_, fun hr hrsv => ?_, fun hr he => ?_⟩
  · rw [← branchTo_of_nonneg hf.pc_lt h0]
    exact br_endsWith hf hr he
  · rw [← branchTo_of_nonneg hf.pc_lt h0]
    exact call_endsWith hf hr he
  · have hfar := le_branchTo_of_neg hneg
    rcases hr with hr | hr
    · obtain ⟨u, hx, hpc⟩ := (br_endsWith hf hr he).exists_pc
      exact ⟨u, by rw [if_pos hr, hx], by rw [hpc]; exact hfar⟩
    · obtain ⟨u, hx, hpc⟩ := (call_endsWith hf hr he).exists_pc
      exact ⟨u, by rw [hr, if_neg (by decide), hx], by rw [hpc]; exact hfar⟩
  · exact ⟨jmpr_endsWith hf hr hl he, jmpr_raises_fetch hf hr hl he⟩
  · refine jmpr_raises_illegal hf hr ?_
    rw [augerLegal_jmpr hr]
    rcases hrsv with h | h <;> simp [h]
  · rcases hr with hr | hr
    · rw [if_pos hr]
      exact State.endsWith_of_not_enabled hf (augerLegal_of_row (.inr (.inl hr))) he (by rw [hr]; rfl)
    · rw [hr, if_neg (by decide)]
      exact State.endsWith_of_not_enabled hf (augerLegal_of_row (.inr (.inr hr))) he (by rw [hr]; rfl)

end Sys2Proof.Machine
